-- ==== Sys2Proof/Word.lean ====
section
/-! DEFINITION. The word types of the model and the shape of its indexed stores. -/

namespace Sys2Proof

abbrev Byte := BitVec 8
/-- A 32-bit register value (R50). -/
abbrev Word := BitVec 32
/-- A 64-bit value: an address or a register pair (R52). -/
abbrev DWord := BitVec 64
/-- One bit per lane of a warp, lane l in bit l. -/
abbrev Mask := BitVec 32
/-- A descriptor of 128 bits (R55, R57). -/
abbrev Desc128 := BitVec 128

/-- An indexed store: (key, value) pairs, keys strictly rising, no entry equal to the store's
default value. The operations stand in Machine/Table.lean. -/
abbrev Table (α : Type) := List (Nat × α)

end Sys2Proof
end

