-- ==== Sys2Proof/Syntax.lean ====
section
/-! DEFINITION. The syntax: operand forms of the instruction encodings (spec 05) and one
constructor of Instr for every row of the opcode table, instructions and events alike. -/

namespace Sys2Proof

/-! ### Operands -/

/-- A source operand, one for each of the 512 source codes of R100. `imm c` is the code 384 + c and
stands for the value c − 64; `resv i` is the reserved code 336 + i. -/
inductive Src where
  | v (i : BitVec 8) | s (i : BitVec 6) | zero | lit | lane | wid | task | tilepart | time | lpc
  | p (i : BitVec 3) | resv (i : Fin 48) | imm (c : BitVec 7)
  deriving DecidableEq, Repr

/-- The switch marker and the guard of an instruction (R96, R103). -/
structure Guard where
  sw : Bool
  pn : Bool
  pi : BitVec 3
  deriving DecidableEq, Repr

/-- PERM codes 0 to 9 of R106. -/
inductive Perm where
  | none | bf1 | bf2 | bf4 | bf8 | bf16 | rot8 | rev | first | last
  deriving DecidableEq, Repr

/-- W of the integer MOD (R108, R130). -/
inductive IWidth where | w32 | w64 | x16 | x8
  deriving DecidableEq, Repr

/-- The integer MOD of R108. -/
structure IMod where
  w : IWidth
  z : Bool
  sat : Bool
  ud : Bool
  deriving DecidableEq, Repr

/-- RND of the float MOD (R108): the captured RM or a mode named. -/
inductive Rnd where | cap | rne | rtz | rdn | rup
  deriving DecidableEq, Repr

/-- FMT of the float MOD (R108, R157). -/
inductive Fmt where | f32 | f16 | bf16 | f64
  deriving DecidableEq, Repr

structure FMod where
  rnd : Rnd
  fmt : Fmt
  deriving DecidableEq, Repr

/-- SCOPE of the memory MOD (R108, R181). -/
inductive Scope where | plain | warp | group | core | dev | pod
  deriving DecidableEq, Repr

/-- ORD of the memory MOD (R108). -/
inductive MOrd where | rlx | acq | rel | ar
  deriving DecidableEq, Repr

structure MMod where
  scope : Scope
  ord : MOrd
  deriving DecidableEq, Repr

/-- A family without a MOD field: the field is reserved and zero (R108). -/
inductive NoMod where | nil
  deriving DecidableEq, Repr

/-- TY of an A64 operand (R97). -/
inductive Ty where | s32 | z32 | s64 | z64
  deriving DecidableEq, Repr

/-! ### Instruction forms (R95–R99) -/

structure C16 where
  sw : Bool
  vd : BitVec 5
  vs : BitVec 5
  deriving DecidableEq, Repr

structure N32 where
  g : Guard
  d : BitVec 8
  a : Src
  deriving DecidableEq, Repr

structure J32 where
  g : Guard
  disp : BitVec 17
  deriving DecidableEq, Repr

structure J96 where
  g : Guard
  disp : BitVec 32
  deriving DecidableEq, Repr

/-- W64 (`lit = none`) and W96. -/
structure WForm (μ : Type) where
  g : Guard
  d : BitVec 8
  a : Src
  b : Src
  c : Src
  perm : Perm
  m : μ
  lit : Option Word
  deriving DecidableEq, Repr

/-- The offset of M64 and of M96 (R97, R105). -/
inductive MOff where | short (o : BitVec 11) | long (o : BitVec 32)
  deriving DecidableEq, Repr

structure MForm (μ : Type) where
  g : Guard
  d : BitVec 8
  a : Src
  b : Src
  gsel : BitVec 2
  m : μ
  off : MOff
  deriving DecidableEq, Repr

structure AForm where
  g : Guard
  d : BitVec 8
  a : Src
  b : Src
  c : Src
  gsel : BitVec 2
  ty : Ty
  m : MMod
  deriving DecidableEq, Repr

/-- The 15 assigned format codes of CVT (R109). -/
inductive CvtFmt where
  | f32 | f16 | bf16 | e5m2 | e4m3 | e2m1 | f64 | s8 | z8 | s16 | z16 | s32 | z32 | s64 | z64
  deriving DecidableEq, Repr

structure CvtForm where
  g : Guard
  d : BitVec 8
  a : Src
  del : BitVec 3
  sel : BitVec 3
  sf : CvtFmt
  df : CvtFmt
  rnd : Rnd
  sat : Bool
  deriving DecidableEq, Repr

/-- BPACK and BUNPACK: field B is a block code (R171). -/
structure BlkForm where
  g : Guard
  d : BitVec 8
  a : Src
  blk : BitVec 9
  perm : Perm
  deriving DecidableEq, Repr

/-- LDT (R193). -/
structure LdtForm where
  g : Guard
  d : BitVec 8
  ti : BitVec 3
  b : Src
  trn : Bool
  rc : BitVec 2
  perm : Perm
  deriving DecidableEq, Repr

structure FenceForm where
  g : Guard
  d : BitVec 8
  gsel : BitVec 2
  m : MMod
  deriving DecidableEq, Repr

/-- An instruction on the region of a(ai): C holds ai (R204, R227, R241–R243). -/
structure RegForm where
  g : Guard
  d : BitVec 8
  a : Src
  b : Src
  ai : BitVec 4
  perm : Perm
  deriving DecidableEq, Repr

/-- MSPILL and MFILL (R244). -/
structure SpillForm where
  g : Guard
  d : BitVec 8
  a : Src
  ai : BitVec 4
  gsel : BitVec 2
  off : MOff
  deriving DecidableEq, Repr

/-- BAR (R217): `ve`, `vop`, `vin`, `vout` are the vote control of field C. -/
structure BarForm where
  g : Guard
  d : BitVec 8
  k : BitVec 2
  b : Src
  ve : Bool
  vop : BitVec 2
  vin : BitVec 3
  vout : BitVec 3
  perm : Perm
  deriving DecidableEq, Repr

/-- CSR access (R117, R263). -/
structure CsrForm where
  g : Guard
  d : BitVec 8
  a : Src
  num : BitVec 12
  deriving DecidableEq, Repr

/-- MLOOP (R233). -/
structure MloopForm where
  g : Guard
  d : BitVec 8
  a : Src
  b : Src
  shape : BitVec 2
  typ : Fin 9
  bsc : Bool
  ai : BitVec 4
  ti : BitVec 3
  abase : BitVec 8
  astep : BitVec 6
  tag : BitVec 6
  km1 : BitVec 10
  deriving DecidableEq, Repr

/-- COPY (R246). -/
structure CopyForm where
  g : Guard
  d : BitVec 8
  a : Src
  b : Src
  c : Src
  scope : Scope
  spitch : BitVec 22
  bsel : BitVec 2
  be : Bool
  tag : BitVec 6
  deriving DecidableEq, Repr

/-- MCAST (R247). -/
structure McastForm where
  g : Guard
  d : BitVec 8
  a : Src
  b : Src
  c : Src
  scope : Scope
  cmask : BitVec 16
  col : Bool
  bus : Bool
  quad : BitVec 3
  bsel : BitVec 2
  be : Bool
  tag : BitVec 6
  deriving DecidableEq, Repr

/-! ### Functions chosen by a minor (R117) -/

inductive ICond where | eq | ne | lt | le | gt | ge
  deriving DecidableEq, Repr
inductive FCond where | eq | ne | lt | le | gt | ge | un | ord
  deriving DecidableEq, Repr
inductive ShflMode where | abs | rel | bfly | ring
  deriving DecidableEq, Repr
inductive VoteOp where | and | or | same | mask | count | lowest
  deriving DecidableEq, Repr
inductive RduxIOp where | add | min | max | and | or | xor
  deriving DecidableEq, Repr
inductive RduxFOp where | fadd | fmin | fmax
  deriving DecidableEq, Repr
/-- RDUX minors 0–5 carry the integer MOD, minors 6–8 the float MOD (R154, R155). -/
inductive Rdux where
  | int (op : RduxIOp) (o : WForm IMod) | flt (op : RduxFOp) (o : WForm FMod)
  deriving DecidableEq, Repr
/-- LD and LDS minors (R184). -/
inductive LdFmt where | z8 | s8 | z16 | s16 | b32 | b64 | b128
  deriving DecidableEq, Repr
/-- ST and STS minors (R185). -/
inductive StFmt where | b8 | b16 | b32 | b64 | b128
  deriving DecidableEq, Repr
inductive PrefLevel where | l1 | l2
  deriving DecidableEq, Repr
inductive AtomOp where | add | min | max | and | or | xor | exch | cas | fadd
  deriving DecidableEq, Repr
inductive RedfFmt where | f32 | f16 | bf16
  deriving DecidableEq, Repr
inductive MreadMode where | plain | raw | st
  deriving DecidableEq, Repr
/-- DF of MCVT (R242). -/
inductive McvtFmt where | f16 | bf16 | e5m2 | e4m3 | e2m1
  deriving DecidableEq, Repr
/-- F of REDQ (R245). -/
inductive RedqFmt where | e5m2 | e4m3 | e2m1
  deriving DecidableEq, Repr

/-! ### Names of agents and payloads of events -/

/-- An issuing context of a core: one of its 256 warp slots, or its supervisor lane (R42, R50). -/
inductive Ctx where | slot (n : Nat) | sl
  deriving DecidableEq, Repr

structure Who where
  core : Nat
  ctx : Ctx
  deriving DecidableEq, Repr

/-- The two fronts of a warp (R27). -/
inductive Front where | user | sup
  deriving DecidableEq, Repr

/-- A result outstanding on a front in some lanes (R111). -/
structure Awaited where
  front : Front
  lanes : Mask
  deriving DecidableEq, Repr

/-- What a read of stored data finds (R406). -/
inductive EccResult where | clean | corrected | uncorrectable
  deriving DecidableEq, Repr

/-- Where a guarded sector stands: a DRAM sector of the device, a sector of a slice's general lines by its address over 32,
a stash sector of a core, a sector of an armed region, a line of a core's L1 (R406). -/
inductive EccSite where
  | dram (sector : Nat)
  | slice (sector : Nat)
  | stash (core sector : Nat)
  | region (slice line sector : Nat)
  | l1 (core line : Nat)
  deriving DecidableEq, Repr

/-- A crest slot: the bank of R283 numbered over the device, and a row 0–1,023 (R286). -/
structure SlotId where
  bank : Nat
  row : Nat
  deriving DecidableEq, Repr

/-- A timestamp of an exchange and the device that sent it (R344). -/
structure TimeMsg where
  dev : Nat
  t : DWord
  deriving DecidableEq, Repr

/-- The least timings of a bank's crest and apron segments that a timing test found (R447). -/
structure TimingTest where
  bank : Nat
  crest : Word
  apron : Word
  deriving DecidableEq, Repr

/-- A packet class (R328). -/
inductive PktClass where | msg | req | rsp | ctl
  deriving DecidableEq, Repr

/-- What a packet carries (R324, R328); a parcel write-back goes among the stores. -/
inductive PktKind where
  | load | store | fill | renewal | atomic | enq | deq | waitv | wakev | redq | drift | walk | engineRead | engineWrite
  | contribution | regionRequest | syscEntry | parcelWriteBack
  | dataReply | ack | status | macqGrant | sqreplyResult
  | recall | invalidation | leaseFloor | dispatcherCommand | gazWake | interruptDelivery
  | msend
  deriving DecidableEq, Repr

/-- The class of what a packet carries (R328). -/
def PktKind.cls : PktKind → PktClass
  | .dataReply | .ack | .status | .macqGrant | .sqreplyResult => .rsp
  | .recall | .invalidation | .leaseFloor | .dispatcherCommand | .gazWake | .interruptDelivery => .ctl
  | .msend => .msg
  | .load | .store | .fill | .renewal | .atomic | .enq | .deq | .waitv | .wakev | .redq | .drift | .walk | .engineRead
  | .engineWrite | .contribution | .regionRequest | .syscEntry | .parcelWriteBack => .req

/-- The flits of a packet (R324). -/
def PktKind.flits : PktKind → Nat
  | .parcelWriteBack => 17
  | _ => 1

/-- Who injects or receives at a network interface: the core or slice whose it is, or a unit that shares it (R327): the
Dispatcher; the Gazetteer and GATE timers; the IOMMU and root ports; the UALink and Ultra Ethernet engines; the boot
block. -/
inductive NetUnit where | own | dispatcher | gazetteer | iommu | ualink | boot
  deriving DecidableEq, Repr

/-- A packet on the network (R324–R332). `src` and `dst` are route-table indices: core n is n and slice n is 128 + n
(R326); `unit` is the unit code that the header carries (R327). -/
structure Packet where
  id : Nat
  kind : PktKind
  src : Nat
  dst : Nat
  unit : NetUnit
  turns : BitVec 24
  port : BitVec 2
  hops : Nat
  age : Nat
  seq : Nat
  deriving DecidableEq, Repr

def Packet.cls (p : Packet) : PktClass := p.kind.cls
def Packet.flits (p : Packet) : Nat := p.kind.flits

/-- What an endpoint asks of the device (R354, R355, R441). -/
inductive IoKind where
  | read (n : Nat) | write (bytes : List Byte) | fetchAdd (n : Nat) (v : DWord) | swap (n : Nat) (v : DWord)
  | cas (n : Nat) (cmp v : DWord)
  /-- A translation request of ATS (R352). -/
  | ats
  deriving DecidableEq, Repr

structure IoReq where
  port : Nat
  rid : BitVec 16
  pasid : Option (BitVec 20)
  addr : DWord
  kind : IoKind
  ecrcBad : Bool
  poisoned : Bool
  deriving DecidableEq, Repr

/-- A claim of leadership, or a heartbeat, as it arrives (R367, R369): a claim with the sender's measurement, its public
key and its signature. -/
structure Claim where
  identity : BitVec 12
  epoch : BitVec 12
  heartbeat : Bool
  time : DWord
  meas : BitVec 256
  key : List Byte
  sig : List Byte
  deriving DecidableEq, Repr

/-- What is asked of a parcel's home (R311, R351, R358). -/
inductive ReqKind where
  /-- A device's read of at most 256 bytes at an offset of the parcel (R358), and its request for ownership. -/
  | peerRead (dev off n : Nat)
  | peerWrite (dev : Nat)
  | homeRead
  | homeWrite
  /-- An indivisible kind by a device, which leaves these bytes at an offset of the parcel. -/
  | rmw (dev off : Nat) (bytes : List Byte)
  /-- A device's atomic of n bytes. -/
  | atomic (dev off n : Nat) (op : AtomOp) (y z : Nat)
  /-- The comparison of a device's WAITV, for a lane of its entry. -/
  | compare (dev off n y entry : Nat)
  /-- A device's WAKEV, with the key and the release time it carries. -/
  | wake (dev off asid va count time : Nat)
  /-- A device's DRIFT by its minor, with the LCL and drift bit of its translation. -/
  | drift (dev off minor lcl : Nat) (db : Bool)
  /-- A device asks to join, and answers the home's nonce: PEERUSED, its identity key and the signature (R422). -/
  | join (dev : Nat)
  | proof (dev : Nat) (used : Bool) (key sig : List Byte)
  /-- A device's page migrates to this home: its old address and size, the first time of its lines, its bytes that are not 0,
  its poisoned sectors, and the proxies that wait on its words, by offset, device and entry (R314). -/
  | page (dev old n time : Nat) (bytes : Table Byte) (bad : List Nat) (waits : List (Nat × Nat × Nat))
  deriving DecidableEq, Repr

/-- A request on a parcel at its home; one that a device may send again carries its transaction tag (R436). -/
structure ParcelReq where
  tag : Option Nat
  kind : ReqKind
  deriving DecidableEq, Repr

/-- Who writes an interrupt message: an endpoint through a root port, or a peer device (R357). -/
inductive IrqBy where
  | endpoint (rid : BitVec 16) (port : Nat) | peer (dev : Nat)
  deriving DecidableEq, Repr

/-- One copy of the boot image as the flash holds it, from its header on; past its end the flash reads FF (R363, R443). -/
structure FlashCopy where
  bytes : List Byte
  deriving DecidableEq, Repr

end Sys2Proof

namespace Sys2Proof

/-- One constructor per row of the opcode table, in the table's order but for the events that only the
outside brings about, which stand last: instructions carry their operand form, events what the moment they
happen at fixes of them. -/
inductive Instr where
  /-- IADD (R132). -/
  | iadd (o : WForm IMod)
  /-- ISUB (R132). -/
  | isub (o : WForm IMod)
  /-- IADD3 (R132). -/
  | iadd3 (o : WForm IMod)
  /-- INEG (R132). -/
  | ineg (o : WForm IMod)
  /-- IABS (R132). -/
  | iabs (o : WForm IMod)
  /-- IMUL (R132). -/
  | imul (o : WForm IMod)
  /-- IMULH (R132). -/
  | imulh (o : WForm IMod)
  /-- IMAD (R132). -/
  | imad (o : WForm IMod)
  /-- IMADW (R132). -/
  | imadw (o : WForm IMod)
  /-- IMIN (R132). -/
  | imin (o : WForm IMod)
  /-- IMAX (R132). -/
  | imax (o : WForm IMod)
  /-- AND (R133). -/
  | and (o : WForm IMod)
  /-- OR (R133). -/
  | or (o : WForm IMod)
  /-- XOR (R133). -/
  | xor (o : WForm IMod)
  /-- NOT (R133). -/
  | not (o : WForm IMod)
  /-- ANDN (R133). -/
  | andn (o : WForm IMod)
  /-- ORN (R133). -/
  | orn (o : WForm IMod)
  /-- SHL (R134). -/
  | shl (o : WForm IMod)
  /-- SHR (R134). -/
  | shr (o : WForm IMod)
  /-- SAR (R134). -/
  | sar (o : WForm IMod)
  /-- ROTL (R134). -/
  | rotl (o : WForm IMod)
  /-- ROTR (R134). -/
  | rotr (o : WForm IMod)
  /-- FSHL (R134). -/
  | fshl (o : WForm IMod)
  /-- FSHR (R134). -/
  | fshr (o : WForm IMod)
  /-- BFE (R135). -/
  | bfe (o : WForm IMod)
  /-- BFI (R135). -/
  | bfi (o : WForm IMod)
  /-- POPC (R135). -/
  | popc (o : WForm IMod)
  /-- CLZ (R135). -/
  | clz (o : WForm IMod)
  /-- BREV (R135). -/
  | brev (o : WForm IMod)
  /-- FFS (R135). -/
  | ffs (o : WForm IMod)
  /-- IDIV (R176). -/
  | idiv (o : WForm NoMod)
  /-- IREM (R176). -/
  | irem (o : WForm NoMod)
  /-- LEA (R136). -/
  | lea (o : WForm IMod)
  /-- LEAW (R136). -/
  | leaw (o : WForm IMod)
  /-- ICMP (R137). -/
  | icmp (cc : ICond) (o : WForm IMod)
  /-- SEL (R138). -/
  | sel (o : WForm IMod)
  /-- PAND (R139). -/
  | pand (o : WForm NoMod)
  /-- POR (R139). -/
  | por (o : WForm NoMod)
  /-- PXOR (R139). -/
  | pxor (o : WForm NoMod)
  /-- PNOT (R139). -/
  | pnot (o : WForm NoMod)
  /-- MOV (R140). -/
  | mov (o : WForm NoMod)
  /-- MOV_N32 (R140). -/
  | movN32 (o : N32)
  /-- MOVU (R140). -/
  | movu (o : WForm NoMod)
  /-- MOVP (R140). -/
  | movp (o : WForm NoMod)
  /-- XGET (R140). -/
  | xget (o : WForm NoMod)
  /-- XPUT (R140). -/
  | xput (o : WForm NoMod)
  /-- TGET (R141). -/
  | tget (o : WForm NoMod)
  /-- TSET (R141). -/
  | tset (o : WForm NoMod)
  /-- AGET (R141). -/
  | aget (o : WForm NoMod)
  /-- ASET (R141). -/
  | aset (o : WForm NoMod)
  /-- FADD (R161). -/
  | fadd (o : WForm FMod)
  /-- FSUB (R161). -/
  | fsub (o : WForm FMod)
  /-- FMUL (R161). -/
  | fmul (o : WForm FMod)
  /-- FFMA (R161). -/
  | ffma (o : WForm FMod)
  /-- FFMS (R161). -/
  | ffms (o : WForm FMod)
  /-- FNMA (R161). -/
  | fnma (o : WForm FMod)
  /-- FMIN (R162). -/
  | fmin (o : WForm FMod)
  /-- FMAX (R162). -/
  | fmax (o : WForm FMod)
  /-- FCMP (R163). -/
  | fcmp (cc : FCond) (o : WForm FMod)
  /-- RCP (R165). -/
  | rcp (o : WForm FMod)
  /-- RSQ (R165). -/
  | rsq (o : WForm FMod)
  /-- SQRT (R165). -/
  | sqrt (o : WForm FMod)
  /-- EX2 (R165). -/
  | ex2 (o : WForm FMod)
  /-- LG2 (R165). -/
  | lg2 (o : WForm FMod)
  /-- SIN (R165). -/
  | sin (o : WForm FMod)
  /-- COS (R165). -/
  | cos (o : WForm FMod)
  /-- TANH (R165). -/
  | tanh (o : WForm FMod)
  /-- CVT (R169). -/
  | cvt (o : CvtForm)
  /-- BPACK (R173). -/
  | bpack (o : BlkForm)
  /-- BUNPACK (R174). -/
  | bunpack (o : BlkForm)
  /-- FDIV (R177). -/
  | fdiv (o : WForm FMod)
  /-- BRA (R142). -/
  | bra (o : J96)
  /-- BRA_J32 (R142). -/
  | braJ32 (o : J32)
  /-- CALL (R143). -/
  | call (o : WForm NoMod)
  /-- CALLX (R143). -/
  | callx (o : WForm NoMod)
  /-- JMPX (R143). -/
  | jmpx (o : WForm NoMod)
  /-- RET (R143). -/
  | ret (o : WForm NoMod)
  /-- JOIN (R146). -/
  | join (o : WForm NoMod)
  /-- JOIN_TIMEOUT (R146). -/
  | joinTimeout (w : Who) (addr : DWord)
  /-- EXIT (R148). -/
  | exit (o : N32)
  /-- YIELD (R149). -/
  | yield (o : N32)
  /-- BRK (R150). -/
  | brk (o : N32)
  /-- SHFL (R152). -/
  | shfl (m : ShflMode) (o : WForm NoMod)
  /-- VOTE (R153). -/
  | vote (op : VoteOp) (o : WForm NoMod)
  /-- RDUX (R154). -/
  | rdux (r : Rdux)
  /-- MOV_C16 (R116). -/
  | movC16 (o : C16)
  /-- IADD_C16 (R116). -/
  | iaddC16 (o : C16)
  /-- ISUB_C16 (R116). -/
  | isubC16 (o : C16)
  /-- AND_C16 (R116). -/
  | andC16 (o : C16)
  /-- OR_C16 (R116). -/
  | orC16 (o : C16)
  /-- XOR_C16 (R116). -/
  | xorC16 (o : C16)
  /-- SHL_C16 (R116). -/
  | shlC16 (o : C16)
  /-- SHR_C16 (R116). -/
  | shrC16 (o : C16)
  /-- SAR_C16 (R116). -/
  | sarC16 (o : C16)
  /-- IMUL_C16 (R116). -/
  | imulC16 (o : C16)
  /-- IMIN_C16 (R116). -/
  | iminC16 (o : C16)
  /-- IMAX_C16 (R116). -/
  | imaxC16 (o : C16)
  /-- FADD_C16 (R116). -/
  | faddC16 (o : C16)
  /-- FMUL_C16 (R116). -/
  | fmulC16 (o : C16)
  /-- FMIN_C16 (R116). -/
  | fminC16 (o : C16)
  /-- FMAX_C16 (R116). -/
  | fmaxC16 (o : C16)
  /-- LD (R184). -/
  | ld (f : LdFmt) (o : MForm MMod)
  /-- LOAD_DATA_RETURN (R111). -/
  | loadDataReturn (w : Who) (r : Awaited)
  /-- ST (R185). -/
  | st (f : StFmt) (o : MForm MMod)
  /-- LDS (R188). -/
  | lds (f : LdFmt) (o : MForm MMod)
  /-- STS (R188). -/
  | sts (f : StFmt) (o : MForm MMod)
  /-- LDT (R193). -/
  | ldt (o : LdtForm)
  /-- STMAP (R189). -/
  | stmap (o : WForm NoMod)
  /-- STUNMAP (R192). -/
  | stunmap (o : WForm NoMod)
  /-- PREF (R195). -/
  | pref (l : PrefLevel) (o : MForm NoMod)
  /-- DISCARD (R196). -/
  | discard (o : MForm MMod)
  /-- DRIFT_P (R197). -/
  | driftP (o : MForm NoMod)
  /-- DRIFT_D (R197). -/
  | driftD (o : MForm NoMod)
  /-- DRIFT_Q (R198). -/
  | driftQ (o : MForm NoMod)
  /-- ROW_COPY_END (R288). -/
  | rowCopyEnd (id : SlotId) (failed : Bool)
  /-- COPYBACK_RETRY (R414). -/
  | copybackRetry (id : SlotId) (failed : Bool)
  /-- MARKED_SLOT_COPYBACK (R291). -/
  | markedSlotCopyback (id : SlotId)
  /-- REPEATED_ACTIVATION_PROMOTION (R290). -/
  | repeatedActivationPromotion (chunk : Nat)
  /-- FENCE (R200). -/
  | fence (o : FenceForm)
  /-- ATOM (R202). -/
  | atom (op : AtomOp) (o : AForm)
  /-- REDF (R204). -/
  | redf (f : RedfFmt) (o : RegForm)
  /-- CONTRIBUTION_APPLY (R87). -/
  | contributionApply (slice : Nat) (k : Nat)
  /-- ENQ (R209). -/
  | enq (o : MForm MMod)
  /-- DEQ (R209). -/
  | deq (o : MForm MMod)
  /-- WAITV (R211). -/
  | waitv (o : AForm)
  /-- WAITV_DEADLINE (R350). -/
  | waitvDeadline (die : Nat) (k : Nat)
  /-- WAKEV (R214). -/
  | wakev (o : MForm MMod)
  /-- PROXY_WAKE (R351). -/
  | proxyWake (die : Nat) (k : Nat)
  /-- BAR_ARRIVE (R218). -/
  | barArrive (o : BarForm)
  /-- BAR_WAIT (R219). -/
  | barWait (o : BarForm)
  /-- BAR_SYNC (R219). -/
  | barSync (o : BarForm)
  /-- BAR_PEND (R220). -/
  | barPend (o : BarForm)
  /-- TWAIT_ANY (R222). -/
  | twaitAny (o : WForm NoMod)
  /-- TWAIT_ALL (R222). -/
  | twaitAll (o : WForm NoMod)
  /-- TFFR (R222). -/
  | tffr (o : WForm NoMod)
  /-- TCLR (R222). -/
  | tclr (o : WForm NoMod)
  /-- MLOOP (R233). -/
  | mloop (o : MloopForm)
  /-- MLOOP_COMPLETE (R239). -/
  | mloopComplete (core : Nat) (tag : Nat)
  /-- MZERO (R226). -/
  | mzero (o : WForm NoMod)
  /-- MACQ (R228). -/
  | macq (o : RegForm)
  /-- MACQ_GRANT (R228). -/
  | macqGrant (slice : Nat) (line : Nat)
  /-- MREL (R229). -/
  | mrel (o : RegForm)
  /-- COUNTED_RELEASE (R229). -/
  | countedRelease (slice : Nat) (k : Nat)
  /-- MREL_FIN (R229). -/
  | mrelFin (o : RegForm)
  /-- MREAD (R241). -/
  | mread (m : MreadMode) (o : RegForm)
  /-- MCVT (R242). -/
  | mcvt (df : McvtFmt) (sat : Bool) (o : RegForm)
  /-- ROWSTAT (R243). -/
  | rowstat (o : RegForm)
  /-- REDQ (R245). -/
  | redq (f : RedqFmt) (o : MForm NoMod)
  /-- MSPILL (R244). -/
  | mspill (o : SpillForm)
  /-- MFILL (R244). -/
  | mfill (o : SpillForm)
  /-- COPY (R246). -/
  | copy (o : CopyForm)
  /-- COPY_COMPLETE (R246). -/
  | copyComplete (core : Nat) (tag : Nat)
  /-- MCAST (R247). -/
  | mcast (o : McastForm)
  /-- MCAST_COMPLETE (R247). -/
  | mcastComplete (core : Nat) (tag : Nat)
  /-- MSEND (R249). -/
  | msend (o : WForm NoMod)
  /-- MESSAGE_RECEIVE (R250). -/
  | messageReceive (core : Nat)
  /-- LAUNCH (R252). -/
  | launch (o : WForm NoMod)
  /-- LAUNCH_ACCEPT (R315). -/
  | launchAccept
  /-- DEPENDENCE_POLL (R316). -/
  | dependencePoll (queue : Nat)
  /-- TASK_PLACEMENT (R318). -/
  | taskPlacement
  /-- LAUNCH_QUEUE_AGEING (R49). -/
  | launchQueueAgeing (queue : Nat)
  /-- TASK_START (R319). -/
  | taskStart (task : Nat)
  /-- WARP_SLOT_FREE (R36). -/
  | warpSlotFree (core : Nat) (slot : Nat)
  /-- DSTOP (R254). -/
  | dstop (o : WForm NoMod)
  /-- DRESUME (R254). -/
  | dresume (o : WForm NoMod)
  /-- WARP_SAVE (R46). -/
  | warpSave (core : Nat) (slot : Nat)
  /-- TASK_RESUME (R48). -/
  | taskResume (task : Nat)
  /-- SYSC (R255). -/
  | sysc (o : WForm NoMod)
  /-- SQ_PRESSURE (R255). -/
  | sqPressure (core : Nat)
  /-- SQTAKE (R257). -/
  | sqtake (o : WForm NoMod)
  /-- SQREPLY (R258). -/
  | sqreply (o : WForm NoMod)
  /-- GATE (R259). -/
  | gate (o : WForm NoMod)
  /-- GATE_TIMER_FIRE (R345). -/
  | gateTimerFire (die : Nat) (timer : Nat)
  /-- FQTAKE (R261). -/
  | fqtake (o : WForm NoMod)
  /-- FQRESUME (R403). -/
  | fqresume (o : WForm NoMod)
  /-- TRET (R262). -/
  | tret (o : N32)
  /-- CSRR (R263). -/
  | csrr (o : CsrForm)
  /-- CSRW (R263). -/
  | csrw (o : CsrForm)
  /-- CSRS (R263). -/
  | csrs (o : CsrForm)
  /-- CSRC (R263). -/
  | csrc (o : CsrForm)
  /-- WAYMASK_TAKE_EFFECT (R63). -/
  | waymaskTakeEffect (core : Nat)
  /-- VRDI (R264). -/
  | vrdi (o : WForm NoMod)
  /-- VWRI (R264). -/
  | vwri (o : WForm NoMod)
  /-- TLBI (R265). -/
  | tlbi (o : WForm NoMod)
  /-- TLBIA (R265). -/
  | tlbia (o : WForm NoMod)
  /-- TLBIG (R265). -/
  | tlbig (o : WForm NoMod)
  /-- CFLUSH (R265). -/
  | cflush (o : WForm NoMod)
  /-- CINV (R265). -/
  | cinv (o : WForm NoMod)
  /-- ICINV (R265). -/
  | icinv (o : WForm NoMod)
  /-- OSAVE (R266). -/
  | osave (o : WForm NoMod)
  /-- ODROP (R266). -/
  | odrop (o : WForm NoMod)
  /-- INTERRUPT_ENTRY (R343). -/
  | interruptEntry (core : Nat)
  /-- TIMECMP_MATCH (R62). -/
  | timecmpMatch (core : Nat)
  /-- GLOBAL_TICK (R344). -/
  | globalTick (adv : Fin 3)
  /-- PREDICTOR_DECAY (R281). -/
  | predictorDecay
  /-- MIGRATION_START (R314). -/
  | migrationStart
  /-- MIGRATION_END_FORWARD (R366). -/
  | migrationEndForward
  /-- REFERENCE_CLOCK_LOST (R426). -/
  | referenceClockLost
  /-- LINK_RETIRE (R429). -/
  | linkRetire (router : Nat) (port : Nat)
  /-- LINK_BOUNCE (R429). -/
  | linkBounce (router : Nat) (port : Nat)
  /-- LINK_TRAIN (R429). -/
  | linkTrain (router : Nat) (port : Nat) (ok : Bool)
  /-- ROUTE_TABLE_WRITE (R432). -/
  | routeTableWrite (unit : Nat) (entry : Nat) (v : Word)
  /-- SLSTART_GO (R342). -/
  | slstartGo (core : Nat)
  /-- TIMESET (R344). -/
  | timeset (v : DWord)
  /-- REGDIS (R230). -/
  | regdis (slice : Nat) (v : Word)
  /-- IOMMU_INV_ALL (R356). -/
  | iommuInvAll
  /-- IOMMU_INV_PARTITION (R356). -/
  | iommuInvPartition (arg : Word)
  /-- IOMMU_INV_REQUESTER (R356). -/
  | iommuInvRequester (arg : Word)
  /-- IOMMU_INV_PASID (R356). -/
  | iommuInvPasid (arg : Word)
  /-- IOMMU_INV_REMAP (R356). -/
  | iommuInvRemap (arg : Word)
  /-- UE_DOORBELL (R361). -/
  | ueDoorbell (port : Nat) (qp : Nat) (count : Word)
  /-- LOSTCMD (R438). -/
  | lostcmd (v : Word)
  /-- SCRUB_UNFENCE_KEEP (R421). -/
  | scrubUnfenceKeep
  /-- SCRUB_UNFENCE_ZERO (R421). -/
  | scrubUnfenceZero
  /-- JOINDEV_GO (R422). -/
  | joindevGo (dev : BitVec 11) (answer : BitVec 2)
  /-- HMCMD_GO (R435). -/
  | hmcmdGo (v : Word)
  /-- SLOT_RETIRE (R415). -/
  | slotRetire (id : SlotId)
  /-- SLOT_RETURN (R415). -/
  | slotReturn (id : SlotId)
  /-- MCFG_LOCK (R366). -/
  | mcfgLock (v : Word)
  /-- POWER_ON_RESET (R362). -/
  | powerOnReset
  /-- SIBLING_LOCK_TIMEOUT (R443). -/
  | siblingLockTimeout
  /-- MEASEXT (R364). -/
  | measext (die : Nat) (digest : BitVec 256)
  /-- ATTGO (R365). -/
  | attgo (die : Nat)
  /-- CLAIMGO (R367). -/
  | claimgo (die : Nat)
  /-- CLAIM_SETTLE (R445). -/
  | claimSettle (die : Nat)
  /-- PLANGO (R450). -/
  | plango (seq : DWord)
  /-- REGISTER_WRITE (R341). -/
  | registerWrite (off : Nat) (n : Nat) (v : DWord)
  /-- UNASSIGNED_ENCODING (R119). -/
  | unassignedEncoding (sub : Option (Fin 4))
  /-- LOGICAL_CLOCK_ADVANCE (R308). -/
  | logicalClockAdvance
  /-- ENGINE_BYTES_DELIVERED (R220). -/
  | engineBytesDelivered (core : Nat) (tag : Nat)
  /-- MLOOP_STEP_END (R239). -/
  | mloopStepEnd (core : Nat) (tag : Nat)
  /-- MIGRATION_COPY_DONE (R314). -/
  | migrationCopyDone
  /-- HOME_MOVE_DONE (R435). -/
  | homeMoveDone
  /-- PLANEMAP_WRITE (R436). -/
  | planemapWrite (v : DWord)
  /-- STAGE_DELIVERY (R368). -/
  | stageDelivery (die : Nat) (stage : Nat) (digest : BitVec 256)
  /-- STAGE_DELIVERY_ANSWER (R444). -/
  | stageDeliveryAnswer (die : Nat) (follower : Nat) (ok : Bool)
  /-- HOME_TIMEOUT (R437). -/
  | homeTimeout (dev : Nat) (recalled : Bool)
  /-- ENDPOINT_REQUEST (R355). -/
  | endpointRequest (r : IoReq)
  /-- INTERRUPT_MESSAGE_WRITE (R357): by an endpoint, through its root port, or by a peer device. -/
  | interruptMessageWrite (by_ : IrqBy) (data : Word)
  /-- UE_DESCRIPTOR_COMPLETE (R361). -/
  | ueDescriptorComplete (port : Nat) (qp : Nat) (status : Word) (readData : List Byte)
  /-- UE_REMOTE_WRITE (R361). -/
  | ueRemoteWrite (port : Nat) (qp : Nat) (va : DWord) (bytes : List Byte)
  /-- PACKET_ARRIVAL (R325). -/
  | packetArrival (router : Nat) (port : Nat) (p : Packet)
  /-- OUTPUT_ARBITRATION (R333). -/
  | outputArbitration (router : Nat) (port : Nat)
  /-- PROMOTION_CYCLE (R334). -/
  | promotionCycle (router : Nat) (port : Nat)
  /-- FLIT_REPLAY (R428). -/
  | flitReplay (router : Nat) (port : Nat) (eighth : Bool)
  /-- CHANNEL_STALL (R430). -/
  | channelStall (router : Nat) (port : Nat) (vc : Nat)
  /-- BOUNCED_REINJECT (R431). -/
  | bouncedReinject (unit : Nat)
  /-- ROUTER_GATE (R335). -/
  | routerGate (router : Nat)
  /-- ROUTER_WAKE (R336). -/
  | routerWake (router : Nat)
  /-- ROOT_PORT_COMPLETION_TIMEOUT (R441). -/
  | rootPortCompletionTimeout (port : Nat)
  /-- ROOT_PORT_LINK_DOWN (R441). -/
  | rootPortLinkDown (port : Nat)
  /-- ROOT_PORT_AER_EVENT (R441). -/
  | rootPortAerEvent (port : Nat) (unc : Bool) (bit : BitVec 8)
  /-- ROOT_PORT_LINK_TRAINED (R352). -/
  | rootPortLinkTrained (port : Nat) (rate : Nat)
  /-- UALINK_PORT_DOWN (R436). -/
  | ualinkPortDown (port : Nat)
  /-- UALINK_LINK_RETRY (R436). -/
  | ualinkLinkRetry (port : Nat)
  /-- FATAL_NOTICE_RECEIVE (R437). -/
  | fatalNoticeReceive (dev : Nat)
  /-- BOOT_ROM_LOAD (R364). -/
  | bootRomLoad (die : Nat) (first : FlashCopy) (second : FlashCopy) (trainFail : Option Nat)
  /-- CLAIM_RECEIVE (R445). -/
  | claimReceive (die : Nat) (c : Claim)
  /-- HEARTBEAT_SEND (R369). -/
  | heartbeatSend (die : Nat)
  /-- HEARTBEAT_LAPSE (R446). -/
  | heartbeatLapse (die : Nat)
  /-- SURVEYOR_TRIG_MEASURE (R447). -/
  | surveyorTrigMeasure (slacks : List (BitVec 16)) (plan : List Byte) (noFull : Bool)
  /-- SURVEYOR_TIMING_TEST (R447). -/
  | surveyorTimingTest (r : TimingTest) (plan : List Byte) (noFull : Bool)
  /-- TEMPERATURE_WARNING (R453). -/
  | temperatureWarning (sensor : Nat)
  /-- TEMPERATURE_TRIP (R453). -/
  | temperatureTrip (sensor : Nat)
  /-- SLICE_EVICTION (R309). -/
  | sliceEviction (slice : Nat) (line : Nat)
  /-- FILL_REQUEST (R309). -/
  | fillRequest (core : Nat) (line : Nat)
  /-- STORE_AT_HOME (R309). -/
  | storeAtHome (core : Nat) (line : Nat)
  /-- PROXY_ENTRY_EMPTIED (R351). -/
  | proxyEntryEmptied (die : Nat) (k : Nat)
  /-- HEAD_RESERVE (R317). -/
  | headReserve (queue : Nat)
  /-- SLOT_COPYBACK_TRY (R415). -/
  | slotCopybackTry (id : SlotId) (failed : Bool)
  /-- TIME_SYNC_EXCHANGE (R344): a timestamp from a device arrives. -/
  | timeSyncExchange (m : TimeMsg)
  /-- CADASTRE_REQUEST (R311). -/
  | cadastreRequest (parcel : Nat) (r : ParcelReq)
  /-- INVALIDATION_RECEIVE (R312). -/
  | invalidationReceive (parcel : Nat)
  /-- RECALL_RECEIVE (R311). -/
  | recallReceive (parcel : Nat)
  /-- DRAM_REFRESH (R283). -/
  | dramRefresh (bank : Nat) (rfm : Bool)
  /-- DRAM_PATROL_READ (R406). -/
  | dramPatrolRead (site : EccSite) (r : EccResult)
  /-- ECC_COUNT_READ (R406). -/
  | eccCountRead (stack : Nat) (n : Word)
  /-- FATAL_EVENT (R427). -/
  | fatalEvent (src : BitVec 4) (cause : BitVec 8) (unit : Word)
  deriving DecidableEq, Repr

end Sys2Proof
end

