-- ==== Sys2Proof/Machine/Num.lean ====
section
/-! DEFINITION. Integer cuts, floating-point formats, exact values and the one rounding (R71–R85). -/

namespace Sys2Proof.Machine

/-! ### Integers (R72) -/

def truncI (n : Nat) (x : Int) : Nat := (x % (2 ^ n : Nat)).toNat
def satS (n : Nat) (x : Int) : Int :=
  if x < -(2 ^ (n - 1) : Nat) then -(2 ^ (n - 1) : Nat)
  else if (2 ^ (n - 1) : Nat) - 1 < x then (2 ^ (n - 1) : Nat) - 1 else x
def satZ (n : Nat) (x : Int) : Int :=
  if x < 0 then 0 else if (2 ^ n : Nat) - 1 < x then (2 ^ n : Nat) - 1 else x
/-- A pattern of n bits read as two's complement. -/
def sextI (n x : Nat) : Int := if x % 2 ^ n < 2 ^ (n - 1) then (x % 2 ^ n : Nat) else (x % 2 ^ n : Nat) - (2 ^ n : Nat)
/-- Bits h to l of x. -/
def bitsN (x h l : Nat) : Nat := x / 2 ^ l % 2 ^ (h + 1 - l)
def bitLen (x : Nat) : Nat := if x = 0 then 0 else Nat.log2 x + 1

/-! ### Flags: bit 0 NV, 1 DZ, 2 OF, 3 UF, 4 NX (R374, R383) -/

abbrev Flags := BitVec 5
def fNV : Flags := 1
def fDZ : Flags := 2
def fOF : Flags := 4
def fUF : Flags := 8
def fNX : Flags := 16
def fIf (c : Bool) (f : Flags) : Flags := if c then f else 0

/-! ### Rounding modes (R61) -/

inductive Rm where | rne | rtz | rdn | rup
  deriving DecidableEq, Repr

def Rm.ofCode (c : BitVec 2) : Rm :=
  match c.toNat with
  | 0 => .rne | 1 => .rtz | 2 => .rdn | _ => .rup

/-! ### Formats (R73) -/

structure FloatFmt where
  width : Nat
  fbits : Nat
  bias : Nat
  /-- The bits of the greatest finite value. -/
  maxBits : Nat
  hasInf : Bool
  /-- The bits of the canonical NaN; +0 in E2M1. -/
  canon : Nat
  /-- DAZ and FTZ act on it (R83). -/
  flushes : Bool
  deriving DecidableEq, Repr

def fp32 : FloatFmt := ⟨32, 23, 127, 0x7F7FFFFF, true, 0x7FC00000, true⟩
def fp16 : FloatFmt := ⟨16, 10, 15, 0x7BFF, true, 0x7E00, true⟩
def bf16 : FloatFmt := ⟨16, 7, 127, 0x7F7F, true, 0x7FC0, true⟩
/-- FP64 (R159): DAZ and FTZ do not act on it. -/
def fp64 : FloatFmt := ⟨64, 52, 1023, 0x7FEFFFFFFFFFFFFF, true, 0x7FF8000000000000, false⟩
def e5m2 : FloatFmt := ⟨8, 2, 15, 0x7B, true, 0x7E, false⟩
def e4m3 : FloatFmt := ⟨8, 3, 7, 0x7E, false, 0x7F, false⟩
def e2m1 : FloatFmt := ⟨4, 1, 1, 0x7, false, 0, false⟩

/-- The value of a pattern: (−1)^neg × m × 2^e when finite. -/
inductive FVal where
  | nan (sig : Bool) | inf (neg : Bool) | fin (neg : Bool) (m : Nat) (e : Int)
  deriving DecidableEq, Repr

def FVal.isNan : FVal → Bool | .nan _ => true | _ => false
def FVal.isSig : FVal → Bool | .nan s => s | _ => false
def FVal.isInf : FVal → Bool | .inf _ => true | _ => false
def FVal.isZero : FVal → Bool | .fin _ 0 _ => true | _ => false
def FVal.isNeg : FVal → Bool | .nan _ => false | .inf n => n | .fin n _ _ => n
def FVal.negate : FVal → FVal
  | .nan s => .nan s | .inf n => .inf (!n) | .fin n m e => .fin (!n) m e

/-- value(F, b) of R74. -/
def FloatFmt.value (F : FloatFmt) (b : Nat) : FVal :=
  let b := b % 2 ^ F.width
  let neg := decide (2 ^ (F.width - 1) ≤ b)
  let mag := b % 2 ^ (F.width - 1)
  let e := mag / 2 ^ F.fbits
  let f := mag % 2 ^ F.fbits
  if F.maxBits < mag then
    if F.hasInf && f == 0 then .inf neg
    else .nan (F.hasInf && decide (f < 2 ^ (F.fbits - 1)))
  else if e = 0 then .fin neg f (1 - (F.bias : Int) - (F.fbits : Int))
  else .fin neg (2 ^ F.fbits + f) ((e : Int) - (F.bias : Int) - (F.fbits : Int))

def FloatFmt.isSubnormal (F : FloatFmt) (b : Nat) : Bool :=
  let mag := b % 2 ^ (F.width - 1)
  mag / 2 ^ F.fbits == 0 && mag != 0

/-- rd of R158: a source under DAZ (R83). -/
def FloatFmt.rd (F : FloatFmt) (daz : Bool) (b : Nat) : FVal :=
  if daz && F.flushes && F.isSubnormal b then .fin (2 ^ (F.width - 1) ≤ b % 2 ^ F.width) 0 0 else F.value b

def FloatFmt.signBit (F : FloatFmt) (neg : Bool) : Nat := if neg then 2 ^ (F.width - 1) else 0
def FloatFmt.zero (F : FloatFmt) (neg : Bool) : Nat := F.signBit neg
def FloatFmt.infBits (F : FloatFmt) (neg : Bool) : Nat :=
  F.signBit neg + (if F.hasInf then F.maxBits + 1 else F.maxBits)
def FloatFmt.maxOf (F : FloatFmt) (neg : Bool) : Nat := F.signBit neg + F.maxBits

/-! ### The rounding helper (R82) -/

/-- The magnitude m × 2^e, plus a nonzero excess below its last bit when `sticky`, rounded to a multiple of
2^q: the multiple, and whether it is inexact. -/
def quantize (rm : Rm) (neg : Bool) (m : Nat) (e : Int) (sticky : Bool) (q : Int) : Nat × Bool :=
  let (k, r, s) : Nat × Nat × Nat :=
    if q ≤ e then (m * 2 ^ (e - q).toNat, 0, 0)
    else
      let s := (q - e).toNat
      (m / 2 ^ s, m % 2 ^ s, s)
  let inexact := r != 0 || sticky
  let half := if s = 0 then 0 else 2 ^ (s - 1)
  let up := match rm with
    | .rtz => false
    | .rdn => neg && inexact
    | .rup => !neg && inexact
    | .rne => s != 0 && (decide (half < r) || (r == half && (sticky || k % 2 == 1)))
  (if up then k + 1 else k, inexact)

/-- The delivered bits, the flags, and whether the result is tiny. -/
structure Rounded where
  bits : Nat
  fl : Flags
  tiny : Bool
  deriving DecidableEq, Repr

/-- round(x, F, rm) of R82 for the finite x = (−1)^neg × (m × 2^e + excess); `sat` selects the second row of
the overflow table. -/
def FloatFmt.round (F : FloatFmt) (rm : Rm) (sat : Bool) (neg : Bool) (m : Nat) (e : Int) (sticky : Bool) :
    Rounded :=
  if m = 0 then ⟨F.zero neg, fIf sticky (fNX ||| fUF), sticky⟩
  else
    let top : Int := e + (Nat.log2 m : Nat)
    let q := top - F.fbits
    let (k, ix) := quantize rm neg m e sticky q
    let carry := decide (2 ^ (F.fbits + 1) ≤ k)
    let er : Int := if carry then top + 1 else top
    let fr := if carry then 0 else k - 2 ^ F.fbits
    let emin : Int := 1 - (F.bias : Int)
    if er < emin then
      let (k', ix') := quantize rm neg m e sticky (emin - F.fbits)
      ⟨F.signBit neg + k', fIf ix' (fNX ||| fUF), true⟩
    else
      let b := (er + F.bias).toNat * 2 ^ F.fbits + fr
      if F.maxBits < b then
        let toMax := sat || !F.hasInf || (match rm with
          | .rne => false | .rtz => true | .rdn => !neg | .rup => neg)
        ⟨if toMax then F.maxOf neg else F.infBits neg, fOF ||| fNX, false⟩
      else ⟨F.signBit neg + b, fIf ix fNX, false⟩

/-- FTZ of R83 on a delivered result. -/
def FloatFmt.flush (F : FloatFmt) (ftz : Bool) (neg : Bool) (r : Rounded) : Nat × Flags :=
  if ftz && F.flushes && r.tiny && r.bits % 2 ^ (F.width - 1) != 0 then (F.zero neg, r.fl ||| fUF ||| fNX)
  else (r.bits, r.fl)

/-- wr of R158: NaN, infinity, or one rounding with FTZ. -/
def FloatFmt.wr (F : FloatFmt) (rm : Rm) (ftz : Bool) (x : FVal) (sticky : Bool := false) : Nat × Flags :=
  match x with
  | .nan _ => (F.canon, 0)
  | .inf n => (F.infBits n, 0)
  | .fin n m e => F.flush ftz n (F.round rm false n m e sticky)

/-! ### Exact arithmetic (R160, R161) -/

/-- An exact result and the flags it raises before rounding. -/
structure Exact where
  v : FVal
  fl : Flags := 0
  deriving DecidableEq, Repr

def sNaN2 (x y : FVal) : Flags := fIf (x.isSig || y.isSig) fNV

/-- The signed integer of a finite value at exponent `q`, q at most its own. -/
def scaleTo (neg : Bool) (m : Nat) (e q : Int) : Int :=
  let k := m * 2 ^ (e - q).toNat
  if neg then -(k : Int) else k

def addExact (rm : Rm) (x y : FVal) : Exact :=
  match x, y with
  | .nan _, _ | _, .nan _ => ⟨.nan false, sNaN2 x y⟩
  | .inf a, .inf b => if a = b then ⟨.inf a, 0⟩ else ⟨.nan false, fNV⟩
  | .inf a, _ => ⟨.inf a, 0⟩
  | _, .inf b => ⟨.inf b, 0⟩
  | .fin n1 m1 e1, .fin n2 m2 e2 =>
    let q := min e1 e2
    let t := scaleTo n1 m1 e1 q + scaleTo n2 m2 e2 q
    if t = 0 then
      ⟨.fin (if m1 = 0 ∧ m2 = 0 ∧ n1 = n2 then n1 else decide (rm = .rdn)) 0 0, 0⟩
    else ⟨.fin (decide (t < 0)) t.natAbs q, 0⟩

def mulExact (x y : FVal) : Exact :=
  match x, y with
  | .nan _, _ | _, .nan _ => ⟨.nan false, sNaN2 x y⟩
  | .inf a, .inf b => ⟨.inf (a != b), 0⟩
  | .inf a, .fin b m _ => if m = 0 then ⟨.nan false, fNV⟩ else ⟨.inf (a != b), 0⟩
  | .fin a m _, .inf b => if m = 0 then ⟨.nan false, fNV⟩ else ⟨.inf (a != b), 0⟩
  | .fin a m e, .fin b n f => ⟨.fin (a != b) (m * n) (e + f), 0⟩

/-- x × y + z with one rounding to come (R161). -/
def fmaExact (rm : Rm) (neg : Bool) (x y z : FVal) : Exact :=
  let p := mulExact x y
  let pv := if neg then p.v.negate else p.v
  let s := addExact rm pv z
  ⟨s.v, p.fl ||| s.fl ||| fIf (x.isSig || y.isSig || z.isSig) fNV⟩

/-- Order of two numbers: −1, 0 or 1 as an integer; zeros are equal. -/
def cmpFin : FVal → FVal → Int
  | .inf a, .inf b => if a = b then 0 else if a then -1 else 1
  | .inf a, _ => if a then -1 else 1
  | _, .inf b => if b then 1 else -1
  | .fin n1 m1 e1, .fin n2 m2 e2 =>
    let q := min e1 e2
    let d := scaleTo n1 m1 e1 q - scaleTo n2 m2 e2 q
    if d < 0 then -1 else if d = 0 then 0 else 1
  | _, _ => 0

/-- round_int(x, rm): the integer, and whether it is inexact (R81, R85). -/
def roundInt (rm : Rm) (neg : Bool) (m : Nat) (e : Int) : Int × Bool :=
  let (k, ix) := quantize rm neg m e false 0
  (if neg then -(k : Int) else k, ix)

/-! ### Square root, for the exact SQRT (R165) -/

/-- The integer square root by bits, from bit `n` down. -/
def isqrtAux : Nat → Nat → Nat → Nat
  | 0, _, r => r
  | n + 1, x, r =>
    let c := r + 2 ^ n
    isqrtAux n x (if c * c ≤ x then c else r)

def isqrt (x : Nat) : Nat := isqrtAux (bitLen x / 2 + 1) x 0

/-- √(m × 2^e) as a magnitude, exponent and sticky, with at least 64 bits. -/
def sqrtMag (m : Nat) (e : Int) : Nat × Int × Bool :=
  let sh := 140 - bitLen m
  let sh := if (e - sh) % 2 = 0 then sh else sh + 1
  let x := m * 2 ^ sh
  let r := isqrt x
  (r, (e - sh) / 2, r * r != x)

/-! ### Conversions between formats (R85) -/

/-- A number into format F: NaN, infinity, rounding; `sat` of R82. An infinite source
stays infinite (log entry 84). -/
def FloatFmt.convert (F : FloatFmt) (rm : Rm) (sat ftz : Bool) (x : FVal) : Nat × Flags :=
  match x with
  | .nan s => (F.canon, fIf (s || F.width == 4) fNV)
  | .inf n => if F.hasInf then (F.infBits n, 0) else (F.maxOf n, fOF ||| fNX)
  | .fin n m e => F.flush ftz n (F.round rm sat n m e false)

/-- A number into an integer of n bits, always saturated (R85). -/
def toInt (n : Nat) (signed : Bool) (rm : Rm) (x : FVal) : Int × Flags :=
  match x with
  | .nan _ => (0, fNV)
  | .inf neg =>
    (if neg then (if signed then satS n (-(2 ^ n : Nat)) else 0)
     else (if signed then satS n (2 ^ n : Nat) else satZ n (2 ^ n : Nat)), fNV)
  | .fin neg m e =>
    let (t, ix) := roundInt rm neg m e
    let r := if signed then satS n t else satZ n t
    (r, if r ≠ t then fNV else fIf ix fNX)

/-- An integer into format F. -/
def ofInt (F : FloatFmt) (rm : Rm) (sat ftz : Bool) (x : Int) : Nat × Flags :=
  F.flush ftz (decide (x < 0)) (F.round rm sat (decide (x < 0)) x.natAbs 0 false)

end Sys2Proof.Machine
end

