-- ==== Sys2Proof/Machine/Flags.lean ====
section
/-! DEFINITION. The floating-point functions of one element with the flags they raise (R157–R163, R169,
R84), and the order of their results. -/

namespace Sys2Proof.Machine

/-- What an instruction captures of %fmode at issue (R61). -/
structure FCap where
  rm : Rm
  daz : Bool
  ftz : Bool
  deriving DecidableEq, Repr

def FCap.ofFmode (w : Word) : FCap :=
  { rm := .ofCode (w.extractLsb' 0 2), daz := w.getLsbD 3, ftz := w.getLsbD 2 }

/-- The rounding mode of an instruction: the captured RM or the one named (R157). -/
def rndMode (c : FCap) : Rnd → Rm
  | .cap => c.rm | .rne => .rne | .rtz => .rtz | .rdn => .rdn | .rup => .rup

def fmtOf : Fmt → FloatFmt
  | .f32 => fp32 | .f16 => fp16 | .bf16 => bf16 | .f64 => fp64

inductive FArith where | add | sub | mul | fma | fms | nma | sqrt
  deriving DecidableEq, Repr

/-- f of R161 and SQRT of R165, before the rounding, with a sticky excess for the root. -/
def fExact (op : FArith) (rm : Rm) (x y z : FVal) : Exact × Bool :=
  match op with
  | .add => (addExact rm x y, false)
  | .sub => (addExact rm x y.negate, false)
  | .mul => (mulExact x y, false)
  | .fma => (fmaExact rm false x y z, false)
  | .fms => (fmaExact rm false x y z.negate, false)
  | .nma => (fmaExact rm true x y z, false)
  | .sqrt => match x with
    | .nan s => (⟨.nan false, fIf s fNV⟩, false)
    | .inf n => (if n then ⟨.nan false, fNV⟩ else ⟨.inf false, 0⟩, false)
    | .fin n m e =>
      if m = 0 then (⟨.fin n 0 0, 0⟩, false)
      else if n then (⟨.nan false, fNV⟩, false)
      else
        let (r, q, st) := sqrtMag m e
        (⟨.fin false r q, 0⟩, st)

/-- One element of R158. -/
def fElem (op : FArith) (F : FloatFmt) (c : FCap) (rm : Rm) (a b d : Nat) : Nat × Flags :=
  let (r, st) := fExact op rm (F.rd c.daz a) (F.rd c.daz b) (F.rd c.daz d)
  let (bits, fl) := F.wr rm c.ftz r.v st
  (bits, fl ||| r.fl)

/-- An operand as FMIN and FMAX write it: its own bits, or the zero that DAZ read. -/
def FloatFmt.dazBits (F : FloatFmt) (daz : Bool) (b : Nat) : Nat :=
  if daz && F.flushes && F.isSubnormal b then F.zero (F.value b).isNeg else b

/-- FTZ on bits already chosen (R162, R155). -/
def FloatFmt.flushBits (F : FloatFmt) (ftz : Bool) (b : Nat) : Nat × Flags :=
  if ftz && F.flushes && F.isSubnormal b then (F.zero (F.value b).isNeg, fUF ||| fNX) else (b, 0)

/-- The operand that FMIN (`mx = false`) or FMAX chooses (R162), with NV for a signalling NaN. -/
def fPick (mx : Bool) (F : FloatFmt) (daz : Bool) (a b : Nat) : Nat × Flags :=
  let x := F.rd daz a
  let y := F.rd daz b
  let fl := sNaN2 x y
  if x.isNan && y.isNan then (F.canon, fl)
  else if x.isNan then (F.dazBits daz b, fl)
  else if y.isNan then (F.dazBits daz a, fl)
  else if x.isZero && y.isZero then (F.zero (if mx then x.isNeg && y.isNeg else x.isNeg || y.isNeg), fl)
  else
    let aFirst := if mx then 0 ≤ cmpFin x y else cmpFin x y ≤ 0
    (F.dazBits daz (if aFirst then a else b), fl)

def fMinMax (mx : Bool) (F : FloatFmt) (c : FCap) (a b : Nat) : Nat × Flags :=
  let (r, fl) := fPick mx F c.daz a b
  let (r', fl') := F.flushBits c.ftz r
  (r', fl ||| fl')

/-- FCMP (R163). -/
def fCompare (cc : FCond) (F : FloatFmt) (c : FCap) (a b : Nat) : Bool × Flags :=
  let x := F.rd c.daz a
  let y := F.rd c.daz b
  let un := x.isNan || y.isNan
  let r := cmpFin x y
  let ordered := match cc with | .lt | .le | .gt | .ge => true | _ => false
  (match cc with
    | .eq => !un && r == 0 | .ne => un || r != 0 | .lt => !un && decide (r < 0)
    | .le => !un && decide (r ≤ 0) | .gt => !un && decide (0 < r) | .ge => !un && decide (0 ≤ r)
    | .un => un | .ord => !un,
   sNaN2 x y ||| fIf (un && ordered) fNV)

/-! ### CVT (R168–R170) -/

/-- A CVT format as a float format, or an integer of a width and sign. -/
def cvtFloat : CvtFmt → Option FloatFmt
  | .f32 => some fp32 | .f16 => some fp16 | .bf16 => some bf16 | .e5m2 => some e5m2
  | .e4m3 => some e4m3 | .e2m1 => some e2m1 | .f64 => some fp64 | _ => none

def cvtInt : CvtFmt → Option (Nat × Bool)
  | .s8 => some (8, true) | .z8 => some (8, false) | .s16 => some (16, true) | .z16 => some (16, false)
  | .s32 => some (32, true) | .z32 => some (32, false) | .s64 => some (64, true)
  | .z64 => some (64, false) | _ => none

def cvtWidth : CvtFmt → Nat
  | .f32 | .s32 | .z32 => 32 | .f16 | .bf16 | .s16 | .z16 => 16 | .e5m2 | .e4m3 | .s8 | .z8 => 8
  | .e2m1 => 4 | .f64 | .s64 | .z64 => 64

/-- A pattern of n bits read as an integer of the sign given. -/
def readInt (n : Nat) (signed : Bool) (b : Nat) : Int := if signed then sextI n b else (b % 2 ^ n : Nat)

/-- convert(s, SF, DF, rm, SAT) of R169. -/
def cvtElem (sf df : CvtFmt) (c : FCap) (rm : Rm) (sat : Bool) (b : Nat) : Nat × Flags :=
  match cvtFloat sf, cvtInt sf, cvtFloat df, cvtInt df with
  | some S, _, some D, _ =>
    let x := S.rd c.daz b
    let (r, fl) := D.convert rm sat c.ftz x
    (r, fl ||| fIf x.isSig fNV)
  | some S, _, _, some (n, sg) =>
    let (t, fl) := toInt n sg rm (S.rd c.daz b)
    (truncI n t, fl)
  | _, some (n, sg), some D, _ => ofInt D rm sat c.ftz (readInt n sg b)
  | _, some (n, sg), _, some (n', sg') =>
    let x := readInt n sg b
    (truncI n' (if sat then (if sg' then satS n' x else satZ n' x) else x), 0)
  | _, _, _, _ => (0, 0)

/-! ### RDUX float minors (R155) -/

/-- One step of the combination: the accumulator's bits and flags. FMIN and FMAX are those of R162, FTZ included;
the sum is flushed at the end alone. -/
def fRduxStep (op : RduxFOp) (F : FloatFmt) (c : FCap) (rm : Rm) (acc : Nat) (b : Nat) : Nat × Flags :=
  match op with
  | .fadd =>
    let r := addExact rm (F.value acc) (F.rd c.daz b)
    let (bits, fl) := F.wr rm false r.v
    (bits, fl ||| r.fl)
  | .fmin => fMinMax false F { c with daz := false } acc (F.dazBits c.daz b)
  | .fmax => fMinMax true F { c with daz := false } acc (F.dazBits c.daz b)

/-- The first read: a NaN becomes canonical, a signalling one raises NV. -/
def fRduxFirst (F : FloatFmt) (c : FCap) (b : Nat) : Nat × Flags :=
  match F.rd c.daz b with
  | .nan s => (F.canon, fIf s fNV)
  | _ => (F.dazBits c.daz b, 0)

def fRdux (op : RduxFOp) (F : FloatFmt) (c : FCap) (rm : Rm) : List Nat → Nat × Flags
  | [] => (0, 0)
  | x :: xs =>
    let (a, fl) := xs.foldl (fun (a, fl) b => let (a', f') := fRduxStep op F c rm a b; (a', fl ||| f'))
      (fRduxFirst F c x)
    let (r, f') := F.flushBits c.ftz a
    (r, fl ||| f')

end Sys2Proof.Machine
end

