-- ==== Sys2Proof/Decode.lean ====
section
/-! DEFINITION. The decoder and the encoder, from the layouts of R93–R109, the opcode map of R116 and
R117, and the field layouts that the instruction chapters give. -/

namespace Sys2Proof

/-- Why an encoding is no representable instruction: the reserved length of R94, or SUB 1 to 3 of the
illegal-instruction trap (R119, R374). -/
inductive DecodeError where | reservedLength | unassigned | length | reserved
  deriving DecidableEq, Repr

/-- Lengths of R93 but for C16. -/
inductive Len where | l32 | l64 | l96
  deriving DecidableEq, Repr

def Len.bytes : Len → Nat
  | .l32 => 4 | .l64 => 8 | .l96 => 12

def Len.code : Len → BitVec 2
  | .l32 => 0 | .l64 => 1 | .l96 => 2

/-- The fields of a long form, as the head of R96 and the W row of R97 cut them; the other rows name the
same bits under other names. -/
structure Fields where
  s : Bool
  major : BitVec 7
  pi : BitVec 3
  pn : Bool
  d : BitVec 8
  a : BitVec 9
  minor : BitVec 5
  mod : BitVec 5
  b : BitVec 9
  c : BitVec 9
  perm : BitVec 4
  hi : BitVec 32
  deriving DecidableEq, Repr

def Fields.ofBits (w : BitVec 96) : Fields :=
  { s := w.getLsbD 3, major := w.extractLsb' 4 7, pi := w.extractLsb' 11 3, pn := w.getLsbD 14,
    d := w.extractLsb' 15 8, a := w.extractLsb' 23 9, minor := w.extractLsb' 32 5,
    mod := w.extractLsb' 37 5, b := w.extractLsb' 42 9, c := w.extractLsb' 51 9,
    perm := w.extractLsb' 60 4, hi := w.extractLsb' 64 32 }

def Fields.toBits (l : Len) (f : Fields) : BitVec 96 :=
  f.hi ++ f.perm ++ f.c ++ f.b ++ f.mod ++ f.minor ++ f.a ++ f.d ++ BitVec.ofBool f.pn ++ f.pi ++
    f.major ++ BitVec.ofBool f.s ++ l.code ++ 1#1

/-! ### Operands and modifiers -/

/-- Source codes (R100). -/
def Src.ofCode (c : BitVec 9) : Src :=
  let n := c.toNat
  if n < 256 then .v (BitVec.ofNat 8 n)
  else if n < 320 then .s (BitVec.ofNat 6 (n - 256))
  else if n = 320 then .zero
  else if n = 321 then .lit
  else if n = 322 then .lane
  else if n = 323 then .wid
  else if n = 324 then .task
  else if n = 325 then .tilepart
  else if n = 326 then .time
  else if n = 327 then .lpc
  else if n < 336 then .p (BitVec.ofNat 3 (n - 328))
  else if h : n < 384 then .resv ⟨n - 336, by omega⟩
  else .imm (BitVec.ofNat 7 (n - 384))

def Src.code : Src → BitVec 9
  | .v i => BitVec.ofNat 9 i.toNat
  | .s i => BitVec.ofNat 9 (256 + i.toNat)
  | .zero => 320 | .lit => 321 | .lane => 322 | .wid => 323 | .task => 324 | .tilepart => 325
  | .time => 326 | .lpc => 327
  | .p i => BitVec.ofNat 9 (328 + i.toNat)
  | .resv i => BitVec.ofNat 9 (336 + i.val)
  | .imm c => BitVec.ofNat 9 (384 + c.toNat)

def Perm.ofCode (c : BitVec 4) : Option Perm :=
  match c.toNat with
  | 0 => some .none | 1 => some .bf1 | 2 => some .bf2 | 3 => some .bf4 | 4 => some .bf8
  | 5 => some .bf16 | 6 => some .rot8 | 7 => some .rev | 8 => some .first | 9 => some .last
  | _ => none

def Perm.code : Perm → BitVec 4
  | .none => 0 | .bf1 => 1 | .bf2 => 2 | .bf4 => 3 | .bf8 => 4 | .bf16 => 5 | .rot8 => 6 | .rev => 7
  | .first => 8 | .last => 9

def IWidth.ofCode (c : BitVec 2) : IWidth :=
  match c.toNat with
  | 0 => .w32 | 1 => .w64 | 2 => .x16 | _ => .x8

def IWidth.code : IWidth → BitVec 2
  | .w32 => 0 | .w64 => 1 | .x16 => 2 | .x8 => 3

/-- Integer MOD (R108): bits 41–40 W, 39 Z, 38 SAT, 37 UD. -/
def IMod.ofCode (c : BitVec 5) : Option IMod :=
  some { w := IWidth.ofCode (c.extractLsb' 3 2), z := c.getLsbD 2, sat := c.getLsbD 1, ud := c.getLsbD 0 }

def IMod.code (m : IMod) : BitVec 5 :=
  m.w.code ++ BitVec.ofBool m.z ++ BitVec.ofBool m.sat ++ BitVec.ofBool m.ud

def Rnd.ofCode (c : BitVec 3) : Option Rnd :=
  match c.toNat with
  | 0 => some .cap | 1 => some .rne | 2 => some .rtz | 3 => some .rdn | 4 => some .rup | _ => none

def Rnd.code : Rnd → BitVec 3
  | .cap => 0 | .rne => 1 | .rtz => 2 | .rdn => 3 | .rup => 4

def Fmt.ofCode (c : BitVec 2) : Fmt :=
  match c.toNat with
  | 0 => .f32 | 1 => .f16 | 2 => .bf16 | _ => .f64

def Fmt.code : Fmt → BitVec 2
  | .f32 => 0 | .f16 => 1 | .bf16 => 2 | .f64 => 3

/-- Float MOD (R108): bits 41–39 RND, 38–37 FMT. -/
def FMod.ofCode (c : BitVec 5) : Option FMod :=
  (Rnd.ofCode (c.extractLsb' 2 3)).map fun r => { rnd := r, fmt := Fmt.ofCode (c.extractLsb' 0 2) }

def FMod.code (m : FMod) : BitVec 5 := m.rnd.code ++ m.fmt.code

def Scope.ofCode (c : BitVec 3) : Option Scope :=
  match c.toNat with
  | 0 => some .plain | 1 => some .warp | 2 => some .group | 3 => some .core | 4 => some .dev
  | 5 => some .pod | _ => none

def Scope.code : Scope → BitVec 3
  | .plain => 0 | .warp => 1 | .group => 2 | .core => 3 | .dev => 4 | .pod => 5

def MOrd.ofCode (c : BitVec 2) : MOrd :=
  match c.toNat with
  | 0 => .rlx | 1 => .acq | 2 => .rel | _ => .ar

def MOrd.code : MOrd → BitVec 2
  | .rlx => 0 | .acq => 1 | .rel => 2 | .ar => 3

/-- Memory MOD (R108): bits 41–39 SCOPE, 38–37 ORD. -/
def MMod.ofCode (c : BitVec 5) : Option MMod :=
  (Scope.ofCode (c.extractLsb' 2 3)).map fun s => { scope := s, ord := MOrd.ofCode (c.extractLsb' 0 2) }

def MMod.code (m : MMod) : BitVec 5 := m.scope.code ++ m.ord.code

def NoMod.ofCode (c : BitVec 5) : Option NoMod := if c = 0 then some .nil else none

def NoMod.code (_ : NoMod) : BitVec 5 := 0

def Ty.ofCode (c : BitVec 2) : Ty :=
  match c.toNat with
  | 0 => .s32 | 1 => .z32 | 2 => .s64 | _ => .z64

def Ty.code : Ty → BitVec 2
  | .s32 => 0 | .z32 => 1 | .s64 => 2 | .z64 => 3

/-- Format codes of CVT (R109). -/
def CvtFmt.ofCode (c : BitVec 4) : Option CvtFmt :=
  match c.toNat with
  | 0 => some .f32 | 1 => some .f16 | 2 => some .bf16 | 3 => some .e5m2 | 4 => some .e4m3
  | 5 => some .e2m1 | 6 => some .f64 | 8 => some .s8 | 9 => some .z8 | 10 => some .s16
  | 11 => some .z16 | 12 => some .s32 | 13 => some .z32 | 14 => some .s64 | 15 => some .z64
  | _ => none

def CvtFmt.code : CvtFmt → BitVec 4
  | .f32 => 0 | .f16 => 1 | .bf16 => 2 | .e5m2 => 3 | .e4m3 => 4 | .e2m1 => 5 | .f64 => 6
  | .s8 => 8 | .z8 => 9 | .s16 => 10 | .z16 => 11 | .s32 => 12 | .z32 => 13 | .s64 => 14 | .z64 => 15

/-! ### The opcode map (R117) -/

/-- The lengths the major map lists for a major and minor; none for an unassigned one. STUNMAP, XGET and
XPUT take the lengths of their own rules (R192, R140). Majors 0x34, 0x35, 0x39 and 0x74 list no minor: any other length of
theirs is a length not listed (log entry 114). -/
def lengthsOf (major minor : Nat) : Option (List Len) :=
  let w := some [Len.l64, Len.l96]
  let w1 := some [Len.l64]
  let upTo (k : Nat) (r : Option (List Len)) := if minor ≤ k then r else none
  match major with
  | 0x00 => upTo 4 w | 0x01 => upTo 3 w | 0x02 => upTo 1 w | 0x03 => upTo 5 w | 0x04 => upTo 6 w
  | 0x05 => upTo 5 w | 0x06 => upTo 1 w | 0x07 => upTo 1 w | 0x10 => upTo 5 w | 0x11 => upTo 0 w
  | 0x12 => if minor = 0 then some [.l32, .l64, .l96] else if minor ≤ 2 then w else upTo 4 w1
  | 0x13 => upTo 3 w1 | 0x14 => upTo 3 w1
  | 0x20 => upTo 1 w | 0x21 => upTo 0 w | 0x22 => upTo 2 w | 0x23 => upTo 1 w | 0x24 => upTo 7 w
  | 0x25 => upTo 7 w1 | 0x26 => w1 | 0x27 => upTo 1 w1 | 0x28 => upTo 0 w1
  | 0x30 => some [.l32, .l96]
  | 0x31 => if minor = 0 then some [.l96] else upTo 1 w1
  | 0x32 => upTo 1 w1 | 0x33 => upTo 0 w
  | 0x34 => some [.l32] | 0x35 => some [.l32]
  | 0x36 => upTo 3 w1 | 0x37 => upTo 5 w1 | 0x38 => upTo 8 w1
  | 0x39 => some [.l32]
  | 0x40 => upTo 6 w
  | 0x41 => if minor = 1 ∨ minor = 3 then none else upTo 6 w
  | 0x42 => upTo 6 w
  | 0x43 => if minor = 1 ∨ minor = 3 then none else upTo 6 w
  | 0x44 => upTo 0 w1
  | 0x45 => if minor = 0 then w else upTo 1 w1
  | 0x46 => upTo 1 w | 0x47 => upTo 0 w | 0x48 => upTo 2 w | 0x49 => upTo 0 w1
  | 0x50 => upTo 8 w1 | 0x51 => upTo 2 w1 | 0x52 => upTo 1 w | 0x53 => upTo 0 w1 | 0x54 => upTo 0 w
  | 0x55 => upTo 3 w1 | 0x56 => upTo 3 w1
  | 0x60 => upTo 3 (some [.l96])
  | 0x61 => upTo 0 w1 | 0x62 => upTo 1 w1 | 0x63 => upTo 0 w1 | 0x64 => upTo 0 w1 | 0x65 => upTo 0 w1
  | 0x66 => upTo 0 w | 0x67 => upTo 1 w
  | 0x68 => upTo 0 (some [.l96]) | 0x69 => upTo 0 (some [.l96])
  | 0x6A => upTo 0 w | 0x6B => upTo 0 w1
  | 0x70 => upTo 0 w1 | 0x71 => upTo 1 w1 | 0x72 => upTo 0 w | 0x73 => upTo 1 w1
  | 0x74 => some [.l32]
  | 0x75 => upTo 3 w1 | 0x76 => upTo 1 w1 | 0x77 => upTo 5 w1 | 0x78 => upTo 1 w1 | 0x79 => upTo 1 w1
  | _ => none

def iCondOf : Nat → ICond
  | 0 => .eq | 1 => .ne | 2 => .lt | 3 => .le | 4 => .gt | _ => .ge
def ICond.code : ICond → BitVec 5
  | .eq => 0 | .ne => 1 | .lt => 2 | .le => 3 | .gt => 4 | .ge => 5

def fCondOf : Nat → FCond
  | 0 => .eq | 1 => .ne | 2 => .lt | 3 => .le | 4 => .gt | 5 => .ge | 6 => .un | _ => .ord
def FCond.code : FCond → BitVec 5
  | .eq => 0 | .ne => 1 | .lt => 2 | .le => 3 | .gt => 4 | .ge => 5 | .un => 6 | .ord => 7

def shflOf : Nat → ShflMode
  | 0 => .abs | 1 => .rel | 2 => .bfly | _ => .ring
def ShflMode.code : ShflMode → BitVec 5
  | .abs => 0 | .rel => 1 | .bfly => 2 | .ring => 3

def voteOf : Nat → VoteOp
  | 0 => .and | 1 => .or | 2 => .same | 3 => .mask | 4 => .count | _ => .lowest
def VoteOp.code : VoteOp → BitVec 5
  | .and => 0 | .or => 1 | .same => 2 | .mask => 3 | .count => 4 | .lowest => 5

def rduxIOf : Nat → RduxIOp
  | 0 => .add | 1 => .min | 2 => .max | 3 => .and | 4 => .or | _ => .xor
def RduxIOp.code : RduxIOp → BitVec 5
  | .add => 0 | .min => 1 | .max => 2 | .and => 3 | .or => 4 | .xor => 5

def rduxFOf : Nat → RduxFOp
  | 6 => .fadd | 7 => .fmin | _ => .fmax
def RduxFOp.code : RduxFOp → BitVec 5
  | .fadd => 6 | .fmin => 7 | .fmax => 8

def ldFmtOf : Nat → LdFmt
  | 0 => .z8 | 1 => .s8 | 2 => .z16 | 3 => .s16 | 4 => .b32 | 5 => .b64 | _ => .b128
def LdFmt.code : LdFmt → BitVec 5
  | .z8 => 0 | .s8 => 1 | .z16 => 2 | .s16 => 3 | .b32 => 4 | .b64 => 5 | .b128 => 6

def stFmtOf : Nat → StFmt
  | 0 => .b8 | 2 => .b16 | 4 => .b32 | 5 => .b64 | _ => .b128
def StFmt.code : StFmt → BitVec 5
  | .b8 => 0 | .b16 => 2 | .b32 => 4 | .b64 => 5 | .b128 => 6

def atomOf : Nat → AtomOp
  | 0 => .add | 1 => .min | 2 => .max | 3 => .and | 4 => .or | 5 => .xor | 6 => .exch | 7 => .cas
  | _ => .fadd
def AtomOp.code : AtomOp → BitVec 5
  | .add => 0 | .min => 1 | .max => 2 | .and => 3 | .or => 4 | .xor => 5 | .exch => 6 | .cas => 7
  | .fadd => 8

def redfOf : Nat → RedfFmt
  | 0 => .f32 | 1 => .f16 | _ => .bf16
def RedfFmt.code : RedfFmt → BitVec 5
  | .f32 => 0 | .f16 => 1 | .bf16 => 2

/-- DF of MCVT in MOD bits 41–38 (R242). -/
def mcvtOf (c : BitVec 4) : Option McvtFmt :=
  match c.toNat with
  | 1 => some .f16 | 2 => some .bf16 | 3 => some .e5m2 | 4 => some .e4m3 | 5 => some .e2m1 | _ => none
def McvtFmt.code : McvtFmt → BitVec 4
  | .f16 => 1 | .bf16 => 2 | .e5m2 => 3 | .e4m3 => 4 | .e2m1 => 5

/-- F of REDQ in MOD bits 41–38 (R245). -/
def redqOf (c : BitVec 4) : Option RedqFmt :=
  match c.toNat with
  | 3 => some .e5m2 | 4 => some .e4m3 | 5 => some .e2m1 | _ => none
def RedqFmt.code : RedqFmt → BitVec 4
  | .e5m2 => 3 | .e4m3 => 4 | .e2m1 => 5

/-- MOD of MREAD: bit 37 RAW, bit 38 ST (R241). -/
def mreadOf (c : BitVec 5) : Option MreadMode :=
  match c.toNat with
  | 0 => some .plain | 1 => some .raw | 2 => some .st | _ => none
def MreadMode.code : MreadMode → BitVec 5
  | .plain => 0 | .raw => 1 | .st => 2

/-- Majors with the integer MOD, and RDUX minors 0–5 (R108). -/
def intOp (major minor : Nat) : Option (WForm IMod → Instr) :=
  match major, minor with
  | 0x00, 0 => some .iadd | 0x00, 1 => some .isub | 0x00, 2 => some .iadd3 | 0x00, 3 => some .ineg
  | 0x00, 4 => some .iabs
  | 0x01, 0 => some .imul | 0x01, 1 => some .imulh | 0x01, 2 => some .imad | 0x01, 3 => some .imadw
  | 0x02, 0 => some .imin | 0x02, 1 => some .imax
  | 0x03, 0 => some .and | 0x03, 1 => some .or | 0x03, 2 => some .xor | 0x03, 3 => some .not
  | 0x03, 4 => some .andn | 0x03, 5 => some .orn
  | 0x04, 0 => some .shl | 0x04, 1 => some .shr | 0x04, 2 => some .sar | 0x04, 3 => some .rotl
  | 0x04, 4 => some .rotr | 0x04, 5 => some .fshl | 0x04, 6 => some .fshr
  | 0x05, 0 => some .bfe | 0x05, 1 => some .bfi | 0x05, 2 => some .popc | 0x05, 3 => some .clz
  | 0x05, 4 => some .brev | 0x05, 5 => some .ffs
  | 0x07, 0 => some .lea | 0x07, 1 => some .leaw
  | 0x10, k => if k < 6 then some (.icmp (iCondOf k)) else none
  | 0x11, 0 => some .sel
  | 0x38, k => if k < 6 then some (fun o => .rdux (.int (rduxIOf k) o)) else none
  | _, _ => none

/-- Majors with the float MOD, and RDUX minors 6–8 (R108). -/
def fltOp (major minor : Nat) : Option (WForm FMod → Instr) :=
  match major, minor with
  | 0x20, 0 => some .fadd | 0x20, 1 => some .fsub
  | 0x21, 0 => some .fmul
  | 0x22, 0 => some .ffma | 0x22, 1 => some .ffms | 0x22, 2 => some .fnma
  | 0x23, 0 => some .fmin | 0x23, 1 => some .fmax
  | 0x24, k => if k < 8 then some (.fcmp (fCondOf k)) else none
  | 0x25, 0 => some .rcp | 0x25, 1 => some .rsq | 0x25, 2 => some .sqrt | 0x25, 3 => some .ex2
  | 0x25, 4 => some .lg2 | 0x25, 5 => some .sin | 0x25, 6 => some .cos | 0x25, 7 => some .tanh
  | 0x28, 0 => some .fdiv
  | 0x38, k => if 6 ≤ k ∧ k < 9 then some (fun o => .rdux (.flt (rduxFOf k) o)) else none
  | _, _ => none

/-- Majors of form W whose MOD is reserved (R108). -/
def plainOp (major minor : Nat) : Option (WForm NoMod → Instr) :=
  match major, minor with
  | 0x06, 0 => some .idiv | 0x06, 1 => some .irem
  | 0x12, 0 => some .mov | 0x12, 1 => some .movu | 0x12, 2 => some .movp | 0x12, 3 => some .xget
  | 0x12, 4 => some .xput
  | 0x13, 0 => some .tget | 0x13, 1 => some .tset | 0x13, 2 => some .aget | 0x13, 3 => some .aset
  | 0x14, 0 => some .pand | 0x14, 1 => some .por | 0x14, 2 => some .pxor | 0x14, 3 => some .pnot
  | 0x31, 0 => some .call | 0x31, 1 => some .callx
  | 0x32, 0 => some .jmpx | 0x32, 1 => some .ret
  | 0x33, 0 => some .join
  | 0x36, k => if k < 4 then some (.shfl (shflOf k)) else none
  | 0x37, k => if k < 6 then some (.vote (voteOf k)) else none
  | 0x45, 0 => some .stmap | 0x45, 1 => some .stunmap
  | 0x56, 0 => some .twaitAny | 0x56, 1 => some .twaitAll | 0x56, 2 => some .tffr | 0x56, 3 => some .tclr
  | 0x61, 0 => some .mzero
  | 0x6A, 0 => some .msend | 0x6B, 0 => some .launch
  | 0x70, 0 => some .sysc
  | 0x71, 0 => some .sqtake | 0x71, 1 => some .sqreply
  | 0x72, 0 => some .gate
  | 0x73, 0 => some .fqtake | 0x73, 1 => some .fqresume
  | 0x76, 0 => some .vrdi | 0x76, 1 => some .vwri
  | 0x77, 0 => some .tlbi | 0x77, 1 => some .tlbia | 0x77, 2 => some .tlbig | 0x77, 3 => some .cflush
  | 0x77, 4 => some .cinv | 0x77, 5 => some .icinv
  | 0x78, 0 => some .dstop | 0x78, 1 => some .dresume
  | 0x79, 0 => some .osave | 0x79, 1 => some .odrop
  | _, _ => none

/-- Majors of form M with the memory MOD. -/
def memOp (major minor : Nat) : Option (MForm MMod → Instr) :=
  match major, minor with
  | 0x40, k => some (.ld (ldFmtOf k)) | 0x41, k => some (.st (stFmtOf k))
  | 0x42, k => some (.lds (ldFmtOf k)) | 0x43, k => some (.sts (stFmtOf k))
  | 0x47, 0 => some .discard
  | 0x52, 0 => some .enq | 0x52, 1 => some .deq
  | 0x54, 0 => some .wakev
  | _, _ => none

/-- Majors of form M whose MOD is reserved. -/
def hintOp (major minor : Nat) : Option (MForm NoMod → Instr) :=
  match major, minor with
  | 0x46, 0 => some (.pref .l1) | 0x46, 1 => some (.pref .l2)
  | 0x48, 0 => some .driftP | 0x48, 1 => some .driftD | 0x48, 2 => some .driftQ
  | _, _ => none

/-- Instructions on a region with ai in field C: the constructor that major, minor and MOD choose; none for
a MOD that the instruction does not list. -/
def regOp (major minor : Nat) (mod : BitVec 5) : Option (RegForm → Instr) :=
  match major, minor with
  | 0x51, k => if mod = 0 then some (.redf (redfOf k)) else none
  | 0x62, 0 => if mod = 0 then some .macq else none
  | 0x62, 1 => if mod = 0 then some .mrel else if mod = 1 then some .mrelFin else none
  | 0x63, 0 => (mreadOf mod).map .mread
  | 0x64, 0 => (mcvtOf (mod.extractLsb' 1 4)).map fun df => .mcvt df (mod.getLsbD 0)
  | 0x65, 0 => if mod = 0 then some .rowstat else none
  | _, _ => none

/-! ### Decoding -/

namespace Fields

def guard (f : Fields) : Guard := { sw := f.s, pn := f.pn, pi := f.pi }

def lit (l : Len) (f : Fields) : Option Word := if l = .l96 then some f.hi else none

/-- OFF of M64, or OFF32 of M96 with OFF reserved. -/
def off (l : Len) (f : Fields) : Option MOff :=
  let o := f.perm.extractLsb' 0 2 ++ f.c
  if l = .l96 then (if o = 0 then some (.long f.hi) else none) else some (.short o)

def gsel (f : Fields) : BitVec 2 := f.perm.extractLsb' 2 2

def wForm (l : Len) (f : Fields) (m : BitVec 5 → Option μ) : Option (WForm μ) := do
  let p ← Perm.ofCode f.perm
  let m ← m f.mod
  return { g := f.guard, d := f.d, a := .ofCode f.a, b := .ofCode f.b, c := .ofCode f.c, perm := p, m := m,
           lit := f.lit l }

def mForm (l : Len) (f : Fields) (m : BitVec 5 → Option μ) : Option (MForm μ) := do
  let m ← m f.mod
  let o ← f.off l
  return { g := f.guard, d := f.d, a := .ofCode f.a, b := .ofCode f.b, gsel := f.gsel, m := m, off := o }

def aForm (f : Fields) : Option AForm := do
  let m ← MMod.ofCode f.mod
  return { g := f.guard, d := f.d, a := .ofCode f.a, b := .ofCode f.b, c := .ofCode f.c, gsel := f.gsel,
           ty := .ofCode (f.perm.extractLsb' 0 2), m := m }

def cvtForm (f : Fields) : Option CvtForm := do
  if f.perm ≠ 0 ∨ f.c.extractLsb' 6 3 ≠ 0 ∨ f.b.extractLsb' 4 5 ≠ 0 ∨ f.mod.extractLsb' 0 2 ≠ 0 then none
  let sf ← CvtFmt.ofCode (f.b.extractLsb' 0 4)
  let df ← CvtFmt.ofCode (f.minor.extractLsb' 0 4)
  let r ← Rnd.ofCode (f.mod.extractLsb' 2 3)
  return { g := f.guard, d := f.d, a := .ofCode f.a, del := f.c.extractLsb' 3 3, sel := f.c.extractLsb' 0 3,
           sf := sf, df := df, rnd := r, sat := f.minor.getLsbD 4 }

/-- C is a reserved field here (log entry 91). -/
def blkForm (f : Fields) : Option BlkForm := do
  let p ← Perm.ofCode f.perm
  if f.mod ≠ 0 ∨ f.c ≠ 0 then none
  return { g := f.guard, d := f.d, a := .ofCode f.a, blk := f.b, perm := p }

def ldtForm (f : Fields) : Option LdtForm := do
  let p ← Perm.ofCode f.perm
  if f.mod ≠ 0 ∨ f.a.extractLsb' 3 6 ≠ 0 ∨ f.c.extractLsb' 3 6 ≠ 0 then none
  return { g := f.guard, d := f.d, ti := f.a.extractLsb' 0 3, b := .ofCode f.b, trn := f.c.getLsbD 2,
           rc := f.c.extractLsb' 0 2, perm := p }

def fenceForm (f : Fields) : Option FenceForm := do
  if f.perm.extractLsb' 0 2 ≠ 0 then none
  let m ← MMod.ofCode f.mod
  return { g := f.guard, d := f.d, gsel := f.gsel, m := m }

def regForm (f : Fields) : Option RegForm := do
  let p ← Perm.ofCode f.perm
  if f.c.extractLsb' 4 5 ≠ 0 then none
  return { g := f.guard, d := f.d, a := .ofCode f.a, b := .ofCode f.b, ai := f.c.extractLsb' 0 4, perm := p }

def spillForm (l : Len) (f : Fields) : Option SpillForm := do
  if f.mod ≠ 0 ∨ f.b.extractLsb' 4 5 ≠ 0 then none
  let o ← f.off l
  return { g := f.guard, d := f.d, a := .ofCode f.a, ai := f.b.extractLsb' 0 4, gsel := f.gsel, off := o }

def barForm (f : Fields) : Option BarForm := do
  let p ← Perm.ofCode f.perm
  if f.mod ≠ 0 ∨ f.a.extractLsb' 2 7 ≠ 0 then none
  return { g := f.guard, d := f.d, k := f.a.extractLsb' 0 2, b := .ofCode f.b, ve := f.c.getLsbD 8,
           vop := f.c.extractLsb' 6 2, vin := f.c.extractLsb' 3 3, vout := f.c.extractLsb' 0 3, perm := p }

def csrForm (f : Fields) : Option CsrForm := do
  if f.mod ≠ 0 ∨ f.perm.getLsbD 3 then none
  return { g := f.guard, d := f.d, a := .ofCode f.a, num := f.perm.extractLsb' 0 3 ++ f.c }

def mloopForm (f : Fields) : Option MloopForm := do
  if f.perm ≠ 0 ∨ f.c.extractLsb' 7 2 ≠ 0 ∨ f.hi.extractLsb' 30 2 ≠ 0 then none
  let t := (f.mod.extractLsb' 1 4).toNat
  if h : t < 9 then
    return { g := f.guard, d := f.d, a := .ofCode f.a, b := .ofCode f.b, shape := f.minor.extractLsb' 0 2,
             typ := ⟨t, h⟩, bsc := f.mod.getLsbD 0, ai := f.c.extractLsb' 0 4, ti := f.c.extractLsb' 4 3,
             abase := f.hi.extractLsb' 0 8, astep := f.hi.extractLsb' 8 6, tag := f.hi.extractLsb' 14 6,
             km1 := f.hi.extractLsb' 20 10 }
  else none

def copyForm (f : Fields) : Option CopyForm := do
  if f.perm ≠ 0 ∨ f.mod.extractLsb' 0 2 ≠ 0 ∨ f.hi.getLsbD 9 then none
  let s ← Scope.ofCode (f.mod.extractLsb' 2 3)
  return { g := f.guard, d := f.d, a := .ofCode f.a, b := .ofCode f.b, c := .ofCode f.c, scope := s,
           spitch := f.hi.extractLsb' 10 22, bsel := f.hi.extractLsb' 7 2, be := f.hi.getLsbD 6,
           tag := f.hi.extractLsb' 0 6 }

def mcastForm (f : Fields) : Option McastForm := do
  if f.perm ≠ 0 ∨ f.mod.extractLsb' 0 2 ≠ 0 ∨ f.hi.extractLsb' 14 2 ≠ 0 then none
  let s ← Scope.ofCode (f.mod.extractLsb' 2 3)
  return { g := f.guard, d := f.d, a := .ofCode f.a, b := .ofCode f.b, c := .ofCode f.c, scope := s,
           cmask := f.hi.extractLsb' 16 16, col := f.hi.getLsbD 13, bus := f.hi.getLsbD 12,
           quad := f.hi.extractLsb' 9 3, bsel := f.hi.extractLsb' 7 2, be := f.hi.getLsbD 6,
           tag := f.hi.extractLsb' 0 6 }

/-- The instruction an assigned major and minor of a listed length stands for; none where a field holds a
reserved code or a reserved field is not zero. -/
def build (l : Len) (f : Fields) : Option Instr :=
  let j := f.major.toNat
  let k := f.minor.toNat
  match j with
  | 0x12 =>
    if l = .l32 then some (.movN32 { g := f.guard, d := f.d, a := .ofCode f.a })
    else do return (← plainOp j k) (← f.wForm l NoMod.ofCode)
  | 0x34 => some (.exit { g := f.guard, d := f.d, a := .ofCode f.a })
  | 0x35 => some (.yield { g := f.guard, d := f.d, a := .ofCode f.a })
  | 0x39 => some (.brk { g := f.guard, d := f.d, a := .ofCode f.a })
  | 0x74 => some (.tret { g := f.guard, d := f.d, a := .ofCode f.a })
  | 0x30 =>
    if l = .l32 then some (.braJ32 { g := f.guard, disp := f.a ++ f.d })
    else if f.a ++ f.d ++ f.perm ++ f.c ++ f.b ++ f.mod ++ f.minor = 0 then
      some (.bra { g := f.guard, disp := f.hi })
    else none
  | 0x26 => f.cvtForm.map .cvt
  | 0x27 => f.blkForm.map (if k = 0 then .bpack else .bunpack)
  | 0x44 => f.ldtForm.map .ldt
  | 0x49 => f.fenceForm.map .fence
  | 0x50 => f.aForm.map (.atom (atomOf k))
  | 0x53 => f.aForm.map .waitv
  | 0x55 =>
    f.barForm.map (match k with | 0 => .barArrive | 1 => .barWait | 2 => .barSync | _ => .barPend)
  | 0x51 | 0x62 | 0x63 | 0x64 | 0x65 => do return (← regOp j k f.mod) (← f.regForm)
  | 0x60 => f.mloopForm.map .mloop
  | 0x66 => do
    let q ← redqOf (f.mod.extractLsb' 1 4)
    return .redq q (← f.mForm l fun m => if m.getLsbD 0 then none else some .nil)
  | 0x67 => (f.spillForm l).map (if k = 0 then .mspill else .mfill)
  | 0x68 => f.copyForm.map .copy
  | 0x69 => f.mcastForm.map .mcast
  | 0x75 => f.csrForm.map (match k with | 0 => .csrr | 1 => .csrw | 2 => .csrs | _ => .csrc)
  | 0x40 | 0x41 | 0x42 | 0x43 | 0x47 | 0x52 | 0x54 => do return (← memOp j k) (← f.mForm l MMod.ofCode)
  | 0x46 | 0x48 => do return (← hintOp j k) (← f.mForm l NoMod.ofCode)
  | _ =>
    match intOp j k with
    | some c => (f.wForm l IMod.ofCode).map c
    | none =>
      match fltOp j k with
      | some c => (f.wForm l FMod.ofCode).map c
      | none => do return (← plainOp j k) (← f.wForm l NoMod.ofCode)

end Fields

/-- A long form (R96–R99): unassigned, then length, then reserved (R120). -/
def decodeLong (l : Len) (f : Fields) : Except DecodeError Instr :=
  match lengthsOf f.major.toNat (if f.major = 0x30 then 0 else f.minor.toNat) with
  | none => .error .unassigned
  | some ls =>
    if l ∈ ls then
      match f.build l with
      | some i => .ok i
      | none => .error .reserved
    else .error .length

/-- The compact operations (R116). -/
def compactOp (op : BitVec 4) : C16 → Instr :=
  match op.toNat with
  | 0 => .movC16 | 1 => .iaddC16 | 2 => .isubC16 | 3 => .andC16 | 4 => .orC16 | 5 => .xorC16
  | 6 => .shlC16 | 7 => .shrC16 | 8 => .sarC16 | 9 => .imulC16 | 10 => .iminC16 | 11 => .imaxC16
  | 12 => .faddC16 | 13 => .fmulC16 | 14 => .fminC16 | _ => .fmaxC16

/-- The length in bytes that bits 2–0 of the first halfword give (R93); none for the reserved length. -/
def lengthCode (w : BitVec 96) : Option Nat :=
  if w.getLsbD 0 = false then some 2
  else match (w.extractLsb' 1 2).toNat with
    | 0 => some 4 | 1 => some 8 | 2 => some 12 | _ => none

/-- The decoder. Bit 0 is bit 0 of the first halfword; bits beyond the instruction's length are not read. -/
def decode (w : BitVec 96) : Except DecodeError Instr :=
  match lengthCode w with
  | none => .error .reservedLength
  | some 2 =>
    .ok (compactOp (w.extractLsb' 2 4)
      { sw := w.getLsbD 1, vd := w.extractLsb' 6 5, vs := w.extractLsb' 11 5 })
  | some 4 => decodeLong .l32 { Fields.ofBits w with minor := 0, mod := 0, b := 0, c := 0, perm := 0, hi := 0 }
  | some 8 => decodeLong .l64 { Fields.ofBits w with hi := 0 }
  | some _ => decodeLong .l96 (Fields.ofBits w)

/-- The bits of bytes laid out from the lowest address upward (R3). -/
def bitsOfBytes : List Byte → Nat
  | [] => 0
  | b :: bs => b.toNat + 256 * bitsOfBytes bs

def decodeBytes (bs : List Byte) : Except DecodeError Instr := decode (BitVec.ofNat 96 (bitsOfBytes bs))

/-- The bytes of the low n bytes of w, from the lowest address upward (R3). -/
def bytesOfBits : Nat → Nat → List Byte
  | 0, _ => []
  | n + 1, w => BitVec.ofNat 8 w :: bytesOfBits n (w / 256)

/-- What the decoder reads from an instruction whose bits, from bit 0 of its first halfword, are w; the bits
above nbits are zero. -/
def decodeTableWord (nbits w : Nat) : Option Instr :=
  (decodeBytes (bytesOfBits 12 (w % 2 ^ nbits))).toOption

/-! ### Encoding -/

/-- An encoded instruction: its bits and its length in bytes. -/
structure Encoded where
  bits : BitVec 96
  bytes : Nat
  deriving DecidableEq, Repr

/-- The head of a long form with every field above it zero. -/
def headFields (g : Guard) (major : BitVec 7) (d : BitVec 8) (a : BitVec 9) : Fields :=
  { s := g.sw, major := major, pi := g.pi, pn := g.pn, d := d, a := a, minor := 0, mod := 0, b := 0, c := 0,
    perm := 0, hi := 0 }

def encodeC16 (op : BitVec 4) (o : C16) : Option Encoded :=
  some ⟨0#80 ++ o.vs ++ o.vd ++ op ++ BitVec.ofBool o.sw ++ 0#1, 2⟩

def encodeFields (l : Len) (f : Fields) : Option Encoded := some ⟨f.toBits l, l.bytes⟩

def encodeN32 (major : BitVec 7) (o : N32) : Option Encoded :=
  encodeFields .l32 (headFields o.g major o.d o.a.code)

def litLen (x : Option Word) : Len := if x.isSome then .l96 else .l64

def encodeW (major : BitVec 7) (minor : BitVec 5) (mc : μ → BitVec 5) (o : WForm μ) : Option Encoded :=
  encodeFields (litLen o.lit)
    { headFields o.g major o.d o.a.code with
      minor := minor, mod := mc o.m, b := o.b.code, c := o.c.code, perm := o.perm.code, hi := o.lit.getD 0 }

def MOff.len : MOff → Len
  | .short _ => .l64 | .long _ => .l96
def MOff.low : MOff → BitVec 11
  | .short o => o | .long _ => 0
def MOff.high : MOff → Word
  | .short _ => 0 | .long o => o

def fieldsM (o : MOff) (gsel : BitVec 2) (f : Fields) : Fields :=
  { f with c := o.low.extractLsb' 0 9, perm := gsel ++ o.low.extractLsb' 9 2, hi := o.high }

def encodeM (major : BitVec 7) (minor mod : BitVec 5) (o : MForm μ) : Option Encoded :=
  encodeFields o.off.len (fieldsM o.off o.gsel
    { headFields o.g major o.d o.a.code with minor := minor, mod := mod, b := o.b.code })

def encodeA (major : BitVec 7) (minor : BitVec 5) (o : AForm) : Option Encoded :=
  encodeFields .l64 { headFields o.g major o.d o.a.code with
    minor := minor, mod := o.m.code, b := o.b.code, c := o.c.code, perm := o.gsel ++ o.ty.code }

def encodeReg (major : BitVec 7) (minor mod : BitVec 5) (o : RegForm) : Option Encoded :=
  encodeFields .l64 { headFields o.g major o.d o.a.code with
    minor := minor, mod := mod, b := o.b.code, c := 0#5 ++ o.ai, perm := o.perm.code }

def encodeBlk (minor : BitVec 5) (o : BlkForm) : Option Encoded :=
  encodeFields .l64 { headFields o.g 0x27 o.d o.a.code with minor := minor, b := o.blk, perm := o.perm.code }

def encodeBar (minor : BitVec 5) (o : BarForm) : Option Encoded :=
  encodeFields .l64 { headFields o.g 0x55 o.d (0#7 ++ o.k) with
    minor := minor, b := o.b.code, perm := o.perm.code,
    c := BitVec.ofBool o.ve ++ o.vop ++ o.vin ++ o.vout }

def encodeCsr (minor : BitVec 5) (o : CsrForm) : Option Encoded :=
  encodeFields .l64 { headFields o.g 0x75 o.d o.a.code with
    minor := minor, b := 320, c := o.num.extractLsb' 0 9, perm := 0#1 ++ o.num.extractLsb' 9 3 }

def encodeSpill (minor : BitVec 5) (o : SpillForm) : Option Encoded :=
  encodeFields o.off.len (fieldsM o.off o.gsel
    { headFields o.g 0x67 o.d o.a.code with minor := minor, b := 0#5 ++ o.ai })

def encodeCvt (o : CvtForm) : Option Encoded :=
  encodeFields .l64 { headFields o.g 0x26 o.d o.a.code with
    minor := BitVec.ofBool o.sat ++ o.df.code, mod := o.rnd.code ++ 0#2, b := 0#5 ++ o.sf.code,
    c := 0#3 ++ o.del ++ o.sel }

def encodeLdt (o : LdtForm) : Option Encoded :=
  encodeFields .l64 { headFields o.g 0x44 o.d (0#6 ++ o.ti) with
    b := o.b.code, c := 0#6 ++ BitVec.ofBool o.trn ++ o.rc, perm := o.perm.code }

def encodeFence (o : FenceForm) : Option Encoded :=
  encodeFields .l64 { headFields o.g 0x49 o.d 320 with
    mod := o.m.code, b := 320, c := 320, perm := o.gsel ++ 0#2 }

def encodeMloop (o : MloopForm) : Option Encoded :=
  encodeFields .l96 { headFields o.g 0x60 o.d o.a.code with
    minor := 0#3 ++ o.shape, mod := BitVec.ofNat 4 o.typ.val ++ BitVec.ofBool o.bsc, b := o.b.code,
    c := 0#2 ++ o.ti ++ o.ai, hi := 0#2 ++ o.km1 ++ o.tag ++ o.astep ++ o.abase }

def encodeCopy (o : CopyForm) : Option Encoded :=
  encodeFields .l96 { headFields o.g 0x68 o.d o.a.code with
    mod := o.scope.code ++ 0#2, b := o.b.code, c := o.c.code,
    hi := o.spitch ++ 0#1 ++ o.bsel ++ BitVec.ofBool o.be ++ o.tag }

def encodeMcast (o : McastForm) : Option Encoded :=
  encodeFields .l96 { headFields o.g 0x69 o.d o.a.code with
    mod := o.scope.code ++ 0#2, b := o.b.code, c := o.c.code,
    hi := o.cmask ++ 0#2 ++ BitVec.ofBool o.col ++ BitVec.ofBool o.bus ++ o.quad ++ o.bsel ++
      BitVec.ofBool o.be ++ o.tag }

/-- The encoding of an instruction; events have none. Fields that an instruction does not read, and that its
form does not keep, take the code 320 (R99). -/
def encode : Instr → Option Encoded
  | .iadd o => encodeW 0x00 0 IMod.code o
  | .isub o => encodeW 0x00 1 IMod.code o
  | .iadd3 o => encodeW 0x00 2 IMod.code o
  | .ineg o => encodeW 0x00 3 IMod.code o
  | .iabs o => encodeW 0x00 4 IMod.code o
  | .imul o => encodeW 0x01 0 IMod.code o
  | .imulh o => encodeW 0x01 1 IMod.code o
  | .imad o => encodeW 0x01 2 IMod.code o
  | .imadw o => encodeW 0x01 3 IMod.code o
  | .imin o => encodeW 0x02 0 IMod.code o
  | .imax o => encodeW 0x02 1 IMod.code o
  | .and o => encodeW 0x03 0 IMod.code o
  | .or o => encodeW 0x03 1 IMod.code o
  | .xor o => encodeW 0x03 2 IMod.code o
  | .not o => encodeW 0x03 3 IMod.code o
  | .andn o => encodeW 0x03 4 IMod.code o
  | .orn o => encodeW 0x03 5 IMod.code o
  | .shl o => encodeW 0x04 0 IMod.code o
  | .shr o => encodeW 0x04 1 IMod.code o
  | .sar o => encodeW 0x04 2 IMod.code o
  | .rotl o => encodeW 0x04 3 IMod.code o
  | .rotr o => encodeW 0x04 4 IMod.code o
  | .fshl o => encodeW 0x04 5 IMod.code o
  | .fshr o => encodeW 0x04 6 IMod.code o
  | .bfe o => encodeW 0x05 0 IMod.code o
  | .bfi o => encodeW 0x05 1 IMod.code o
  | .popc o => encodeW 0x05 2 IMod.code o
  | .clz o => encodeW 0x05 3 IMod.code o
  | .brev o => encodeW 0x05 4 IMod.code o
  | .ffs o => encodeW 0x05 5 IMod.code o
  | .idiv o => encodeW 0x06 0 NoMod.code o
  | .irem o => encodeW 0x06 1 NoMod.code o
  | .lea o => encodeW 0x07 0 IMod.code o
  | .leaw o => encodeW 0x07 1 IMod.code o
  | .icmp cc o => encodeW 0x10 cc.code IMod.code o
  | .sel o => encodeW 0x11 0 IMod.code o
  | .mov o => encodeW 0x12 0 NoMod.code o
  | .movu o => encodeW 0x12 1 NoMod.code o
  | .movp o => encodeW 0x12 2 NoMod.code o
  | .xget o => encodeW 0x12 3 NoMod.code o
  | .xput o => encodeW 0x12 4 NoMod.code o
  | .movN32 o => encodeN32 0x12 o
  | .tget o => encodeW 0x13 0 NoMod.code o
  | .tset o => encodeW 0x13 1 NoMod.code o
  | .aget o => encodeW 0x13 2 NoMod.code o
  | .aset o => encodeW 0x13 3 NoMod.code o
  | .pand o => encodeW 0x14 0 NoMod.code o
  | .por o => encodeW 0x14 1 NoMod.code o
  | .pxor o => encodeW 0x14 2 NoMod.code o
  | .pnot o => encodeW 0x14 3 NoMod.code o
  | .fadd o => encodeW 0x20 0 FMod.code o
  | .fsub o => encodeW 0x20 1 FMod.code o
  | .fmul o => encodeW 0x21 0 FMod.code o
  | .ffma o => encodeW 0x22 0 FMod.code o
  | .ffms o => encodeW 0x22 1 FMod.code o
  | .fnma o => encodeW 0x22 2 FMod.code o
  | .fmin o => encodeW 0x23 0 FMod.code o
  | .fmax o => encodeW 0x23 1 FMod.code o
  | .fcmp cc o => encodeW 0x24 cc.code FMod.code o
  | .rcp o => encodeW 0x25 0 FMod.code o
  | .rsq o => encodeW 0x25 1 FMod.code o
  | .sqrt o => encodeW 0x25 2 FMod.code o
  | .ex2 o => encodeW 0x25 3 FMod.code o
  | .lg2 o => encodeW 0x25 4 FMod.code o
  | .sin o => encodeW 0x25 5 FMod.code o
  | .cos o => encodeW 0x25 6 FMod.code o
  | .tanh o => encodeW 0x25 7 FMod.code o
  | .cvt o => encodeCvt o
  | .bpack o => encodeBlk 0 o
  | .bunpack o => encodeBlk 1 o
  | .fdiv o => encodeW 0x28 0 FMod.code o
  | .bra o => encodeFields .l96 { headFields o.g 0x30 0 0 with hi := o.disp }
  | .braJ32 o => encodeFields .l32 (headFields o.g 0x30 (o.disp.extractLsb' 0 8) (o.disp.extractLsb' 8 9))
  | .call o => encodeW 0x31 0 NoMod.code o
  | .callx o => encodeW 0x31 1 NoMod.code o
  | .jmpx o => encodeW 0x32 0 NoMod.code o
  | .ret o => encodeW 0x32 1 NoMod.code o
  | .join o => encodeW 0x33 0 NoMod.code o
  | .exit o => encodeN32 0x34 o
  | .yield o => encodeN32 0x35 o
  | .brk o => encodeN32 0x39 o
  | .tret o => encodeN32 0x74 o
  | .shfl m o => encodeW 0x36 m.code NoMod.code o
  | .vote p o => encodeW 0x37 p.code NoMod.code o
  | .rdux (.int p o) => encodeW 0x38 p.code IMod.code o
  | .rdux (.flt p o) => encodeW 0x38 p.code FMod.code o
  | .movC16 o => encodeC16 0 o
  | .iaddC16 o => encodeC16 1 o
  | .isubC16 o => encodeC16 2 o
  | .andC16 o => encodeC16 3 o
  | .orC16 o => encodeC16 4 o
  | .xorC16 o => encodeC16 5 o
  | .shlC16 o => encodeC16 6 o
  | .shrC16 o => encodeC16 7 o
  | .sarC16 o => encodeC16 8 o
  | .imulC16 o => encodeC16 9 o
  | .iminC16 o => encodeC16 10 o
  | .imaxC16 o => encodeC16 11 o
  | .faddC16 o => encodeC16 12 o
  | .fmulC16 o => encodeC16 13 o
  | .fminC16 o => encodeC16 14 o
  | .fmaxC16 o => encodeC16 15 o
  | .ld f o => encodeM 0x40 f.code o.m.code o
  | .st f o => encodeM 0x41 f.code o.m.code o
  | .lds f o => encodeM 0x42 f.code o.m.code o
  | .sts f o => encodeM 0x43 f.code o.m.code o
  | .ldt o => encodeLdt o
  | .stmap o => encodeW 0x45 0 NoMod.code o
  | .stunmap o => encodeW 0x45 1 NoMod.code o
  | .pref .l1 o => encodeM 0x46 0 0 o
  | .pref .l2 o => encodeM 0x46 1 0 o
  | .discard o => encodeM 0x47 0 o.m.code o
  | .driftP o => encodeM 0x48 0 0 o
  | .driftD o => encodeM 0x48 1 0 o
  | .driftQ o => encodeM 0x48 2 0 o
  | .fence o => encodeFence o
  | .atom p o => encodeA 0x50 p.code o
  | .redf f o => encodeReg 0x51 f.code 0 o
  | .enq o => encodeM 0x52 0 o.m.code o
  | .deq o => encodeM 0x52 1 o.m.code o
  | .waitv o => encodeA 0x53 0 o
  | .wakev o => encodeM 0x54 0 o.m.code o
  | .barArrive o => encodeBar 0 o
  | .barWait o => encodeBar 1 o
  | .barSync o => encodeBar 2 o
  | .barPend o => encodeBar 3 o
  | .twaitAny o => encodeW 0x56 0 NoMod.code o
  | .twaitAll o => encodeW 0x56 1 NoMod.code o
  | .tffr o => encodeW 0x56 2 NoMod.code o
  | .tclr o => encodeW 0x56 3 NoMod.code o
  | .mloop o => encodeMloop o
  | .mzero o => encodeW 0x61 0 NoMod.code o
  | .macq o => encodeReg 0x62 0 0 o
  | .mrel o => encodeReg 0x62 1 0 o
  | .mrelFin o => encodeReg 0x62 1 1 o
  | .mread m o => encodeReg 0x63 0 m.code o
  | .mcvt df sat o => encodeReg 0x64 0 (df.code ++ BitVec.ofBool sat) o
  | .rowstat o => encodeReg 0x65 0 0 o
  | .redq f o => encodeM 0x66 0 (f.code ++ 0#1) o
  | .mspill o => encodeSpill 0 o
  | .mfill o => encodeSpill 1 o
  | .copy o => encodeCopy o
  | .mcast o => encodeMcast o
  | .msend o => encodeW 0x6A 0 NoMod.code o
  | .launch o => encodeW 0x6B 0 NoMod.code o
  | .sysc o => encodeW 0x70 0 NoMod.code o
  | .sqtake o => encodeW 0x71 0 NoMod.code o
  | .sqreply o => encodeW 0x71 1 NoMod.code o
  | .gate o => encodeW 0x72 0 NoMod.code o
  | .fqtake o => encodeW 0x73 0 NoMod.code o
  | .fqresume o => encodeW 0x73 1 NoMod.code o
  | .csrr o => encodeCsr 0 o
  | .csrw o => encodeCsr 1 o
  | .csrs o => encodeCsr 2 o
  | .csrc o => encodeCsr 3 o
  | .vrdi o => encodeW 0x76 0 NoMod.code o
  | .vwri o => encodeW 0x76 1 NoMod.code o
  | .tlbi o => encodeW 0x77 0 NoMod.code o
  | .tlbia o => encodeW 0x77 1 NoMod.code o
  | .tlbig o => encodeW 0x77 2 NoMod.code o
  | .cflush o => encodeW 0x77 3 NoMod.code o
  | .cinv o => encodeW 0x77 4 NoMod.code o
  | .icinv o => encodeW 0x77 5 NoMod.code o
  | .dstop o => encodeW 0x78 0 NoMod.code o
  | .dresume o => encodeW 0x78 1 NoMod.code o
  | .osave o => encodeW 0x79 0 NoMod.code o
  | .odrop o => encodeW 0x79 1 NoMod.code o
  | .joinTimeout _ _ | .loadDataReturn _ _ | .rowCopyEnd _ _ | .copybackRetry _ _ | .markedSlotCopyback _
  | .repeatedActivationPromotion _ | .contributionApply _ _ | .waitvDeadline _ _ | .proxyWake _ _
  | .mloopComplete _ _ | .macqGrant _ _ | .countedRelease _ _ | .copyComplete _ _ | .mcastComplete _ _
  | .messageReceive _ | .launchAccept | .dependencePoll _ | .taskPlacement | .launchQueueAgeing _ | .taskStart _
  | .warpSlotFree _ _ | .warpSave _ _ | .taskResume _ | .sqPressure _ | .gateTimerFire _ _
  | .waymaskTakeEffect _ | .interruptEntry _ | .timecmpMatch _ | .globalTick _ | .predictorDecay
  | .migrationStart | .migrationEndForward | .referenceClockLost | .linkRetire _ _ | .linkBounce _ _
  | .linkTrain _ _ _ | .routeTableWrite _ _ _ | .slstartGo _ | .timeset _ | .regdis _ _ | .iommuInvAll
  | .iommuInvPartition _ | .iommuInvRequester _ | .iommuInvPasid _ | .iommuInvRemap _ | .ueDoorbell _ _ _
  | .lostcmd _ | .scrubUnfenceKeep | .scrubUnfenceZero | .joindevGo _ _ | .hmcmdGo _ | .slotRetire _
  | .slotReturn _ | .mcfgLock _ | .powerOnReset | .siblingLockTimeout | .measext _ _ | .attgo _ | .claimgo _
  | .claimSettle _ | .plango _ | .registerWrite _ _ _ | .unassignedEncoding _ | .logicalClockAdvance
  | .engineBytesDelivered _ _ | .mloopStepEnd _ _ | .migrationCopyDone | .homeMoveDone | .planemapWrite _
  | .timeSyncExchange _ | .cadastreRequest _ _ | .invalidationReceive _ | .recallReceive _ | .dramRefresh _ _
  | .dramPatrolRead _ _ | .eccCountRead _ _ | .fatalEvent _ _ _ | .packetArrival _ _ _ | .outputArbitration _ _
  | .promotionCycle _ _ | .flitReplay _ _ _ | .channelStall _ _ _ | .bouncedReinject _ | .routerGate _
  | .routerWake _ | .endpointRequest _ | .interruptMessageWrite _ _ | .rootPortCompletionTimeout _
  | .rootPortLinkDown _ | .rootPortAerEvent _ _ _ | .rootPortLinkTrained _ _ | .ueDescriptorComplete _ _ _ _
  | .ueRemoteWrite _ _ _ _ | .ualinkPortDown _ | .ualinkLinkRetry _ | .homeTimeout _ _ | .fatalNoticeReceive _
  | .bootRomLoad _ _ _ _ | .claimReceive _ _ | .stageDelivery _ _ _ | .stageDeliveryAnswer _ _ _
  | .heartbeatSend _ | .heartbeatLapse _ | .surveyorTrigMeasure _ _ _ | .surveyorTimingTest _ _ _
  | .temperatureWarning _ | .temperatureTrip _ | .sliceEviction _ _ | .fillRequest _ _ | .storeAtHome _ _
  | .proxyEntryEmptied _ _ | .headReserve _ | .slotCopybackTry _ _ => none

end Sys2Proof
end

