-- ==== Sys2Proof/Machine/Legal.lean ====
section
/-! DEFINITION. The illegal-instruction conditions of R119 and R374 on a representable instruction: SUB 3 to 8.
Conditions that depend on values or on the tile stand with the instruction's meaning. -/

namespace Sys2Proof.Machine

/-- What an instruction accepts in a source field it reads. `n` is the number of registers it names. -/
inductive SrcClass where
  /-- Any source code of R100. -/
  | any (n : Nat)
  /-- A uniform register, a short immediate, ZERO, or LIT where the form has it. -/
  | uimm (n : Nat)
  /-- No vector source of R131 (JOIN, R145). -/
  | nonvec
  /-- A predicate code. -/
  | pred
  /-- Vector registers. -/
  | vec (n : Nat)
  /-- An even vector or uniform pair (R105). -/
  | base
  /-- An even uniform pair. -/
  | upair
  /-- A vector or uniform register, ZERO or a short immediate (R185, R208). -/
  | data (n : Nat)
  /-- A uniform quadruple (R141). -/
  | uquad
  /-- An index below n in place of a source code. -/
  | index (n : Nat)
  /-- Exactly this code. -/
  | only (c : BitVec 9)
  /-- A vector or uniform register (R403). -/
  | reg
  /-- Not read, yet no vector code (R227). -/
  | unreadNonvec
  deriving DecidableEq, Repr

/-- Destination classes of R102: n registers, the first a multiple of `al`. -/
inductive DstClass where
  | v (n al : Nat) | u (n al : Nat) | p | t | a | x | none
  deriving DecidableEq, Repr

/-- What the operand checks need of an instruction. -/
structure Shape where
  g : Guard
  d : BitVec 8
  dst : DstClass
  a : Option (Src × SrcClass) := none
  b : Option (Src × SrcClass) := none
  c : Option (Src × SrcClass) := none
  perm : Perm := .none
  permOk : Bool := false
  hasLit : Bool := false
  /-- GSEL set where no group scope allows it. -/
  gselBad : Bool := false
  /-- A combination of MOD that the description does not list, or a reserved field not zero. -/
  bad3 : Bool := false
  /-- UD or SAT set where it is forbidden. -/
  bad5 : Bool := false
  /-- A field value the description refuses. -/
  bad8 : Bool := false
  /-- Forbidden in the supervisor lane (R43). -/
  notSl : Bool := false
  /-- Further registers named: the first number beyond them. -/
  vTop : Nat := 0
  deriving DecidableEq, Repr

/-- The warp's allocation, and whether the supervisor lane issues (R51). -/
structure LegalCx where
  v : Nat
  s : Nat
  sl : Bool
  deriving DecidableEq, Repr

def Src.isVecCode : Src → Bool
  | .v _ => true | _ => false

/-- A vector source in the sense of R131. -/
def Src.isLaneSrc : Src → Bool
  | .v _ | .lane | .lpc | .p _ => true | _ => false

/-- The SUBs that one source field raises: 4, then 6, then 8. -/
def srcSubs (cx : LegalCx) (hasLit : Bool) : Src × SrcClass → List Nat
  | (s, cls) =>
    let code := s.code.toNat
    let coded := match cls with | .index _ | .only _ | .unreadNonvec => false | _ => true
    let resv := match s with | .resv _ => true | .lit => !hasLit | _ => false
    let n := match cls with
      | .any n | .uimm n | .vec n | .data n => n
      | .base | .upair => 2 | .uquad => 4 | _ => 1
    let isReg := match s with | .v _ | .s _ => true | _ => false
    let idx := match s with | .v i => i.toNat | .s i => i.toNat | _ => 0
    let lim := match s with | .v _ => cx.v | _ => cx.s
    let cls8 : Bool := match cls, s with
      | .any _, _ => false
      | .uimm _, .s _ | .uimm _, .imm _ | .uimm _, .zero | .uimm _, .lit => false
      | .uimm _, _ => true
      | .nonvec, s => Src.isLaneSrc s
      | .pred, .p _ => false
      | .pred, _ => true
      | .vec _, .v _ => false
      | .vec _, _ => true
      | .base, .v _ | .base, .s _ => false
      | .base, _ => true
      | .reg, .v _ | .reg, .s _ => false
      | .reg, _ => true
      | .upair, .s _ => false
      | .upair, _ => true
      | .data _, .v _ | .data _, .s _ | .data _, .zero | .data _, .imm _ => false
      | .data _, _ => true
      | .uquad, .s _ => false
      | .uquad, _ => true
      | .index k, _ => decide (k ≤ code)
      | .only c, s => decide (s.code ≠ c)
      | .unreadNonvec, s => Src.isVecCode s
    (if coded && resv then [4] else []) ++
    (if coded && isReg && ((n == 2 && idx % 2 == 1) || decide (lim < idx + n)) then [6] else []) ++
    (if (cls8 && !(coded && resv)) || (isReg && coded && n == 4 && idx % 4 != 0) then [8] else [])

/-- The SUBs that field D raises: 5, then 6, then 8. -/
def dstSubs (cx : LegalCx) (d : Nat) : DstClass → List Nat
  | .v n al => (if (al == 2 && d % 2 == 1) || decide (cx.v < d + n) then [6] else []) ++
      (if 2 < al && d % al != 0 then [8] else [])
  | .u n al => (if 64 ≤ d then [5] else []) ++
      (if (al == 2 && d % 2 == 1) || decide (cx.s < d + n) then [6] else []) ++
      (if 2 < al && d % al != 0 then [8] else [])
  | .p => if 8 ≤ d then [5] else []
  | .t => if 8 ≤ d then [5] else []
  | .a => if 16 ≤ d then [5] else []
  | .x => if 16 ≤ d then [5] else []
  | .none => if d ≠ 0 then [5] else []

def optSubs (cx : LegalCx) (hasLit : Bool) : Option (Src × SrcClass) → List Nat
  | none => []
  | some u => srcSubs cx hasLit u

/-- Every SUB that a shape raises. PERM needs a source b that is read (log entry 85). -/
def Shape.subs (cx : LegalCx) (h : Shape) : List Nat :=
  (if h.bad3 then [3] else []) ++ optSubs cx h.hasLit h.a ++ optSubs cx h.hasLit h.b ++
  optSubs cx h.hasLit h.c ++ dstSubs cx h.d.toNat h.dst ++
  (if h.bad5 || h.gselBad then [5] else []) ++
  (if h.perm != .none && !(h.permOk && (h.b.map fun u => Src.isVecCode u.1) == some true) then [5] else []) ++
  (if decide (cx.v < h.vTop) then [6] else []) ++
  (if h.notSl && cx.sl then [7] else []) ++ (if h.bad8 then [8] else [])

/-- The lowest SUB of a list (R120). -/
def lowest : List Nat → Option Nat
  | [] => none
  | x :: xs => match lowest xs with
    | none => some x
    | some y => some (min x y)

/-! ### The shape of every instruction -/

def wShape (o : WForm μ) (dst : DstClass) (a b c : Option SrcClass) (permOk : Bool) : Shape :=
  { g := o.g, d := o.d, dst := dst, a := a.map (o.a, ·), b := b.map (o.b, ·), c := c.map (o.c, ·),
    perm := o.perm, permOk := permOk, hasLit := o.lit.isSome }

/-- A combination of the integer family: the widths, SAT and UD that a row lists (R130–R137). -/
def iShape (o : WForm IMod) (a b c : Option SrcClass) (ws : List IWidth) (sat ud : Bool)
    (dn : Nat := if o.m.w = .w64 then 2 else 1) : Shape :=
  { wShape o (if o.m.ud then .u dn dn else .v dn dn) a b c true with
    bad3 := !(ws.contains o.m.w)
    bad5 := (o.m.sat && !sat) || (o.m.ud && !ud) ||
      (o.m.ud && ((a.isSome && Src.isLaneSrc o.a) || (b.isSome && Src.isLaneSrc o.b) ||
        (c.isSome && Src.isLaneSrc o.c))) }

def allW : List IWidth := [.w32, .w64, .x16, .x8]

def iN (o : WForm IMod) : Nat := if o.m.w = .w64 then 2 else 1
def fN (o : WForm FMod) : Nat := if o.m.fmt = .f64 then 2 else 1

def signedOnly (o : WForm IMod) (h : Shape) : Shape := { h with bad3 := h.bad3 || o.m.z }

/-- A float row of R157. -/
def fShape (o : WForm FMod) (b c : Bool) (perm : Bool) (fmts : List Fmt) (anyRnd : Bool) (p : Bool := false) :
    Shape :=
  let n := fN o
  { wShape o (if p then .p else .v n n) (some (.any n)) (if b then some (.any n) else none)
      (if c then some (.any n) else none) perm with
    bad3 := !(fmts.contains o.m.fmt) || (!anyRnd && o.m.rnd != .cap) }

def allF : List Fmt := [.f32, .f16, .bf16, .f64]

/-- SCOPE and ORD combinations of R182, and GSEL (R97). -/
def MMod.bad (scopes : List Scope) (plainOrds ords : List MOrd) (m : MMod) : Bool :=
  !(scopes.contains m.scope) || !((if m.scope = .plain then plainOrds else ords).contains m.ord)

def allScopes : List Scope := [.plain, .warp, .group, .core, .dev, .pod]

def mShape (o : MForm μ) (dst : DstClass) (b : Option SrcClass) : Shape :=
  { g := o.g, d := o.d, dst := dst, a := some (o.a, .base), b := b.map (o.b, ·) }

def memShape (o : MForm MMod) (dst : DstClass) (b : Option SrcClass) (scopes : List Scope)
    (plainOrds ords : List MOrd) : Shape :=
  { mShape o dst b with
    bad3 := MMod.bad scopes plainOrds ords o.m, gselBad := o.gsel != 0 && o.m.scope != .group }

def hintShape (o : MForm NoMod) (dst : DstClass) (b : Option SrcClass := none) : Shape :=
  { mShape o dst b with gselBad := o.gsel != 0 }

def LdFmt.regs : LdFmt → Nat
  | .b64 => 2 | .b128 => 4 | _ => 1
def LdFmt.size : LdFmt → Nat
  | .z8 | .s8 => 1 | .z16 | .s16 => 2 | .b32 => 4 | .b64 => 8 | .b128 => 16
def StFmt.regs : StFmt → Nat
  | .b64 => 2 | .b128 => 4 | _ => 1
def StFmt.size : StFmt → Nat
  | .b8 => 1 | .b16 => 2 | .b32 => 4 | .b64 => 8 | .b128 => 16

def Ty.regs : Ty → Nat
  | .s32 | .z32 => 1 | .s64 | .z64 => 2

def aShape (o : AForm) (b c : Option SrcClass) (dn : Nat) (ords : List MOrd) : Shape :=
  { g := o.g, d := o.d, dst := .v dn dn, a := some (o.a, .base), b := b.map (o.b, ·), c := c.map (o.c, ·),
    bad3 := MMod.bad allScopes ords ords o.m, gselBad := o.gsel != 0 && o.m.scope != .group }

def regShape (o : RegForm) (dst : DstClass) (a b : Option SrcClass) : Shape :=
  { g := o.g, d := o.d, dst := dst, a := a.map (o.a, ·), b := b.map (o.b, ·), perm := o.perm }

/-- C16: registers v0–v31 within the allocation (R95, R116). -/
def c16Shape (o : C16) (readsD : Bool) : Shape :=
  { g := { sw := o.sw, pn := false, pi := 7 }, d := BitVec.ofNat 8 o.vd.toNat, dst := .v 1 1,
    a := some (.v (BitVec.ofNat 8 (if readsD then o.vd.toNat else o.vs.toNat)), .any 1),
    b := if readsD then some (.v (BitVec.ofNat 8 o.vs.toNat), .any 1) else none }

def n32Shape (o : N32) (dst : DstClass) (a : Option SrcClass) : Shape :=
  { g := o.g, d := o.d, dst := dst, a := a.map (o.a, ·) }

def jShape (g : Guard) : Shape := { g := g, d := 0, dst := .none }

/-- Elements of a CVT format in 32 bits (R109). -/
def CvtFmt.elems : CvtFmt → Nat
  | .f32 | .s32 | .z32 => 1 | .f16 | .bf16 | .s16 | .z16 => 2
  | .e5m2 | .e4m3 | .s8 | .z8 => 4 | .e2m1 => 8 | .f64 | .s64 | .z64 => 1
def CvtFmt.regs : CvtFmt → Nat
  | .f64 | .s64 | .z64 => 2 | _ => 1

def blkShape (o : BlkForm) : Shape :=
  let f := (o.blk.extractLsb' 0 4).toNat
  { g := o.g, d := o.d, dst := .v 1 1, a := some (o.a, .vec 1), perm := o.perm,
    bad3 := o.blk.extractLsb' 5 4 != 0 || !([1, 3, 4, 5].contains f), bad8 := o.blk.getLsbD 4 && f == 1 }

/-- Shapes of A and k of one MLOOP step (R234, R235). -/
def mloopWidth (t : Fin 9) : Nat := if t.val = 4 ∨ t.val = 5 then 16 else if t.val = 8 then 4 else 8
def mloopK (t : Fin 9) : Nat := 256 / mloopWidth t
def mloopM (s : BitVec 2) : Nat := if s.toNat < 2 then 32 else 64
def mloopN (s : BitVec 2) : Nat := if s.toNat = 0 then 32 else if s.toNat = 3 then 128 else 64
def mloopG (s : BitVec 2) : Nat := 8 * mloopM s / 32
/-- Scale registers of one step (R236). -/
def mloopSR (o : MloopForm) : Nat :=
  if o.bsc then ((mloopM o.shape / 32) * (mloopK o.typ / 32) + 1) / 2 else 0

def mloopShape (o : MloopForm) : Shape :=
  { g := o.g, d := o.d, dst := .none, a := some (o.a, .uimm 1), b := some (o.b, .uimm 1), notSl := true,
    bad3 := o.bsc && (4 ≤ o.typ.val && o.typ.val ≤ 7), bad8 := o.bsc && o.ti == 7,
    vTop := o.abase.toNat + o.km1.toNat * o.astep.toNat + mloopG o.shape + mloopSR o }

/-- CMASK of a broadcast bus: the four cores of one grid row or column of a quadrant (R248, R14). -/
def busMasks (col : Bool) : List (BitVec 16) :=
  if col then [0x1111, 0x2222, 0x4444, 0x8888] else [0x000F, 0x00F0, 0x0F00, 0xF000]

def mcastShape (o : McastForm) : Shape :=
  { g := o.g, d := o.d, dst := .none, a := if o.bus then none else some (o.a, .upair),
    b := some (o.b, .upair), c := some (o.c, .uimm 1), bad3 := o.scope == .warp,
    bad8 := o.bus && !((busMasks o.col).contains o.cmask) }

def barShape (o : BarForm) (pend : Bool) : Shape :=
  let c := BitVec.ofBool o.ve ++ o.vop ++ o.vin ++ o.vout
  { g := o.g, d := o.d, dst := .none, b := if pend then some (o.b, .uimm 1) else none, perm := o.perm,
    bad3 := o.vop == 3 || ((pend || !o.ve) && c != 0) }

/-- Special registers by number (R60): the width, and what each state may do. -/
structure CsrInfo where
  wide : Bool
  userR : Bool
  userW : Bool
  supW : Bool
  deriving DecidableEq, Repr

def csrInfo (n : BitVec 12) : Option CsrInfo :=
  match n.toNat with
  | 0x000 | 0x001 | 0x002 | 0x004 | 0x005 | 0x006 | 0x007 => some ⟨false, true, false, false⟩
  | 0x010 => some ⟨true, true, false, false⟩
  | 0x011 | 0x012 => some ⟨false, true, true, true⟩
  | 0x013 | 0x020 | 0x021 => some ⟨true, true, false, false⟩
  | 0x030 | 0x032 | 0x033 => some ⟨false, false, false, true⟩
  | 0x031 => some ⟨true, false, false, true⟩
  | 0x040 => some ⟨true, true, false, true⟩
  | 0x041 => some ⟨false, true, false, true⟩
  | 0x042 => some ⟨true, false, false, false⟩
  | 0x050 => some ⟨true, false, false, true⟩
  | 0x051 | 0x052 | 0x053 | 0x054 | 0x055 | 0x056 | 0x057 => some ⟨false, false, false, true⟩
  | _ => none

def csrShape (o : CsrForm) (write : Bool) : Shape :=
  let n := match csrInfo o.num with | some i => if i.wide then 2 else 1 | none => 1
  { g := o.g, d := o.d, dst := if write then .none else .v n n,
    a := if write then some (o.a, .any n) else none }

/-- A CSR use with the fate of an unassigned encoding in every state (R60). -/
def csrUnassigned (o : CsrForm) (write : Bool) : Bool :=
  match csrInfo o.num with
  | none => true
  | some i => write && !i.supW

/-- The operand checks of every instruction; events have none. -/
def shapeOf : Instr → Option Shape
  | .iadd o | .isub o => some (iShape o (some (.any (iN o))) (some (.any (iN o))) none allW true true)
  | .iadd3 o =>
    some (iShape o (some (.any (iN o))) (some (.any (iN o))) (some (.any (iN o))) allW true true)
  | .ineg o | .iabs o => some (signedOnly o (iShape o (some (.any (iN o))) none none allW true true))
  | .imul o => some (iShape o (some (.any (iN o))) (some (.any (iN o))) none allW true true)
  | .imulh o => some (iShape o (some (.any (iN o))) (some (.any (iN o))) none [.w32, .w64] false true)
  | .imad o =>
    some (iShape o (some (.any (iN o))) (some (.any (iN o))) (some (.any (iN o))) allW true true)
  | .imadw o => some (iShape o (some (.any 1)) (some (.any 1)) (some (.any 2)) [.w32] true true 2)
  | .imin o | .imax o | .and o | .or o | .xor o | .andn o | .orn o =>
    some (iShape o (some (.any (iN o))) (some (.any (iN o))) none allW false true)
  | .not o => some (iShape o (some (.any (iN o))) none none allW false true)
  | .shl o => some (iShape o (some (.any (iN o))) (some (.any (iN o))) none allW true true)
  | .shr o | .sar o | .rotl o | .rotr o =>
    some (iShape o (some (.any (iN o))) (some (.any (iN o))) none allW false true)
  | .fshl o | .fshr o =>
    some (iShape o (some (.any (iN o))) (some (.any (iN o))) (some (.any (iN o))) allW false true)
  | .bfe o => some (iShape o (some (.any (iN o))) (some (.any (iN o))) none [.w32, .w64] false true)
  | .bfi o =>
    some (iShape o (some (.any (iN o))) (some (.any (iN o))) (some (.any (iN o))) [.w32, .w64] false true)
  | .popc o | .clz o | .brev o | .ffs o => some (iShape o (some (.any (iN o))) none none allW false true)
  | .idiv o | .irem o =>
    let k := o.c.code.toNat
    let n := if 2 ≤ k then 2 else 1
    some { wShape o (.v n n) (some (.any n)) (some (.any n)) none false with bad8 := decide (3 < k) }
  | .lea o => some (iShape o (some (.any 2)) (some (.any 1)) (some (.any 1)) [.w64] false true)
  | .leaw o => some (iShape o (some (.any 2)) (some (.any 2)) (some (.any 1)) [.w64] false true)
  | .icmp _ o =>
    some { iShape o (some (.any (iN o))) (some (.any (iN o))) none [.w32, .w64] false false with dst := .p }
  | .sel o => some (iShape o (some (.any (iN o))) (some (.any (iN o))) (some .pred) allW false false)
  | .pand o | .por o | .pxor o => some (wShape o .p (some .pred) (some .pred) none false)
  | .pnot o => some (wShape o .p (some .pred) none none false)
  | .mov o => some (wShape o (.v 1 1) (some (.any 1)) none none false)
  | .movN32 o => some (n32Shape o (.v 1 1) (some (.any 1)))
  | .movu o => some (wShape o (.u 1 1) (some (.any 1)) none none false)
  | .movp o => some (wShape o .p (some (.any 1)) none none false)
  | .xget o => some (wShape o (.v 1 1) (some (.index 16)) none none false)
  | .xput o => some (wShape o .x (some (.any 1)) none none false)
  | .tget o => some (wShape o (.u 4 4) (some (.index 8)) none none false)
  | .tset o => some (wShape o .t (some .uquad) none none false)
  | .aget o => some (wShape o (.u 4 4) (some (.index 16)) none none false)
  | .aset o => some (wShape o .a (some .uquad) none none false)
  | .fadd o | .fsub o | .fmul o => some (fShape o true false true allF true)
  | .ffma o | .ffms o | .fnma o => some (fShape o true true true allF true)
  | .fmin o | .fmax o => some (fShape o true false true allF false)
  | .fcmp _ o => some (fShape o true false true [.f32, .f64] false true)
  | .rcp o | .rsq o | .ex2 o | .lg2 o | .sin o | .cos o | .tanh o =>
    some (fShape o false false false [.f32, .f16, .bf16] false)
  | .sqrt o => some (fShape o false false false allF true)
  | .cvt o => some
    { g := o.g, d := o.d, dst := .v (CvtFmt.regs o.df) (CvtFmt.regs o.df), a := some (o.a, .any (CvtFmt.regs o.sf)),
      bad8 := decide (CvtFmt.elems o.sf ≤ o.sel.toNat) || decide (CvtFmt.elems o.df ≤ o.del.toNat) }
  | .bpack o | .bunpack o => some (blkShape o)
  | .fdiv o => some (fShape o true false false allF true)
  | .bra o => some (jShape o.g)
  | .braJ32 o => some (jShape o.g)
  | .call o => some (wShape o (.v 2 2) none none none false)
  | .callx o => some (wShape o (.v 2 2) (some .base) none none false)
  | .jmpx o | .ret o => some (wShape o .none (some (.any 2)) none none false)
  | .join o => some
    { wShape o .p (some .nonvec) (some .nonvec) none false with
      bad8 := o.g.pi != 7 || o.g.pn }
  | .exit o | .yield o | .brk o | .tret o => some (n32Shape o .none none)
  | .shfl _ o => some { wShape o (.v 1 1) (some (.vec 1)) (some (.any 1)) none false with notSl := true }
  | .vote op o =>
    some { wShape o (match op with | .and | .or | .same => .p | _ => .v 1 1) (some .pred) none none false with
      notSl := true }
  | .rdux (.int op o) =>
    some { iShape o (some (.any (iN o))) none none allW (op = .add) false with permOk := false, notSl := true }
  | .rdux (.flt _ o) => some { fShape o false false false allF true with notSl := true }
  | .movC16 o =>
    some (if o.vd = o.vs then jShape { sw := o.sw, pn := false, pi := 7 } else c16Shape o false)
  | .iaddC16 o | .isubC16 o | .andC16 o | .orC16 o | .xorC16 o | .shlC16 o | .shrC16 o | .sarC16 o
  | .imulC16 o | .iminC16 o | .imaxC16 o | .faddC16 o | .fmulC16 o | .fminC16 o | .fmaxC16 o =>
    some (c16Shape o true)
  | .ld f o => some (memShape o (.v (LdFmt.regs f) (LdFmt.regs f)) none allScopes [.rlx] [.rlx, .acq])
  | .st f o => some (memShape o .none (some (.data (StFmt.regs f))) allScopes [.rlx] [.rlx, .rel])
  | .lds f o =>
    some (memShape o (.v (LdFmt.regs f) (LdFmt.regs f)) none [.plain, .warp, .group, .core] [.rlx] [.rlx, .acq])
  | .sts f o =>
    some (memShape o .none (some (.data (StFmt.regs f))) [.plain, .warp, .group, .core] [.rlx] [.rlx, .rel])
  | .ldt o =>
    let r := 2 ^ o.rc.toNat
    let h : Shape := { g := o.g, d := o.d, dst := .v r 1, b := some (o.b, .uimm 1), perm := o.perm, notSl := true }
    some { h with bad8 := o.d.toNat % r != 0 }
  | .stmap o => some (wShape o .none (some .upair) (some (.uimm 1)) (some (.uimm 1)) false)
  | .stunmap o => some (wShape o .none none (some (.uimm 1)) none false)
  | .pref _ o => some (hintShape o .none)
  | .discard o => some (memShape o .none none allScopes [.rlx] [.rlx, .rel])
  | .driftP o | .driftD o | .driftQ o => some (hintShape o (.v 1 1))
  | .fence o => some
    { g := o.g, d := o.d, dst := .none,
      bad3 := o.m.scope == .plain || o.m.ord == .rlx, gselBad := o.gsel != 0 && o.m.scope != .group }
  | .atom op o =>
    let n := Ty.regs o.ty
    some { aShape o (some (.any n)) (if op = .cas then some (.any n) else none) n [.rlx, .acq, .rel, .ar] with
      bad8 := op == .fadd && o.ty != .s32 }
  | .redf _ o => some (regShape o .none (some (.any 1)) (some (.any 1)))
  | .enq o => some (memShape o (.v 1 1) (some (.data 2)) allScopes [.rlx, .acq, .rel, .ar] [.rlx, .acq, .rel, .ar])
  | .deq o => some (memShape o (.v 3 2) none allScopes [.rlx, .acq, .rel, .ar] [.rlx, .acq, .rel, .ar])
  | .waitv o => some (aShape o (some (.any (Ty.regs o.ty))) (some (.any 2)) 1 [.rlx, .acq])
  | .wakev o => some (memShape o (.v 1 1) (some (.any 1)) allScopes [.rlx, .rel] [.rlx, .rel])
  | .barArrive o | .barWait o | .barSync o => some (barShape o false)
  | .barPend o => some (barShape o true)
  | .twaitAny o | .twaitAll o | .tclr o => some (wShape o .none (some (.uimm 2)) none none false)
  | .tffr o => some (wShape o (.u 1 1) (some (.uimm 2)) none none false)
  | .mloop o => some (mloopShape o)
  | .mzero o => some (wShape o .a (some (.uimm 1)) none none false)
  | .macq o | .mrelFin o => some (regShape o .none (some .unreadNonvec) none)
  | .mrel o => some (regShape o .none (some (.uimm 1)) none)
  | .mread m o =>
    let n := if m = .raw then 4 else 1
    some { regShape o (.v n n) none (if m = .st then none else some (.any 1)) with bad3 := o.a != .v 0 }
  | .mcvt _ _ o => some (regShape o (.v 1 1) none (some (.any 1)))
  | .rowstat o => some (regShape o (.v 4 4) none (some (.any 1)))
  | .redq _ o => some (hintShape o .none (some .base))
  | .mspill o | .mfill o =>
    some { g := o.g, d := o.d, dst := .none, a := some (o.a, .base), gselBad := o.gsel != 0 }
  | .copy o => some
    { g := o.g, d := o.d, dst := .none, a := some (o.a, .upair), b := some (o.b, .upair),
      c := some (o.c, .uimm 1), bad3 := o.scope == .warp }
  | .mcast o => some (mcastShape o)
  | .msend o => some (wShape o (.v 1 1) (some (.any 1)) (some (.any 1)) (some (.vec 1)) false)
  | .launch o => some (wShape o (.v 2 2) (some .base) (some (.any 1)) none false)
  | .dstop o | .dresume o => some (wShape o (.v 1 1) (some (.any 1)) none none false)
  | .sysc o => some (wShape o (.v 1 1) (some (.any 1)) (some (.vec 8)) none false)
  | .sqtake o => some { wShape o (.v 16 16) none none none false with bad3 := o.a != .v 0 }
  | .sqreply o =>
    some (wShape o .none (some (.vec 2)) (some (.any 1)) (some (.any 1)) false)
  | .gate o => some (wShape o (.v 2 2) (some (.any 1)) (some (.any 1)) (some (.any 2)) false)
  | .fqtake o => some (wShape o (.v 8 8) (some (.only 0)) (some (.only 320)) (some (.only 320)) false)
  | .fqresume o => some (wShape o .none (some .reg) (some (.any 1)) (some (.only 320)) false)
  | .csrr o => some (csrShape o false)
  | .csrw o | .csrs o | .csrc o => some (csrShape o true)
  | .vrdi o => some (wShape o (.v 1 1) (some (.any 1)) none none false)
  | .vwri o => some (wShape o .none (some (.any 1)) (some (.any 1)) none false)
  | .tlbi o => some (wShape o .none (some .base) (some (.any 1)) none false)
  | .tlbia o => some (wShape o .none none (some (.any 1)) none false)
  | .tlbig o => some (wShape o .none none none none false)
  | .cflush o | .cinv o | .icinv o => some (wShape o .none (some .base) none none false)
  | .osave o => some (wShape o (.v 2 2) (some .base) (some .base) none false)
  | .odrop o => some (wShape o (.v 2 2) (some .base) none none false)
  | _ => none

/-- SUB 1 on a representable instruction: a CSR number or use that no state has (R60). -/
def unassignedCsr : Instr → Bool
  | .csrr o => csrUnassigned o false
  | .csrw o | .csrs o | .csrc o => csrUnassigned o true
  | _ => false

/-- The lowest SUB that an instruction raises without regard to operand values (R119, R120). -/
def illegalSub (cx : LegalCx) (i : Instr) : Option Nat :=
  match shapeOf i with
  | none => none
  | some h => lowest ((if unassignedCsr i then [1] else []) ++ h.subs cx)

/-- Privileged instructions (R118) with the SUB of their privilege trap (R374). CSR accesses are judged
register by register. -/
def privSub : Instr → Option Nat
  | .xget _ | .xput _ => some 3
  | .csrr o => match csrInfo o.num with
    | some i => if i.userR then none else some 2
    | none => none
  | .csrw o | .csrs o | .csrc o => match csrInfo o.num with
    | some i => if i.userW then none else some 2
    | none => none
  | .sqtake _ | .sqreply _ | .fqtake _ | .fqresume _ | .tret _ | .tlbi _ | .tlbia _ | .tlbig _ | .cinv _
  | .dstop _ | .dresume _ | .osave _ | .odrop _ => some 1
  | _ => none

/-- FMT = 11, SF or DF = 6, IDIV, IREM and FDIV (R119, R178). -/
def unimplemented : Instr → Bool
  | .idiv _ | .irem _ | .fdiv _ => true
  | .fadd o | .fsub o | .fmul o | .ffma o | .ffms o | .fnma o | .fmin o | .fmax o | .fcmp _ o | .sqrt o
  | .rdux (.flt _ o) => o.m.fmt == .f64
  | .cvt o => o.sf == .f64 || o.df == .f64
  | _ => false

end Sys2Proof.Machine
end

