-- ==== Sys2Proof/Config.lean ====
section
/-! DEFINITION. What the spec leaves open and one machine fixes: free values, opaque constants without a
body. Each is named in the assumption log. -/

namespace Sys2Proof.Config

/-- The free choices of R61, R112, R113, R196 and their like: the choice numbered `draw` of a run, for lane or
item `k` of the step that makes it. Log entry 10. -/
opaque choice (draw k : Nat) : Nat

/-- The FP32 candidate that the special-function unit has for function `op` (minor of R164) on a pattern.
R165 bounds it. Log entry 12. -/
opaque sfu (op : Nat) (x : BitVec 32) : BitVec 32

/-- The key counter of a slice at the reset numbered by its draw (R226). Log entry 5. -/
opaque keySeed (slice draw : Nat) : BitVec 16

/-- Bytes that another device answers a read of its memory with (R311). Log entry 13. -/
opaque peerByte (addr draw : Nat) : Byte

/-- Bytes that a root-port window answers a read with (R277, R353). Log entry 13. -/
opaque portByte (addr draw : Nat) : Byte

/-- The fuses of a die: its secret, the hash of the key that signs boot images, the least security version (R364, R365).
Log entry 14. -/
opaque dieSecret (die k : Nat) : Byte
opaque keyHash (die : Nat) : BitVec 256
opaque svnFuse (die : Nat) : Nat

/-- ML-DSA-44 of FIPS 204, which the spec names and does not give: the public key of a seed, a signature of a message under
its secret key, and the check of a signature (R364, R365). Log entry 14. -/
opaque dsaKey (seed : BitVec 256) (k : Nat) : Byte
opaque dsaSign (seed : BitVec 256) (msg : List Byte) (draw k : Nat) : Byte
opaque dsaVerify (key msg sig : List Byte) : Bool

/-- The device that is the pod's time master, in another device's eyes (R344). Log entry 126. -/
opaque timeMaster : Nat

/-- Bytes that DRAM gives before its stack is trained (R362). Log entry 86. -/
opaque untrainedByte (addr draw : Nat) : Byte

end Sys2Proof.Config
end

