-- ==== Sys2Proof/Machine/Table.lean ====
section
/-! DEFINITION. The operations of the indexed stores, and the free-standing bit helpers of the machine. -/

namespace Sys2Proof.Machine

/-- The entry of key k, if one is listed. -/
def find (t : Table α) (k : Nat) : Option α :=
  match t with
  | [] => none
  | (j, v) :: t => if j = k then some v else find t k

/-- What key k holds: d where nothing is listed. -/
def look (d : α) (t : Table α) (k : Nat) : α :=
  match t with
  | [] => d
  | (j, v) :: t => if j = k then v else look d t k

/-- List value v under key k, in the order of the keys. -/
def ins (t : Table α) (k : Nat) (v : α) : Table α :=
  match t with
  | [] => [(k, v)]
  | (j, w) :: t => if k < j then (k, v) :: (j, w) :: t else if j = k then (k, v) :: t else (j, w) :: ins t k v

/-- Remove key k. -/
def del (t : Table α) (k : Nat) : Table α := t.filter fun e => e.1 ≠ k

/-- Write v under key k; the default value is not listed. -/
def put [DecidableEq α] (d : α) (t : Table α) (k : Nat) (v : α) : Table α :=
  if v = d then del t k else ins t k v

/-- Change what key k holds. -/
def upd [DecidableEq α] (d : α) (t : Table α) (k : Nat) (f : α → α) : Table α := put d t k (f (look d t k))

/-- Keys strictly rising. -/
def rising : Table α → Bool
  | [] => true
  | [_] => true
  | (j, _) :: (k, v) :: t => decide (j < k) && rising ((k, v) :: t)

/-- The canonical form: keys strictly rising, no default listed. -/
def canon [DecidableEq α] (d : α) (t : Table α) : Bool := rising t && t.all fun e => decide (e.2 ≠ d)

/-- The lanes of a mask in ascending order. -/
def lanesOf (m : Mask) : List Nat := (List.range 32).filter fun l => m.getLsbD l

def laneBit (l : Nat) : Mask := BitVec.ofNat 32 (2 ^ l)

def maskOf (ls : List Nat) : Mask := ls.foldl (fun m l => m ||| laneBit l) 0

/-- The lowest lane of a mask; 0 for the empty one. -/
def lowLane (m : Mask) : Nat := (lanesOf m).headD 0

/-- n bytes of a number from the lowest address upward (R3). -/
def toBytes : Nat → Nat → List Byte
  | 0, _ => []
  | n + 1, x => BitVec.ofNat 8 x :: toBytes n (x / 256)

/-- The number that bytes hold from the lowest address upward (R3). -/
def ofBytes : List Byte → Nat
  | [] => 0
  | b :: bs => b.toNat + 256 * ofBytes bs

end Sys2Proof.Machine
end

