-- ==== Sys2Proof/Machine/Units.lean ====
section
/-! DEFINITION. The state of the parts that issue: lanes, warps, cores, and the stores of a core. -/

namespace Sys2Proof.Machine

/-! ### Registers -/

/-- A register: the value it holds once its settled writes are in, and the writes still open with the front
that made each (R112, R113). -/
structure Cell (α : Type) where
  val : α
  opens : List (Front × α)
  deriving DecidableEq, Repr

abbrev VReg := Cell Word
abbrev PReg := Cell Bool
abbrev DReg := Cell Desc128

/-! ### Lanes (R22, R24, R66) -/

inductive LaneSt where | absent | runnable | waiting | exited
  deriving DecidableEq, Repr

/-- What a wait needs (R68, R385). `d` is field D of the waiting instruction; a barrier
wait keeps VOP and VOUT of its vote, and `again` where the cluster arrives once the phase completes (R218). -/
inductive Wait where
  | none
  | sysc (ticket : Word) (d : BitVec 8)
  | sysFull
  | join (d : BitVec 8)
  | barrier (k : BitVec 2) (vote : Option (BitVec 2 × BitVec 3)) (again : Bool)
  | twait (m : DWord) (all : Bool)
  | gaz (deadline : DWord) (d : BitVec 8)
  | faultq (word0 : Word)
  | stopped
  deriving DecidableEq, Repr

/-- The wait-kind code of R385. -/
def Wait.kind : Wait → Nat
  | .none => 0 | .sysc _ _ => 1 | .sysFull => 2 | .join _ => 3 | .barrier _ _ _ => 4 | .twait _ _ => 5
  | .gaz _ _ => 6 | .faultq _ => 7 | .stopped => 8

/-- The wait ends with a write to a register of the lane: a result outstanding from the issue on (R111, R147). -/
def Wait.result : Wait → Bool
  | .sysc _ _ | .join _ | .gaz _ _ => true
  | .barrier _ (some _) again => !again
  | _ => false

structure Lane where
  st : LaneSt
  wait : Wait
  pc : BitVec 63
  sv : Bool
  age : Nat
  v : Table VReg
  p : Table PReg
  x : Table VReg
  tpc : Cell DWord
  tcause : VReg
  tword : Table VReg
  top : Table VReg
  deriving DecidableEq, Repr

def zeroV : VReg := ⟨0, []⟩
def zeroP : PReg := ⟨false, []⟩
def zeroD : DReg := ⟨0, []⟩

/-- A lane that was not created. -/
def Lane.absent : Lane :=
  { st := .absent, wait := .none, pc := 0, sv := false, age := 0, v := [], p := [], x := [], tpc := ⟨0, []⟩,
    tcause := zeroV, tword := [], top := [] }

/-! ### Fronts and warps (R27–R31, R34, R39, R60, R61) -/

/-- What holds a front beside a switch marker: a MACQ without its answer (R228), a %waymask write waiting
(R263). -/
inductive Hold where | none | macq (slice line : Nat) | waymask
  deriving DecidableEq, Repr

structure FrontSt where
  /-- Parked at a switch marker (R110). -/
  parked : Bool
  /-- Results that have yet to return: the lanes of each (R111). -/
  loads : List Mask
  /-- Lanes that entered a handler and whose results of the user front are not known to be written: the supervisor front
  is held until these are (R378). -/
  entry : Mask
  hold : Hold
  spin : Nat
  spinAddr : BitVec 63
  spinLanes : Mask
  /-- A rotation issue that YIELD made due: the PC to look above (R149). -/
  due : Option (BitVec 63)
  deriving DecidableEq, Repr

def FrontSt.init : FrontSt :=
  { parked := false, loads := [], entry := 0, hold := .none, spin := 0, spinAddr := 0, spinLanes := 0,
    due := none }

/-- A join record (R146): its mask, its deadline (`none` for T = 0) and the length of the JOIN at its address. -/
structure JoinRec where
  mask : Mask
  len : Nat
  deadline : Option DWord
  deriving DecidableEq, Repr

/-- The phase of the warp's last arrival on %grp(k), and whether a wait on it is due (R67, R218). -/
structure PhaseRec where
  phase : BitVec 16
  pw : Bool
  deriving DecidableEq, Repr

structure Warp where
  task : Word
  wid : Word
  vAlloc : Nat
  sAlloc : Nat
  lanes : Table Lane
  s : Table VReg
  t : Table DReg
  a : Table DReg
  tilepart : Word
  fmode : Word
  /-- Flag updates of instructions still outstanding (R61, R111). -/
  flagsDue : List (Front × BitVec 5)
  grp : Table Word
  ptroot : DWord
  asid : Word
  ctxbase : DWord
  user : FrontSt
  sup : FrontSt
  /-- The front that issued last; none after creation or an empty front (R28). -/
  last : Option Front
  joins : Table JoinRec
  phases : Table PhaseRec
  town : BitVec 64
  /-- Steps 1 to 3 of R46 under way: the warp issues nothing. -/
  stopping : Bool
  deriving DecidableEq, Repr

/-- A warp with no lane. -/
def Warp.empty : Warp :=
  { task := 0, wid := 0, vAlloc := 0, sAlloc := 0, lanes := [], s := [], t := [], a := [],
    tilepart := 5, fmode := 0, flagsDue := [], grp := [], ptroot := 0, asid := 0, ctxbase := 0,
    user := .init, sup := .init, last := none, joins := [], phases := [], town := 0, stopping := false }

/-! ### The stores of a core -/

/-- A translation kept, or a table pointer of the walk cache: the address space, the range it serves, the entry and the
level it stands at (R274). -/
structure TlbEntry where
  asid : Word
  va : Nat
  size : Nat
  pte : DWord
  level : Nat
  /-- Where the entry stands in memory. -/
  at_ : Nat
  deriving DecidableEq, Repr

/-- A line held in an L1 (R308), with its poisoned sectors by number and their halves covered since (R407, R409). -/
structure L1Line where
  data : Table Byte
  cwts : Nat
  crts : Nat
  poison : Table (BitVec 2)
  deriving DecidableEq, Repr

/-- An instruction copy of a line, and its poisoned sectors, 0 to 3 (R265, R407). -/
structure ICopy where
  data : Table Byte
  bad : List Nat
  deriving DecidableEq, Repr

/-- An entry of a stash window once filled or written whole: the physical line it stands for, its bytes written
since the fill, its lease (R191, R308). The bytes themselves are stash bytes. -/
structure WinEntry where
  line : Nat
  dirty : Table Bool
  cwts : Nat
  crts : Nat
  /-- The LCL of the translation that gave the line (R287). -/
  lcl : Nat
  /-- By sector, 0 to 3, the halves that one write each has covered since the last write-back (R409). -/
  full : Table (BitVec 2)
  deriving DecidableEq, Repr

/-- A stash window (R189). -/
structure Window where
  task : Word
  asid : Word
  ptroot : DWord
  soff : Nat
  wva : Nat
  len : Nat
  /-- The control word as STMAP read it (R389). -/
  ctl : Word
  sws : Nat
  sww : Nat
  grp : Option (BitVec 8)
  entries : Table WinEntry
  deriving DecidableEq, Repr

/-- A task's run of stash bytes on a core (R276). -/
structure StashRun where
  base : Nat
  size : Nat
  deriving DecidableEq, Repr

/-- A barrier object, core-local or at its address (R216). -/
structure BarObj where
  phase : BitVec 16
  nmem : Nat
  arr : Nat
  pend : Int
  any : Bool
  all : Bool
  anyLast : Bool
  allLast : Bool
  deriving DecidableEq, Repr

/-! ### Queues of a core -/

/-- An entry of the supervisor queue: sixteen words (R256). -/
structure SqEntry where
  words : List Word
  deriving DecidableEq, Repr

/-- Who waits on a fault: a lane of a slot, an engine run by its tag, or the COPY that a resumed MCAST of core `core` makes
for its receiver x (R393); with the SUB of its own fault. -/
inductive FaultWho where
  | lane (slot : Nat) (task wid : Word) (lane : Nat) (ctxbase : DWord)
  | run (tag : Nat) (task wid : Word)
  | part (core tag x : Nat) (task wid : Word)
  deriving DecidableEq, Repr

structure FaultRec where
  who : FaultWho
  sub : Nat
  /-- Bit 0 read, 1 write, 2 read-modify-write, 3 fetch (R401). -/
  kinds : Nat
  va : DWord
  asid : Word
  /-- Words and sources of the instruction, for a trap that FQRESUME delivers (R377, R403). -/
  words : BitVec 96
  tops : Word × Word × Word
  deriving DecidableEq, Repr

/-- A fault-queue entry by its slot: the first fault, the kinds joined, who waits, and whether FQTAKE took it
(R401, R402). -/
structure FqEntry where
  seq : Nat
  first : FaultRec
  kinds : Nat
  waits : List FaultRec
  taken : Bool
  deriving DecidableEq, Repr

/-! ### Engine runs (R224, R233, R246, R247) -/

inductive RunKind where
  | mloop (o : MloopForm) | copy (o : CopyForm) | mcast (o : McastForm)
  deriving DecidableEq, Repr

def RunKind.isMcast : RunKind → Bool
  | .mcast _ => true | .mloop _ | .copy _ => false

structure Run where
  kind : RunKind
  slot : Nat
  task : Word
  wid : Word
  asid : Word
  ptroot : DWord
  /-- Issued in user state. -/
  user : Bool
  addr : DWord
  words : BitVec 96
  a : DWord
  b : DWord
  c : DWord
  ti : Desc128
  ti1 : Desc128
  ai : Desc128
  /-- The group whose barrier counts the delivered bytes (R220). -/
  bar : Option Nat
  /-- The task's windows on the core at issue that are still mapped, by stash offset (R370). -/
  wins : List Nat
  /-- The registers of the fragments at issue, by register and lane, from ABASE (R235, R239). -/
  frag : List (List Word)
  /-- The task's stash bytes at issue, and the window entries that were filled then (R239). -/
  snap : Option (Table Byte)
  ents : List (Nat × Nat)
  /-- Next step of an MLOOP; bytes done of a COPY; least NEXT of an MCAST (R390). -/
  prog : Nat
  /-- NEXT(x) of R393. -/
  next : List Nat
  /-- The receivers' cores by x; none where the task is not (R247, R393). -/
  recv : List (Option Nat)
  /-- Run values of R86, row-major, as FP32 bits. -/
  acc : List Word
  /-- A poisoned operand was read (R408). -/
  bad : Bool
  quarter : Nat
  /-- The base of the task's stash run at issue (R63, R276). -/
  base : Nat
  /-- The engine runs it: an MLOOP then has its quarter (R391). -/
  started : Bool
  /-- The MLOOP has begun, so that its run values stand (R391). -/
  rv : Bool
  /-- Its place in the order of issue: a quarter takes its MLOOPs in this order (R321). -/
  seq : Nat
  /-- Waits in the fault queue (R404). -/
  held : Bool
  /-- Bytes delivered and not yet counted on PEND. -/
  owed : Nat
  /-- Destination bytes overwritten so far, by address, as they were: kept where source and destination overlap. -/
  old : Table Byte
  /-- The issuing warp's groups (R370). -/
  grp : Table Word
  /-- Granules of a bus MCAST's source that the feeder has read and not delivered, with their poison (R339). -/
  ahead : Table (List Byte × Option Nat)
  /-- A resumed MCAST: the engine of each receiver's core copies what its receiver lacks (R393). -/
  copies : Bool := false
  /-- The receivers whose COPY waits in a fault queue, and the bytes that each has still to count on PEND (R393). -/
  heldAt : List Nat := []
  dues : Table Nat := []
  /-- TCLR gave the tag up; what a save keeps of Core.tagDrop. -/
  drop : Bool
  deriving DecidableEq, Repr

/-- A warp as it was saved, with the clock and the completed tags of its core then (R67). -/
structure SavedWarp where
  w : Warp
  cts : Nat
  tdone : BitVec 64
  /-- The greatest time that a wake of one of its lanes carried (R47, R70). -/
  acq : Nat
  deriving DecidableEq, Repr

/-- The supervisor lane (R42, R342, R343). -/
structure SupLane where
  warp : Warp
  halt : Bool
  /-- Halted by EXIT: an admitted interrupt wakes it (R42). -/
  exitHalt : Bool
  ih : Bool
  started : Bool
  slstart : DWord
  slvec : DWord
  deriving DecidableEq, Repr

structure Core where
  slots : Table Warp
  sl : SupLane
  sqctl : Word
  sqwva : DWord
  sq : List SqEntry
  sqEntered : Word
  sqCalls : Nat
  /-- Since when the supervisor queue is full, or since QP was last set for it (R255). -/
  sqFull : Option DWord
  fqctl : Word
  fqwva : DWord
  fq : Table FqEntry
  fqOrder : List Nat
  /-- The admission list of R402. -/
  fqWait : List FaultRec
  fqSeq : Nat
  /-- The slot assigned next, if free. -/
  fqNext : Nat
  fqCount : Word
  estat : DWord
  eaddr : DWord
  etask : Word
  ecnt : DWord
  tvec : DWord
  arithen : BitVec 5
  retired : Bool
  tagbits : BitVec 64
  /-- Tags in use (R222). -/
  tagUsed : BitVec 64
  /-- Tags freed by TCLR before completion (R222). -/
  tagDrop : BitVec 64
  ct : Nat
  waymask : BitVec 12
  wayPend : Option (BitVec 12)
  timecmp : DWord
  imask : Word
  ipendEdge : Word
  stash : Table Byte
  /-- Poisoned 32-byte sectors of the stash, with the halves covered since (R407, R409). -/
  stashPoison : Table (BitVec 2)
  /-- Translations the core keeps (R274). -/
  tlb : List TlbEntry
  stashRuns : Table StashRun
  windows : List Window
  l1 : Table L1Line
  /-- Instruction copies by line (R265). -/
  icache : Table ICopy
  bars : Table BarObj
  runs : Table Run
  /-- The bus buffers, each byte with whether it is poisoned (R248, R408). -/
  rowBus : List (Byte × Bool)
  colBus : List (Byte × Bool)
  routes : Table Word
  slAge : Bool
  /-- Slots in the order of last issue, the youngest last (R322). -/
  order : List Nat
  deriving DecidableEq, Repr

/-- The registers of the supervisor lane before it starts (R42, R51, R53). -/
def Warp.supInit : Warp :=
  { Warp.empty with
    wid := 0xFFFF, vAlloc := 32, sAlloc := 16,
    lanes := [(0, { Lane.absent with st := .runnable, sv := true })] }

/-- A core with its supervisor lane halted and nothing placed. -/
def Core.init : Core :=
  { slots := [],
    sl := { warp := Warp.supInit, halt := true, exitHalt := false, ih := false, started := false, slstart := 0,
            slvec := 0 },
    sqctl := 0, sqwva := 0, sq := [], sqEntered := 0, sqCalls := 0, sqFull := none, fqctl := 0, fqwva := 0, fq := [],
    fqOrder := [], fqWait := [], fqSeq := 0, fqNext := 0, fqCount := 0, estat := 0, eaddr := 0, etask := 0, ecnt := 0,
    tvec := 0, arithen := 0, retired := false, tagbits := 0, tagUsed := 0, tagDrop := 0, ct := 0, waymask := 0,
    wayPend := none, timecmp := BitVec.allOnes 64, imask := 0, ipendEdge := 0, stash := [], stashPoison := [], tlb := [], stashRuns := [],
    windows := [], l1 := [], icache := [], bars := [], runs := [], rowBus := [], colBus := [], routes := [], slAge := false,
    order := [] }

/-! ### Slices (R225, R280, R281, R308) -/

/-- A general line held by a slice: its whole content by offset. -/
structure L2Line where
  data : Table Byte
  dirty : Bool
  wts : Nat
  rts : Nat
  deriving DecidableEq, Repr

/-- A warp as a slice knows it: task and %wid, and the core for the supervisor lane (R225). -/
structure Source where
  task : Word
  wid : Word
  core : Option Nat
  deriving DecidableEq, Repr

/-- A MACQ waiting at a region: the warp, where it stands, and the key of its handle (R228). -/
structure MacqReq where
  src : Source
  who : Who
  front : Front
  lanes : Mask
  addr : BitVec 63
  words : BitVec 96
  len : Nat
  key : BitVec 16
  /-- Requests that the slice had been sent before it. -/
  upTo : Nat
  deriving DecidableEq, Repr

/-- An armed region (R225). Elements by number: FP32 bits, or the 128-bit integers of R80. -/
structure Region where
  lines : Nat
  key : BitVec 16
  fixed : Bool
  q : Int
  rows : Nat
  cols : Nat
  exp : Nat
  rel : Nat
  holder : Option Source
  ovf : Bool
  nvf : Bool
  owntask : Word
  elems : Table (BitVec 128)
  waiting : List MacqReq
  /-- Poisoned 32-byte sectors, counted from the region's first byte (R413). -/
  poison : List Nat
  /-- The greatest time that a release of the region carried (R305, R309). -/
  time : Nat
  deriving DecidableEq, Repr

/-- What travels to a slice in the order of its source warp (R205, R229). A contribution names its lane, element
and FP32 value; those of an MLOOP (`whole` with its tag) stand or fall together (R412), or are poison marks (R408). A
release, and the return of a freed warp's tokens, carry their time (R305); `mloop` keeps the place of a running MLOOP's contributions to the region of its handle, which a later release waits behind. -/
inductive SliceOp where
  | contribute (handle : Desc128) (whole : Option Nat) (bad marks : Bool) (elems : List (Nat × Nat × Word))
  | release (handle : Desc128) (exp : Nat) (fin : Bool) (time : Nat)
  | giveUp (time : Nat)
  | mloop (tag : Nat) (handle : Desc128)
  deriving DecidableEq, Repr

/-- The handle of the region that a request is for. -/
def SliceOp.handle : SliceOp → Option Desc128
  | .contribute h _ _ _ _ | .release h _ _ _ | .mloop _ h => some h
  | .giveUp _ => none

/-- The place of the MLOOP that holds a tag. -/
def SliceOp.isMloop (tag : Nat) : SliceOp → Bool
  | .mloop t _ => t == tag
  | .contribute _ _ _ _ _ | .release _ _ _ _ | .giveUp _ => false

/-- A request on its way: `no` is its place in the order in which requests were sent to the slice (R228). -/
structure SliceReq where
  src : Source
  core : Nat
  op : SliceOp
  no : Nat := 0
  deriving DecidableEq, Repr

structure Slice where
  lines : Table L2Line
  mts : Nat
  pred : Table (BitVec 2)
  /-- Lines whose exclusive lease a core holds (R281). -/
  leases : Table Nat
  /-- Armed regions by their first line. -/
  regions : Table Region
  keyCtr : BitVec 16
  inq : List SliceReq
  /-- Requests sent so far. -/
  sentNo : Nat
  disBusy : Bool
  disMiss : Bool
  routes : Table Word
  retired : Bool
  deriving DecidableEq, Repr

def Slice.init : Slice :=
  { lines := [], mts := 0, pred := [], leases := [], regions := [], keyCtr := 0, inq := [], sentNo := 0, disBusy := false,
    disMiss := false, routes := [], retired := false }

/-! ### The Gazetteer and the error log (R213, R316, R351, R423) -/

/-- A lane in a Gazetteer entry: where its status goes and its deadline, 0 for none. -/
structure GazLane where
  lane : Nat
  d : BitVec 8
  deadline : DWord
  deriving DecidableEq, Repr

/-- Whose entry it is: a warp's, a launch queue's dependence wait, or a proxy of a peer's entry. -/
inductive GazOwner where
  | warp (who : Who) (task wid : Word) (ctxbase : DWord)
  | queue (q : Nat)
  | proxy (dev entry lanes : Nat)
  deriving DecidableEq, Repr

structure GazEntry where
  die : Nat
  asid : Word
  va : DWord
  pa : Nat
  owner : GazOwner
  lanes : List GazLane
  /-- The number by which a peer's proxy names the entry (R351). -/
  id : Nat := 0
  /-- A remapped interrupt write of this tick has released the entry, with this release time; a WAKEV of the tick still
  finds it (R215). -/
  msi : Option Nat := none
  deriving DecidableEq, Repr

structure ErrLog where
  base : DWord
  ctl : Word
  wva : DWord
  tail : DWord
  head : DWord
  lost : Word
  /-- The last count-word write failed (R424 step 5). -/
  failed : Bool
  deriving DecidableEq, Repr

def ErrLog.init : ErrLog := { base := 0, ctl := 0, wva := 0, tail := 0, head := 0, lost := 0, failed := false }

end Sys2Proof.Machine
end

