-- ==== Sys2Proof/Machine/Device.lean ====
section
/-! DEFINITION. The state of the units of the device: Dispatcher, timers, memory control, Cadastre and fabric,
IOMMU and root ports, Ultra Ethernet, boot, Surveyor and the network. -/

namespace Sys2Proof.Machine

/-! ### Tasks and the Dispatcher (R34–R48, R251, R315–R318) -/

inductive TaskSt where | queued | running | stopping | saved | resuming | done
  deriving DecidableEq, Repr

/-- PLACE of R251. -/
inductive PlaceKind where | any | quadrant | core
  deriving DecidableEq, Repr

/-- Where a warp of a task stands; in a saved task `core` is the rank of its core (R389). -/
structure Seat where
  core : Nat
  slot : Nat
  deriving DecidableEq, Repr

structure Task where
  num : Word
  st : TaskSt
  entry : DWord
  ptroot : DWord
  asid : Word
  nlanes : Nat
  sv : Bool
  pre : Bool
  place : PlaceKind
  prio : Nat
  vgran : Nat
  sgran : Nat
  /-- Stash bytes on each core. -/
  stash : Nat
  /-- The membership words in warp order; none when MEMB = 0. -/
  memb : List Word
  gtab : DWord
  bobase : DWord
  /-- LOCAL and USED of R251. -/
  localBits : BitVec 256
  used : BitVec 256
  cva : DWord
  /-- The launcher's address space, where CVA lies (R253). -/
  cvaAsid : Word
  cvaRoot : DWord
  saveBase : Nat
  arg : DWord
  depva : DWord
  capBase : Nat
  capN : Nat
  /-- The release time that the first issue acquires, later that of the warps that left (R253, R316). -/
  rel : Nat
  /-- Warps not exited, by number. -/
  warps : Table Seat
  /-- Core-local groups of the placement. -/
  localGroups : List Nat
  /-- The cores of the last save by rank (R389). -/
  ranks : List Nat
  deriving DecidableEq, Repr

/-- How a head entry stands with its dependence (R316). -/
inductive DepSt where | unread | waiting | met
  deriving DecidableEq, Repr

/-- An entry of a launch queue. -/
structure QEntry where
  task : Word
  level : Nat
  dep : DepSt
  /-- Since when it is head and eligible, and the tick of its last rise (R49, R317). -/
  since : Option DWord
  /-- Since when it could not be placed (R317). -/
  fail : Option DWord
  rise : DWord
  reserve : Bool
  /-- The tick of the last read of its dependence word. -/
  polled : DWord
  deriving DecidableEq, Repr

/-- What a capability gives a launch by GATE (R259, R260). -/
structure GateCap where
  asid : Word
  ptroot : DWord
  saveBase : Nat
  sv : Bool
  pre : Bool
  deriving DecidableEq, Repr

/-- One lane's launch on its way to the Dispatcher (R252); `first` opens the lanes of one LAUNCH. -/
structure LaunchReq where
  first : Bool
  who : Who
  front : Front
  lane : Nat
  d : Nat
  addr : DWord
  queue : Word
  user : Bool
  asid : Word
  ptroot : DWord
  task : Word
  wid : Word
  rel : Nat
  gate : Option GateCap
  deriving DecidableEq, Repr

structure Disp where
  tasks : Table Task
  /-- Task numbers given so far. -/
  count : Nat
  queues : Table (List QEntry)
  /-- The queue after the last one placed, by level. -/
  rr : Table Nat
  /-- The core after the last that took a warp (R318). -/
  ptr : Nat
  /-- Accepted resumptions in order. -/
  resume : List Word
  reqs : List LaunchReq
  /-- Completion words that wait for a way to their homes, oldest first: the task and the value (R253, R327). -/
  owed : List (Task × Nat)
  deriving DecidableEq, Repr

def Disp.init : Disp := { tasks := [], count := 0, queues := [], rr := [], ptr := 0, resume := [], reqs := [], owed := [] }

/-! ### GATE timers (R260, R345) -/

structure TimerArm where
  deadline : DWord
  asid : Word
  target : DWord
  /-- The tick of the arming. -/
  at_ : DWord
  deriving DecidableEq, Repr

/-- A timer: its generation, and what it was last armed with; `live` until it fires or is cancelled. -/
structure GateTimer where
  gen : Nat
  arm : TimerArm
  live : Bool
  deriving DecidableEq, Repr

def GateTimer.init : GateTimer := { gen := 0, arm := ⟨0, 0, 0, 0⟩, live := false }

/-! ### Memory control (R286–R291, R314, R366, R414–R416, R435) -/

inductive SlotBy where | drift | policy
  deriving DecidableEq, Repr
inductive RowCopy where | none | promote | evict | copyBack
  deriving DecidableEq, Repr

/-- An access to an apron row that waits for a copy: the row, the LCL of the request, and whether it writes (R288). -/
structure RowWait where
  row : Nat
  lcl : Nat
  write : Bool
  deriving DecidableEq, Repr

/-- A crest slot in use: the apron row it serves. -/
structure CrestSlot where
  row : Nat
  dirty : Bool
  by_ : SlotBy
  marked : Bool
  busy : RowCopy
  /-- Copy-backs that failed in a row; a slot with two is held (R414). -/
  fails : Nat
  /-- The tick of the next try of a failed copy-back (R414). -/
  retryAt : DWord
  /-- A promotion of this row waits for the copy-back under way (R289 step 5). -/
  next : Option (Nat × SlotBy)
  /-- DRIFT.D named the row that waits: its slot is marked (R291). -/
  nextMark : Bool := false
  /-- Activation number of the last activation. -/
  act : Nat
  /-- Accesses that wait for the copy in flight (R288). -/
  waits : List RowWait := []
  deriving DecidableEq, Repr

/-- An apron row a bank tracks: the ticks of its last activations, newest first (R290). -/
structure ActTrack where
  row : Nat
  times : List DWord
  deriving DecidableEq, Repr

/-- MIGST (R366). -/
inductive MigSt where | idle | copying | forwarding | done
  deriving DecidableEq, Repr

structure MemCtl where
  lock : Bool
  /-- Stacks that are trained (R362, R364). -/
  trained : BitVec 12
  migOld : DWord
  migNew : DWord
  migPs : Nat
  migSt : MigSt
  slotSt : Nat
  ecthr : Word
  /-- Corrected errors by pseudo-channel and segment, with the tick of the first counted (R416). -/
  eccCount : Table (Nat × DWord)
  /-- On-die ECC counts by stack (R406). -/
  eccStack : Table Word
  slots : Table CrestSlot
  retired : Table Bool
  acts : Table (List ActTrack)
  actNo : Nat
  /-- 1 KiB chunks whose row has had its 4th activation: their promotion is due (R290). -/
  due : List Nat
  /-- The row that stands open in a bank, plus 1; 0 for none. -/
  openRow : Table Nat
  /-- Activations of a bank since its last refresh management (R283). -/
  raa : Table Nat
  hmcmd : Word
  hmst : Nat
  deriving DecidableEq, Repr

def MemCtl.init : MemCtl :=
  { lock := false, trained := 0, migOld := 0, migNew := 0, migPs := 0, migSt := .idle, slotSt := 0, ecthr := 1024,
    eccCount := [], eccStack := [], slots := [], retired := [], acts := [], actNo := 0, due := [], openRow := [], raa := [], hmcmd := 0, hmst := 0 }

/-! ### Cadastre and UALink (R311, R358, R419–R422, R436–R438) -/

inductive ParcelSt where
  | uncached | shared (devs : List Nat) | owned (dev : Nat)
  deriving DecidableEq, Repr

/-- A parcel of this home. -/
structure Parcel where
  st : ParcelSt
  fenced : Option Nat
  deriving DecidableEq, Repr

def Parcel.init : Parcel := { st := .uncached, fenced := none }

/-- How this device holds a peer's parcel. -/
inductive Holding where | none | shared | owned | orphaned
  deriving DecidableEq, Repr

/-- What UALink carries (R311, R351, R358, R422). Data names those of its sectors that are poisoned (R407). -/
inductive PeerMsg where
  /-- A UALink read, and a write with its data. -/
  | read (n : Nat)
  | write (bytes : List Byte) (poison : List Nat)
  /-- Ownership of the parcel is asked for (R311). -/
  | own
  | atomic (op : AtomOp) (n y z : Nat)
  /-- Requests performed at the word's home; a comparison names this device's entry and its lane. -/
  | enq (item : Nat)
  | deq
  | redq (n : Nat) (bytes : List Byte)
  | compare (n y entry : Nat)
  | wakev (asid va count : Nat)
  | drift (minor : Nat)
  /-- Messages of the Cadastre, and its answers. -/
  | recall (inval : Bool)
  | invalidate
  | ack
  | proxyWake (entry : Nat)
  | emptied (entry : Nat)
  /-- A reply: data or a result, or a refusal with the SUB of the requester's uncorrectable data. -/
  | reply (data : List Byte) (poison : List Nat)
  | refused (sub : Nat)
  /-- A join: the request, the home's nonce, the proof, and the home's answer (R422). -/
  | join
  | nonce (bytes : List Byte)
  | proof (used : Bool) (key sig : List Byte)
  | joined (answer : Nat)
  /-- A request of another device that reached a page's old home goes on to the new one (R314). -/
  | forward (dev : Nat)
  /-- A page that migrates: its old address and size, the first time of its lines, its bytes that are not 0, its poison,
  and the proxies that wait on its words, by offset, device and entry (R314, R351, R417). -/
  | page (old n time : Nat) (bytes : Table Byte) (poison : List Nat) (waits : List (Nat × Nat × Nat))
  /-- A timestamp of an exchange: asked with, or the time master's answer (R344). -/
  | time (t : DWord)
  | timeAnswer (t : DWord)
  /-- A claim to a die: its 64 bytes, the sender's public key and the signature (R367). -/
  | claim (die : Nat) (bytes key sig : List Byte)
  /-- A heartbeat to a die: the leader's epoch and %time (R369, R445). -/
  | heartbeat (die epoch : Nat) (t : DWord)
  /-- A delivery record to a die, and the answer that a die of this device gives (R368, R444). -/
  | delivery (die stage : Nat) (digest : BitVec 256)
  | deliveryAnswer (die stage : Nat) (ok : Bool)
  deriving DecidableEq, Repr

/-- A request, which carries a transaction tag (R436). -/
def PeerMsg.isRequest : PeerMsg → Bool
  | .read _ | .write _ _ | .own | .atomic _ _ _ _ | .enq _ | .deq | .redq _ _ | .compare _ _ _ | .wakev _ _ _ | .drift _
  | .join | .proof _ _ _ | .page _ _ _ _ _ _ => true
  | _ => false

/-- A recall or an invalidation that an agent is to answer (R437). -/
def PeerMsg.isRecall : PeerMsg → Bool
  | .recall _ | .invalidate => true
  | _ => false

/-- A delivery record, which follows every write of its image (R368). -/
def PeerMsg.isDelivery : PeerMsg → Bool
  | .delivery _ _ _ => true
  | _ => false

/-- What waits for a port: the device and the address it concerns, its tag and content, since when it waits, and whether
its wait has its record (R436, R437). -/
structure Waiting where
  dev : Nat
  pa : Nat
  tag : Option Nat
  msg : PeerMsg
  since : DWord
  told : Bool
  deriving DecidableEq, Repr

/-- Since when accesses of lanes to a home wait for its port, and whether that wait has its record (R436, R437). -/
structure Asked where
  since : DWord
  told : Bool
  deriving DecidableEq, Repr

structure Fabric where
  cad : Table Parcel
  held : Table Holding
  lost : List Nat
  /-- Homes that refuse this device until it has joined them, and peers' parcels that are fenced at their homes, as far as
  this device has met them (R420, R421). -/
  refusing : List Nat
  fencedAt : List Nat
  /-- The identity keys of the devices that have joined once, and the nonces of joins that run (R422). -/
  known : Table (List Byte)
  nonces : Table (List Byte)
  /-- The answers to each device's last tagged requests, latest first: tag, address, answer (R436). -/
  answers : Table (List (Nat × Nat × PeerMsg))
  peerUsed : Bool
  timeMaster : Bool
  planeMap : DWord
  uirtb : DWord
  uirtn : Word
  scrubPa : DWord
  scrubSt : Nat
  fenceDev : BitVec 11
  joinDev : BitVec 11
  joinSt : Nat
  cadtmo : Word
  /-- UALink ports that carry traffic: none at reset (R362). -/
  portUp : Table Bool
  /-- Requests and messages that wait for a port, oldest first (R436), and the homes that accesses of lanes wait for. -/
  stuck : List Waiting
  asked : Table Asked
  /-- The transaction tag of the next request (R436). -/
  nextTag : Nat
  retries : Table Nat
  /-- What %time lacks of the master's estimate: ticks still to slew, signed (R344). -/
  slew : Int
  /-- Ticks until one may slew again. -/
  slewWait : Nat
  deriving DecidableEq, Repr

def Fabric.init : Fabric :=
  { cad := [], held := [], lost := [], refusing := [], fencedAt := [], known := [], nonces := [], answers := [], peerUsed := false, timeMaster := false,
    planeMap := 0xFEDCBA9876543210, uirtb := 0, uirtn := 0, scrubPa := 0, scrubSt := 0, fenceDev := 0,
    joinDev := 0, joinSt := 0, cadtmo := 0x1000000, portUp := [], stuck := [], asked := [], nextTag := 0, retries := [], slew := 0, slewWait := 0 }

/-! ### IOMMU, root ports, Ultra Ethernet (R352–R361, R439–R442) -/

/-- A translation or remap entry the IOMMU keeps (R356). -/
structure IoKept where
  rid : Nat
  pasid : Nat
  part : Nat
  remap : Bool
  /-- The page and its leaf, or the index and the entry. -/
  key : Nat
  val : Nat
  deriving DecidableEq, Repr

structure Io where
  en : Bool
  iodtb : DWord
  ioptb : DWord
  /-- The high half of IOCMD as last written (R341). -/
  cmdArg : Word
  ioref : Word
  kept : List IoKept
  /-- The tick of the last refusal record of a requester (R439). -/
  recAt : Table DWord
  bifur : BitVec 2
  portUp : Table Bool
  portRate : Table Nat
  /-- Bytes of PCI configuration space written since reset. -/
  cfg : Table Byte
  deriving DecidableEq, Repr

def Io.init : Io :=
  { en := false, iodtb := 0, ioptb := 0, cmdArg := 0, ioref := 0, kept := [], recAt := [], bifur := 0,
    portUp := [], portRate := [], cfg := [] }

/-- A descriptor begun and not completed: its number, the local status of R442 it met, and its bytes as read (R361). -/
structure UeWait where
  i : Nat
  st : Nat
  desc : Option (List Byte)
  deriving DecidableEq, Repr

/-- A queue pair: descriptors announced, begun and completed, and whether it is in error (R361, R442). -/
structure UeQp where
  count : Word
  done : Nat
  compl : Nat
  /-- Descriptors begun and not completed. -/
  pending : List UeWait
  err : Bool
  /-- V = 0 was seen since the error. -/
  cleared : Bool
  deriving DecidableEq, Repr

def UeQp.init : UeQp := { count := 0, done := 0, compl := 0, pending := [], err := false, cleared := false }

structure Ue where
  qctxb : Table DWord
  /-- Ports that carry traffic: none at reset (R362). -/
  portUp : Table Bool
  qps : Table UeQp
  deriving DecidableEq, Repr

/-! ### Boot, identity and election (R362–R369, R443–R446) -/

/-- A stage record of the header (R363), with its image. -/
structure FlashStage where
  load : DWord
  entryOff : Word
  ldr : Bool
  digest : BitVec 256
  image : List Byte
  deriving DecidableEq, Repr

/-- A record of the domain list: a device and the digests of its dies' identity keys (R363). -/
structure DomainRec where
  dev : Nat
  key0 : BitVec 256
  key1 : BitVec 256
  deriving DecidableEq, Repr

structure BootDie where
  meas : BitVec 256
  measExt : BitVec 256
  attNonce : BitVec 256
  attBuf : DWord
  attSt : Bool
  leader : Word
  prog : Nat
  hb : DWord
  hbLast : DWord
  bootst : Word
  halted : Bool
  /-- What the ROM keeps of the header in use: HBPERIOD, the domain list and the stages. -/
  hbPeriod : DWord
  domain : List DomainRec
  stages : List FlashStage
  /-- The tick and epoch of the last claim sent, while it is held; whether this die leads. -/
  claimAt : Option DWord
  claimEpoch : BitVec 12
  leads : Bool
  /-- The tick of the last heartbeat sent; the lapse of the one received last is recorded. -/
  hbSent : DWord
  lapsed : Bool
  /-- By follower: the stage on its way and the times it was refused; followers given up (R444). -/
  sent : Table Nat
  tries : Table Nat
  givenUp : List Nat
  deriving DecidableEq, Repr

def BootDie.init : BootDie :=
  { meas := 0, measExt := 0, attNonce := 0, attBuf := 0, attSt := false, leader := 0, prog := 0, hb := 0, hbLast := 0,
    bootst := 0, halted := false, hbPeriod := 0, domain := [], stages := [], claimAt := none,
    claimEpoch := 0, leads := false, hbSent := 0, lapsed := false, sent := [], tries := [], givenUp := [] }

/-! ### Surveyor (R447–R453) -/

structure Survey where
  en : Bool
  guardBand : BitVec 8
  ra : Bool
  mc : Bool
  planBase : DWord
  planSeq : DWord
  goHigh : Word
  adopted : Word
  planSt : Nat
  slack : Table (BitVec 16)
  /-- The bytes of the latest plan, and of the plan in force; none is the nominal plan. -/
  plan : List Byte
  inForce : List Byte
  /-- SEQ of the plan whose timings a bank applies (R450). -/
  bankPlan : Table Word
  /-- Least timings measured by bank: crest, apron (R447). -/
  timing : Table (Word × Word)
  /-- Data retention measured by bank (R447). -/
  retention : Table Word
  /-- Refreshes seen by bank. -/
  refreshes : Table Nat
  /-- The tick of a sensor's last warning (R453). -/
  warnAt : Table (Option DWord)
  deriving DecidableEq, Repr

def Survey.init : Survey :=
  { en := true, guardBand := 25, ra := false, mc := false, planBase := 0, planSeq := 0, goHigh := 0, adopted := 0,
    planSt := 0, slack := [], plan := [], inForce := [], bankPlan := [], timing := [], retention := [], refreshes := [],
    warnAt := [] }

/-! ### Network (R323–R336, R428–R432) -/

/-- An output port: round-robin pointer, packets left of the quantum, and whether a promotion is due. -/
structure OutPort where
  ptr : Nat
  left : Nat
  promo : Bool
  deriving DecidableEq, Repr

/-- A packet on a wire: as it stood in a channel of the sending router, which keeps it until its last flit is acknowledged
(R428), and as it arrives. -/
structure Flying where
  key : Nat
  sent : Packet
  p : Packet
  deriving DecidableEq, Repr

/-- The first search of an output begins at port 0. -/
def OutPort.init : OutPort := { ptr := 11, left := 0, promo := false }

structure Router where
  pgen : Bool
  awake : Bool
  linkst : BitVec 24
  lerr : Word
  /-- Replays since the last record of 4,096 (R428). -/
  replays : Nat
  stall : BitVec 12
  /-- Packets on the wire of an input port, the first to arrive first. -/
  wire : Table (List Flying)
  /-- Waiting packets by input channel: port × 12 + class × 3 + channel. -/
  inq : Table (List Packet)
  outs : Table OutPort
  deriving DecidableEq, Repr

def Router.init : Router :=
  { pgen := false, awake := true, linkst := 0, lerr := 0, replays := 0, stall := 0, wire := [], inq := [], outs := [] }

/-- A packet that its interface sent and that has no answer yet, or, for an RSP packet, is not delivered; and whether
its route was written since (R432). -/
structure Sent where
  id : Nat
  dst : Nat
  rsp : Bool
  old : Bool
  deriving DecidableEq, Repr

/-- The entry is of packet p. -/
def Sent.isOf (e : Sent) (p : Packet) : Bool := e.id == p.id && e.rsp == (p.cls == .rsp)

/-- A network interface: what it ejected, what came back, and the packets, by number, whose route was written after their
first injection (R431). -/
structure Iface where
  ejected : List Packet
  bounced : List Packet
  rewritten : List Nat
  sent : List Sent
  /-- Packets that it may not inject yet, in their order (R431, R432). -/
  waiting : List Packet
  /-- Next RSP sequence number towards each destination (R432). -/
  rspSeq : Table Nat
  /-- Next RSP sequence number due from each source (R432). -/
  rspNext : Table Nat
  rspHeld : List Packet
  /-- Packets that its router bounced and that it has yet to send back to their sources (R431). -/
  returning : List Packet
  deriving DecidableEq, Repr

def Iface.init : Iface := 
  { ejected := [], bounced := [], rewritten := [], sent := [], waiting := [], rspSeq := [], rspNext := [], rspHeld := [], returning := [] }

/-- A message of MSEND on its way (R249). -/
structure Msg where
  id : Nat
  who : Who
  front : Front
  lane : Nat
  d : Nat
  task : Word
  wid : Word
  route : Word
  ring : Nat
  data : List Byte
  deriving DecidableEq, Repr

/-! ### What the device sends to the outside -/

/-- A packet, message or signal that leaves the device. -/
inductive Emit where
  /-- A memory write, or a read, that leaves a root port (R353). -/
  | tlpWrite (port : Nat) (addr : DWord) (bytes : List Byte)
  | tlpRead (port : Nat) (addr : DWord) (n : Nat)
  /-- FetchAdd, Swap and CAS with their operands (R282). -/
  | tlpAtomic (port : Nat) (addr : DWord) (n : Nat) (op : AtomOp) (y z : Nat)
  /-- A completion to an endpoint: data, refused, or with EP set (R408, R439). -/
  | completion (rid : Nat) (data : List Byte) (poisoned : Bool)
  | unsupported (rid : Nat)
  /-- A request, reply or message to a device concerning a physical address, on a UALink port; a request has its tag (R358,
  R359, R436). -/
  | ualink (port dev pa : Nat) (tag : Option Nat) (m : PeerMsg)
  | fatalNotice (port : Nat)
  /-- Operations of a queue pair at a remote endpoint (R360). -/
  | ueWrite (port endpoint qp : Nat) (va : DWord) (bytes : List Byte)
  | ueRead (port endpoint qp : Nat) (va : DWord) (n : Nat)
  /-- Configuration requests that leave a root port (R340). -/
  | cfgRead (port addr n : Nat)
  | cfgWrite (port addr : Nat) (bytes : List Byte)
  deriving DecidableEq, Repr

end Sys2Proof.Machine
end

