-- ==== Sys2Proof/Machine/State.lean ====
section
/-! DEFINITION. The state of the machine as plain data, its faults and refusals, and the state after reset. -/

namespace Sys2Proof.Machine

/-- The issue under way: which context, front and lanes, at which address, with which bits and length. -/
structure Cur where
  who : Who
  front : Front
  cluster : Mask
  pc : BitVec 63
  words : BitVec 96
  len : Nat
  deriving DecidableEq, Repr

def Cur.init : Cur := { who := ⟨0, .sl⟩, front := .sup, cluster := 1, pc := 0, words := 0, len := 2 }

/-- An entry of the run's schedule: which context issues, or which event comes about (log entry 1). -/
inductive Turn where | issue (w : Who) | event (i : Instr)
  deriving DecidableEq, Repr

structure State where
  cores : Table Core
  slices : Table Slice
  /-- DRAM and boot-ROM bytes by local physical address. -/
  mem : Table Byte
  /-- Bytes of peer memory that this device has written back, by physical address. -/
  peer : Table (Option Byte)
  /-- Poisoned 32-byte sectors by sector number, with the halves covered since (R407, R409). -/
  poison : Table (BitVec 2)
  devnum : Nat
  /-- P of R267 in units of 3 GiB. -/
  pinned : Nat
  /-- HOMEMAP (R435): slices that stand for others. -/
  homemap : Table Nat
  asidtb : DWord
  /-- The fabric floor (R308). -/
  ff : Nat
  /-- The write times that this device knows of peers' lines at their homes, by line (R309, R310). -/
  peerTime : Table Nat
  /-- The greatest time that a lane's write to a device space carried: control space, root ports, peers' devices (R309). -/
  devTime : Nat
  time : DWord
  /-- Gazetteer entries of both dies in order of creation. -/
  gaz : List GazEntry
  elog : ErrLog
  disp : Disp
  /-- Warps of saved tasks as they were saved, by 32,768 × task + warp, and their core-local barriers by
  256 × task + group: what a save area held before any later write to it (R67, R70). -/
  saved : Table SavedWarp
  savedBars : Table BarObj
  /-- Bytes of a warp's save area at its DSTOP, by the key of `saved`: the home's, where they are listed (R70). -/
  areas : Table (Table Byte)
  /-- Bytes that other agents wrote to save areas between DSTOP and the save, by address (R70). -/
  areaWrites : Table Byte
  /-- Engine runs of saved tasks by 64 × (32,768 × task + warp) + tag (R390). -/
  savedRuns : Table Run
  /-- Windows of saved tasks by 256 × task + rank (R389). -/
  savedWins : Table (List Window)
  /-- GATE timers: timer t of die d at 4,096 d + t (R345). -/
  timers : Table GateTimer
  memctl : MemCtl
  fabric : Fabric
  io : Io
  ue : Ue
  boot : Table BootDie
  survey : Survey
  routers : Table Router
  /-- Network interfaces by route-table index: core n is n, slice n is 128 + n (R326). -/
  ifaces : Table Iface
  msgs : List Msg
  /-- Broadcast-bus MCASTs by bus in the order they reach its feeder: core and tag (R338). -/
  buses : Table (List (Nat × Nat))
  /-- What left the device, oldest first. -/
  out : List Emit
  fatal : Bool
  fatalRec : List Byte
  timesetOpen : Bool
  /-- LCL that the requests under way carry; 0 outside an access (R287). -/
  reqLcl : Nat
  /-- The network interface of the unit of the device whose accesses are under way; none outside them. One of them found no
  way (R327, R430). -/
  agent : Option Nat
  cut : Bool
  /-- What units of the device have yet to do, for want of a way: by network interface, in order of arrival (R327, R430). -/
  parked : List (Nat × Instr)
  /-- The draw of the last power-on reset, by which the slices' key counters stand (R226). -/
  bornAt : Nat
  /-- The default schedule made its tick of this round (log entry 1). -/
  ticked : Bool
  cur : Cur
  draw : Nat
  tape : List Turn
  backlog : List Instr
  last : Who
  deriving DecidableEq, Repr

/-- A fault of the model. No meaning raises one: every stop of the machine is a state of it. -/
inductive Fault where
  /-- Raised by nothing. Safe. -/
  | none
  deriving DecidableEq, Repr

/-- A refusal of the model. -/
inductive Refusal where
  /-- Raised by an arm of exec that has no meaning yet. Safe. -/
  | notModelled (mnemonic : String)
  deriving DecidableEq, Repr

abbrev Result := Host.Outcome State Fault Refusal

/-- Local address of the boot ROM (R340, R342). -/
def romBase : Nat := 0x180010200000

/-- Core 0 or 64 right after reset: its supervisor lane runs the boot ROM (R342). -/
def Core.boot : Core :=
  let w := Warp.supInit
  { Core.init with
    sl := { Core.init.sl with
      warp := { w with lanes := [(0, { Lane.absent with st := .runnable, sv := true, pc := 0xC0008100000 })] }
      halt := false, started := true, slstart := 0x180010200000 } }

/-- The machine right after reset (R362, and the reset columns of the register maps). Values that no rule
states are those of log entries 3 to 9. -/
def State.reset : State :=
  { cores := [(0, Core.boot), (64, Core.boot)], slices := [], mem := [], peer := [], poison := [], devnum := 0,
    pinned := 0, homemap := [], asidtb := 0, ff := 0, peerTime := [], devTime := 0, time := 0, gaz := [], elog := .init, disp := .init,
    saved := [], savedBars := [], areas := [], areaWrites := [], savedRuns := [], savedWins := [], timers := [], memctl := .init, fabric := .init, io := .init, ue := { qctxb := [], portUp := [], qps := [] }, boot := [],
    survey := .init, routers := [], ifaces := [], msgs := [], buses := [], out := [], fatal := false, fatalRec := [],
    timesetOpen := true, reqLcl := 0, agent := none, cut := false, parked := [], bornAt := 0, ticked := true, cur := .init, draw := 0, tape := [], backlog := [], last := ⟨127, .slot 255⟩ }

end Sys2Proof.Machine
end

