-- ==== Sys2Proof/Machine/Operands.lean ====
section
/-! DEFINITION. Registers with open writes, and every operand form: source codes, kinds, permutation, guards and
destinations (R50–R54, R100–R107, R112–R114). -/

namespace Sys2Proof.Machine

/-! ### Cells (R112, R113) -/

/-- One of x :: xs, by a free number. -/
def pickFrom (n : Nat) (x : α) (xs : List α) : α := (xs[n % (xs.length + 1)]?).getD x

/-- A read: the settled value, or the value of any open write (R112). -/
def Cell.read (draw k : Nat) (c : Cell α) : α :=
  match c.opens with
  | [] => c.val
  | ws => pickFrom (Config.choice draw k) c.val (ws.map (·.2))

/-- A write by front f, open until f's next switch marker. -/
def Cell.write (f : Front) (x : α) (c : Cell α) : Cell α := { c with opens := c.opens ++ [(f, x)] }

/-- The writes of front f are written: the register holds one of them (R113). -/
def Cell.settle (f : Front) (draw k : Nat) (c : Cell α) : Cell α :=
  match (c.opens.filter fun e => e.1 = f).map (·.2) with
  | [] => c
  | x :: xs => { val := pickFrom (Config.choice draw k) x xs, opens := c.opens.filter fun e => e.1 ≠ f }

/-- Every listed entry changes by g, which may use its key. -/
def updAll [DecidableEq α] (d : α) (g : Nat → α → α) (t : Table α) : Table α :=
  t.foldl (fun acc e => put d acc e.1 (g e.1 (look d t e.1))) t

/-- Settle every register of a store; `base` numbers its choices. -/
def settleTab [DecidableEq α] (d : Cell α) (f : Front) (draw base : Nat) (t : Table (Cell α)) : Table (Cell α) :=
  updAll d (fun k c => c.settle f draw (base + k)) t

/-- Choices of settling are numbered apart from those of reads, and front by front (R113). -/
def settleBase (f : Front) : Nat := 2 ^ 24 + match f with | .user => 0 | .sup => 2 ^ 19

/-! ### Lanes -/

def Lane.settle (f : Front) (draw l : Nat) (x : Lane) : Lane :=
  let b := settleBase f + l * 4096
  { x with
    v := settleTab zeroV f draw b x.v, p := settleTab zeroP f draw (b + 1024) x.p,
    x := settleTab zeroV f draw (b + 1100) x.x, tpc := x.tpc.settle f draw (b + 1200),
    tcause := x.tcause.settle f draw (b + 1201), tword := settleTab zeroV f draw (b + 1210) x.tword,
    top := settleTab zeroV f draw (b + 1220) x.top }

/-- V(i, l) := x, open on front f. -/
def Lane.wV (f : Front) (i : Nat) (x : Word) (y : Lane) : Lane := { y with v := upd zeroV y.v i (Cell.write f x) }

/-- P(i, l) := x; a write to p7 is discarded (R53). -/
def Lane.wP (f : Front) (i : Nat) (x : Bool) (y : Lane) : Lane :=
  if i = 7 then y else { y with p := upd zeroP y.p i (Cell.write f x) }

def Lane.wX (f : Front) (i : Nat) (x : Word) (y : Lane) : Lane := { y with x := upd zeroV y.x i (Cell.write f x) }

/-- n registers from i upward receive the n words of a value, the lowest first (R52). -/
def Lane.wVs (f : Front) (i n : Nat) (x : Nat) (y : Lane) : Lane :=
  (List.range n).foldl (fun y j => y.wV f (i + j) (BitVec.ofNat 32 (x / 2 ^ (32 * j)))) y

/-- A settled value written past every open write: what a unit other than a front writes. -/
def Lane.setV (i : Nat) (x : Word) (y : Lane) : Lane := { y with v := put zeroV y.v i ⟨x, []⟩ }
def Lane.setP (i : Nat) (x : Bool) (y : Lane) : Lane :=
  if i = 7 then y else { y with p := put zeroP y.p i ⟨x, []⟩ }

/-- The address of a lane's next instruction. -/
def Lane.addr (x : Lane) : DWord := x.pc ++ 0#1

/-! ### Warps -/

def Warp.lane (w : Warp) (l : Nat) : Lane := look Lane.absent w.lanes l
def Warp.setLane (w : Warp) (l : Nat) (x : Lane) : Warp := { w with lanes := put Lane.absent w.lanes l x }

/-- Every lane of m changes by f, which reads the lanes as they stood. -/
def Warp.onLanes (m : Mask) (f : Nat → Lane → Lane) (w : Warp) : Warp :=
  (lanesOf m).foldl (fun w' l => w'.setLane l (f l (w.lane l))) w

def Warp.front (w : Warp) : Front → FrontSt
  | .user => w.user | .sup => w.sup

def Warp.setFront (w : Warp) (f : Front) (x : FrontSt) : Warp :=
  match f with | .user => { w with user := x } | .sup => { w with sup := x }

def frontOf (sv : Bool) : Front := if sv then .sup else .user

/-- The runnable lanes of a front (R27). -/
def Warp.frontLanes (w : Warp) (f : Front) : Mask :=
  maskOf ((List.range 32).filter fun l => (w.lane l).st = .runnable ∧ frontOf (w.lane l).sv = f)

/-- The lanes that wait in the fault queue, which hold no outstanding result (R457). -/
def Warp.faulted (w : Warp) : Mask :=
  maskOf ((List.range 32).filter fun l => (w.lane l).st == .waiting && (w.lane l).wait.kind == 7)

/-- Some result of front f is outstanding: a load's of a lane that waits on no fault, or that of a lane that waits for one
(R111, R457). -/
def Warp.outstanding (w : Warp) (f : Front) : Bool :=
  ((w.front f).loads.any fun m => m &&& ~~~w.faulted != 0) ||
    (List.range 32).any fun l => (w.lane l).st == .waiting && frontOf (w.lane l).sv == f && (w.lane l).wait.result

/-- U(i) := x, open on front f. -/
def Warp.wS (f : Front) (i : Nat) (x : Word) (w : Warp) : Warp := { w with s := upd zeroV w.s i (Cell.write f x) }
def Warp.wSs (f : Front) (i n : Nat) (x : Nat) (w : Warp) : Warp :=
  (List.range n).foldl (fun w j => w.wS f (i + j) (BitVec.ofNat 32 (x / 2 ^ (32 * j)))) w

/-- Reserved bits of tile and accumulator descriptors read and stay 0 (R55, R57, R4). -/
def tileMask : Desc128 := 0xF0_FFFFFFFFFFFFFFFF
def accMask : Desc128 := 0xFFFF007F00000000000000007FFFFFFF

def Warp.wT (f : Front) (i : Nat) (x : Desc128) (w : Warp) : Warp :=
  { w with t := upd zeroD w.t i (Cell.write f (x &&& tileMask)) }
def Warp.wA (f : Front) (i : Nat) (x : Desc128) (w : Warp) : Warp :=
  { w with a := upd zeroD w.a i (Cell.write f (x &&& accMask)) }

/-- Flags raised by an instruction, ORed into %fmode when its result is written (R61). -/
def Warp.raise (f : Front) (fl : Flags) (w : Warp) : Warp :=
  if fl = 0 then w else { w with flagsDue := w.flagsDue ++ [(f, fl)] }

def flagBits (fl : Flags) : Word := (fl.setWidth 32) <<< (8 : Nat)

/-- Every result of front f is written. -/
def Warp.settle (f : Front) (draw : Nat) (w : Warp) : Warp :=
  { w with
    lanes := updAll Lane.absent (fun l y => y.settle f draw l) w.lanes
    s := settleTab zeroV f draw (settleBase f + 200000) w.s, t := settleTab zeroD f draw (settleBase f + 200100) w.t,
    a := settleTab zeroD f draw (settleBase f + 200200) w.a,
    fmode := w.flagsDue.foldl (fun m e => if e.1 = f then m ||| flagBits e.2 else m) w.fmode
    flagsDue := w.flagsDue.filter fun e => e.1 ≠ f }

/-- %fmode as a read sees it: flags still due may be in it or not (R61). -/
def Warp.readFmode (draw k : Nat) (w : Warp) : Word :=
  (w.flagsDue.zipIdx).foldl
    (fun m e => if Config.choice draw (k + e.2) % 2 = 1 then m ||| flagBits e.1.2 else m) w.fmode

/-- Tile size 2^TSZ (R32). -/
def Warp.tile (w : Warp) : Nat := 2 ^ (w.tilepart.extractLsb' 0 3).toNat

/-- A lane becomes runnable on its front: its age and the front's spin counter clear (R31). -/
def FrontSt.clearSpin (x : FrontSt) : FrontSt := { x with spin := 0, spinLanes := 0 }

def Warp.joinFront (l : Nat) (x : Lane) (w : Warp) : Warp :=
  let f := frontOf x.sv
  (w.setLane l { x with st := .runnable, wait := .none, age := 0 }).setFront f (w.front f).clearSpin

/-! ### Operand kinds (R101) -/

inductive Kind where | i32 | i64 | i16 | i8 | f64 | f32 | f16 | bf16 | e5m2 | e4m3 | e2m1
  deriving DecidableEq, Repr

def Kind.wide : Kind → Bool
  | .i64 | .f64 => true | _ => false

/-- n copies of an element of w bits. -/
def spread (w n x : Nat) : Nat := (List.range n).foldl (fun acc j => acc + x * 2 ^ (w * j)) 0

def FloatFmt.ofImm (F : FloatFmt) (n : Int) : Nat := (F.round .rne false (decide (n < 0)) n.natAbs 0 false).bits

/-- imm(n, k) of R101. -/
def Kind.imm (k : Kind) (n : Int) : Nat :=
  match k with
  | .i32 => truncI 32 n | .i64 => truncI 64 n
  | .i16 => spread 16 2 (truncI 16 n) | .i8 => spread 8 4 (truncI 8 n)
  | .f64 => FloatFmt.ofImm Machine.fp64 n
  | .f32 => FloatFmt.ofImm Machine.fp32 n | .f16 => spread 16 2 (FloatFmt.ofImm Machine.fp16 n) | .bf16 => spread 16 2 (FloatFmt.ofImm Machine.bf16 n)
  | .e5m2 => spread 8 4 (FloatFmt.ofImm Machine.e5m2 n) | .e4m3 => spread 8 4 (FloatFmt.ofImm Machine.e4m3 n)
  | .e2m1 => spread 4 8 (FloatFmt.ofImm Machine.e2m1 n)

/-- The FP32 number of a literal as FP64 bits, exact (R159). -/
def widenLit (w : Word) : Nat := (Machine.fp64.wr .rne false (Machine.fp32.value w.toNat)).1

/-- The literal: its bits, sign-extended in a 64-bit integer kind, widened in FP64 (R101, R159). -/
def Kind.lit (k : Kind) (w : Word) : Nat :=
  match k with
  | .i64 => (w.signExtend 64).toNat | .f64 => widenLit w | _ => w.toNat

/-- What an instruction reads at its issue. -/
structure RdCx where
  w : Warp
  draw : Nat
  time : DWord
  pc : BitVec 63
  front : Front
  lit : Word
  perm : Perm
  deriving DecidableEq, Repr

/-- One choice number for each read, lane and register of an issue (R112). -/
def choiceNo (pos l code : Nat) : Nat := (pos * 32 + l) * 1024 + code

def RdCx.rV (cx : RdCx) (pos l src i : Nat) : Word :=
  (look zeroV (cx.w.lane src).v i).read cx.draw (choiceNo pos l i)
def RdCx.rS (cx : RdCx) (pos l i : Nat) : Word :=
  (look zeroV cx.w.s i).read cx.draw (choiceNo pos l (256 + i))
/-- P(i, l); p7 reads true (R53). -/
def RdCx.rP (cx : RdCx) (pos l i : Nat) : Bool :=
  if i = 7 then true else (look zeroP (cx.w.lane l).p i).read cx.draw (choiceNo pos l (328 + i))

/-- n consecutive registers as one number, the lowest in the low bits. -/
def joinRegs (r : Nat → Word) : Nat → Nat → Nat
  | _, 0 => 0
  | i, n + 1 => (r i).toNat + 2 ^ 32 * joinRegs r (i + 1) n

/-- The lane whose source b lane l reads (R106, R107); in the supervisor lane one of 1 to 31 was never created (log entry
112). -/
def permLane (t l : Nat) (p : Perm) : Nat :=
  let base := l - l % t
  let m := match p with
    | .none => l
    | .bf1 => l ^^^ 1 | .bf2 => l ^^^ 2 | .bf4 => l ^^^ 4 | .bf8 => l ^^^ 8 | .bf16 => l ^^^ 16
    | .rot8 => l - l % 8 + (l + 1) % 8
    | .rev => base + t - 1 - l % t
    | .first => base
    | .last => base + t - 1
  if m / t = l / t then m else l

/-- fetch(c, l, k) of R104 for operand position pos, vector registers read from lane `src`; `n` registers. -/
def RdCx.fetchN (cx : RdCx) (pos l src : Nat) (c : Src) (k : Kind) (n : Nat) : Nat :=
  match c with
  | .v i => joinRegs (cx.rV pos l src) i.toNat n
  | .s i => joinRegs (cx.rS pos l) i.toNat n
  | .zero | .resv _ => 0
  | .lit => k.lit cx.lit
  | .lane => l
  | .wid => cx.w.wid.toNat
  | .task => cx.w.task.toNat
  | .tilepart => cx.w.tilepart.toNat
  | .time => if k.wide then cx.time.toNat else cx.time.toNat % 2 ^ 32
  | .lpc =>
    let x := 2 * cx.pc.toNat + (if cx.front = .sup then 1 else 0)
    if k.wide then x else x % 2 ^ 32
  | .p i => if cx.rP pos l i.toNat then 1 else 0
  | .imm i => k.imm ((i.toNat : Int) - 64)

def Kind.regs (k : Kind) : Nat := if k.wide then 2 else 1

def RdCx.srcA (cx : RdCx) (l : Nat) (c : Src) (k : Kind) : Nat := cx.fetchN 0 l l c k k.regs
def RdCx.srcB (cx : RdCx) (l : Nat) (c : Src) (k : Kind) : Nat :=
  cx.fetchN 1 l (permLane cx.w.tile l cx.perm) c k k.regs
def RdCx.srcC (cx : RdCx) (l : Nat) (c : Src) (k : Kind) : Nat := cx.fetchN 2 l l c k k.regs

/-- P(PI, l) XOR PN (R103). -/
def RdCx.guard (cx : RdCx) (g : Guard) (l : Nat) : Bool := cx.rP 7 l g.pi.toNat != g.pn

/-- The kind of the integer MOD, and of an operand of the float MOD. -/
def IMod.kind (m : IMod) : Kind :=
  match m.w with | .w32 => .i32 | .w64 => .i64 | .x16 => .i16 | .x8 => .i8
def FMod.kind (m : FMod) : Kind :=
  match m.fmt with | .f32 => .f32 | .f64 => .f64 | .f16 => .f16 | .bf16 => .bf16
def Ty.kind (t : Ty) : Kind := match t with | .s32 | .z32 => .i32 | .s64 | .z64 => .i64
def cvtKind : CvtFmt → Kind
  | .f32 => .f32 | .f64 => .f64 | .f16 => .f16 | .bf16 => .bf16 | .e5m2 => .e5m2 | .e4m3 => .e4m3
  | .e2m1 => .e2m1 | .s8 | .z8 => .i8 | .s16 | .z16 => .i16 | .s32 | .z32 => .i32 | .s64 | .z64 => .i64

/-- Element width and count of a kind (R130). -/
def Kind.elem : Kind → Nat × Nat
  | .i32 | .f32 => (32, 1) | .i64 | .f64 => (64, 1) | .i16 | .f16 | .bf16 => (16, 2)
  | .i8 | .e5m2 | .e4m3 => (8, 4) | .e2m1 => (4, 8)

/-- Element e of width n (R76). -/
def elemOf (n e x : Nat) : Nat := x / 2 ^ (n * e) % 2 ^ n

/-- Apply f to every element of a kind (R130). -/
def mapElems (n count : Nat) (f : Nat → Nat) : Nat :=
  (List.range count).foldl (fun acc e => acc + f e % 2 ^ n * 2 ^ (n * e)) 0

/-- The values that %top0 to %top2 receive of an instruction's sources (R379). -/
structure Tops where
  a : Word
  b : Word
  c : Word
  deriving DecidableEq, Repr

def Tops.zero : Tops := ⟨0, 0, 0⟩

/-- The kinds of the three sources of an instruction; none for a field it does not read as a source code. -/
structure SrcKinds where
  a : Option (Src × Kind) := none
  b : Option (Src × Kind) := none
  c : Option (Src × Kind) := none
  deriving DecidableEq, Repr

def RdCx.tops (cx : RdCx) (k : SrcKinds) (l : Nat) : Tops :=
  { a := match k.a with | some (s, k) => BitVec.ofNat 32 (cx.srcA l s k) | none => 0
    b := match k.b with | some (s, k) => BitVec.ofNat 32 (cx.srcB l s k) | none => 0
    c := match k.c with | some (s, k) => BitVec.ofNat 32 (cx.srcC l s k) | none => 0 }

end Sys2Proof.Machine
end

