-- ==== Sys2Proof/Machine/Mem.lean ====
section
/-! DEFINITION. Physical memory: where an address goes, home slices, L1 copies, logical time, poison, and
address translation (R267–R281, R308–R310, R406–R409, R459). -/

namespace Sys2Proof.Machine

/-- An event of the machine's own that comes about next. -/
def State.push (s : State) (i : Instr) : State := { s with backlog := s.backlog ++ [i] }

/-- Free choices were drawn. -/
def State.drawn (s : State) : State := { s with draw := s.draw + 1 }

def State.setFabric (s : State) (f : Fabric → Fabric) : State := { s with fabric := f s.fabric }

/-! ### Cores and slices of a state -/

def State.core (s : State) (n : Nat) : Core := look Core.init s.cores n
def State.setCore (s : State) (n : Nat) (c : Core) : State := { s with cores := put Core.init s.cores n c }
def State.modCore (s : State) (n : Nat) (f : Core → Core) : State := s.setCore n (f (s.core n))
/-- Every core that is listed changes. -/
def State.onCores (s : State) (f : Core → Core) : State := s.cores.foldl (fun s e => s.modCore e.1 f) s
def State.slice (s : State) (n : Nat) : Slice := look Slice.init s.slices n
def State.setSlice (s : State) (n : Nat) (c : Slice) : State := { s with slices := put Slice.init s.slices n c }
def State.modSlice (s : State) (n : Nat) (f : Slice → Slice) : State := s.setSlice n (f (s.slice n))
def State.onSlices (s : State) (f : Slice → Slice) : State := s.slices.foldl (fun s e => s.modSlice e.1 f) s

def Core.warp (c : Core) : Ctx → Warp
  | .sl => c.sl.warp
  | .slot n => look Warp.empty c.slots n
def Core.setWarp (c : Core) (x : Ctx) (w : Warp) : Core :=
  match x with
  | .sl => { c with sl := { c.sl with warp := w } }
  | .slot n => { c with slots := put Warp.empty c.slots n w }
def State.warpOf (s : State) (w : Who) : Warp := (s.core w.core).warp w.ctx
def State.setWarpOf (s : State) (w : Who) (x : Warp) : State := s.modCore w.core fun c => c.setWarp w.ctx x
def State.modWarpOf (s : State) (w : Who) (f : Warp → Warp) : State := s.setWarpOf w (f (s.warpOf w))

/-- The warp that issues. -/
def State.warp (s : State) : Warp := s.warpOf s.cur.who
def State.modWarp (s : State) (f : Warp → Warp) : State := s.modWarpOf s.cur.who f

def inSl (s : State) : Bool := s.cur.who.ctx == .sl

/-! ### Routes over the on-die network (R12, R127, R128, R323–R326) -/

/-- The router of a unit (core n is n, slice n is 128 + n), and its port there (R12, R323). -/
def unitRouter (u : Nat) : Nat := u % 128 / 2
def unitPort (u : Nat) : Nat := u % 2 + (if u < 128 then 0 else 2)

/-- Steps of a route, the first in the low bits. -/
def turnsOf : List Nat → Nat
  | [] => 0
  | t :: ts => t + 16 * turnsOf ts

/-- The route with every link up (R128): fewest hops, then the smallest steps. -/
def bestRoute (src dst : Nat) : Word :=
  let (q, k) := (unitRouter src / 8, unitRouter src % 8)
  let (q', k') := (unitRouter dst / 8, unitRouter dst % 8)
  let loc (a b : Nat) : List Nat := if a = b then [] else [(b + 8 - a) % 8]
  let ts := if q = q' then loc k k' else loc k q' ++ [8 + q'] ++ loc q k'
  BitVec.ofNat 32 (unitPort dst * 2 ^ 24 + turnsOf ts)

/-- Entry `dst` of the route table of a unit. -/
def State.routeEntry (s : State) (u dst : Nat) : Word :=
  (find (if u < 128 then (s.core u).routes else (s.slice (u - 128)).routes) dst).getD (bestRoute u dst)

def State.router (s : State) (r : Nat) : Router := look Router.init s.routers r
def State.modRouter (s : State) (r : Nat) (f : Router → Router) : State :=
  { s with routers := upd Router.init s.routers r f }
def State.modIface (s : State) (u : Nat) (f : Iface → Iface) : State :=
  { s with ifaces := upd Iface.init s.ifaces u f }

/-- The status of port p in LINKST (R429). -/
def Router.link (x : Router) (p : Nat) : Nat := (x.linkst.extractLsb' (2 * p) 2).toNat
def Router.setLink (x : Router) (p v : Nat) : Router :=
  { x with linkst := (x.linkst &&& ~~~(3#24 <<< (2 * p))) ||| (BitVec.ofNat 24 v <<< (2 * p)) }

/-- Where a step leads from router r: an output port, or none for a misrouted packet (R325). -/
def stepPort (r step port : Nat) : Option Nat :=
  if step = 0 then some port
  else if step < 8 then some (3 + step)
  else if r % 8 = step - 8 ∧ r % 8 ≠ r / 8 then some 11 else none

/-- The router and input port at the far end of output port p of router r. -/
def neighbour (r p : Nat) : Nat × Nat :=
  if p = 11 then (8 * (r % 8) + r / 8, 11)
  else (8 * (r / 8) + (r % 8 + (p - 3)) % 8, 3 + (8 - (p - 3)))

/-- The unit at port p (0–3) of router r. -/
def portUnit (r p : Nat) : Nat := (if p < 2 then 0 else 128) + 2 * r + p % 2

/-- The unit that port p of router r leads to is a slice whose home lines moved away (R431, R435). -/
def State.unitRetired (s : State) (u : Nat) : Bool := decide (128 ≤ u) && (s.slice (u - 128)).retired

/-- How far a message gets: its unit, or why it does not arrive. -/
inductive RouteEnd where | unit (u : Nat) | lost (r : Nat) | misrouted (r : Nat) | waits (r port : Nat)
  deriving DecidableEq, Repr

/-- Follow an itinerary from router r over the links as they stand, six steps at most. -/
def State.follow (s : State) (port : Nat) : Nat → Nat → Nat → RouteEnd
  | 0, r, _ => .lost r
  | fuel + 1, r, turns =>
    match stepPort r (turns % 16) port with
    | none => .misrouted r
    | some out =>
      if out < 4 then (if s.unitRetired (portUnit r out) then .lost r else .unit (portUnit r out))
      else
        match (s.router r).link out with
        | 3 => .lost r
        | 2 => .waits r out
        | _ => s.follow port fuel (neighbour r out).1 (turns / 16)

/-- How far the itinerary in the route table of unit u leads towards unit v (R326). -/
def State.path (s : State) (u v : Nat) : RouteEnd :=
  let e := s.routeEntry u v
  s.follow (e.toNat / 2 ^ 24 % 4) 7 (unitRouter u) (e.toNat % 2 ^ 24)

/-- A request from unit u reaches unit v over the links as they stand, and its reply comes back (R16, R326, R430). -/
def State.reaches (s : State) (u v : Nat) : Bool := s.path u v == .unit v && s.path v u == .unit u

/-- The routers that an itinerary names, from router r on. -/
def routersOn (port : Nat) : Nat → Nat → Nat → List Nat
  | 0, _, _ => []
  | fuel + 1, r, turns =>
    r :: match stepPort r (turns % 16) port with
      | some out => if out < 4 then [] else routersOn port fuel (neighbour r out).1 (turns / 16)
      | none => []

/-- Wake-ahead to the routers of an itinerary from unit u, which wakes its own as well (R336). -/
def State.wakeAhead (s : State) (u : Nat) (route : Word) : State :=
  (routersOn (route.toNat / 2 ^ 24 % 4) 7 (unitRouter u) (route.toNat % 2 ^ 24)).foldl
    (fun s r => s.modRouter r fun x => { x with awake := true }) s

/-- A request of unit u to unit v and its reply wake the routers on their ways (R336). -/
def State.wakeWay (s : State) (u v : Nat) : State :=
  (s.wakeAhead u (s.routeEntry u v)).wakeAhead v (s.routeEntry v u)

/-! ### Where an address goes (R13, R267, R268, R340) -/

/-- What a physical address names; the ranges of another device are laid out alike (R267). -/
inductive Place where | dram | port | control | rom | reserved | peer | peerPort | peerControl | peerReserved
  deriving DecidableEq, Repr

/-- A root-port window, of this device or of another: device memory (R267). -/
def Place.isPort : Place → Bool
  | .port | .peerPort => true | _ => false
/-- A device control space; the boot ROM block is of this device's (R340). -/
def Place.isControl : Place → Bool
  | .control | .rom | .peerControl => true | _ => false
/-- DRAM of this device or of another. -/
def Place.isDram : Place → Bool
  | .dram | .peer => true | _ => false

def devOf (pa : Nat) : Nat := pa / 2 ^ 45 % 2048
def localOf (pa : Nat) : Nat := pa % 2 ^ 45

/-- The pinned window's size P in bytes (R267). -/
def State.pinnedBytes (s : State) : Nat := s.pinned * 3 * 2 ^ 30

def State.place (s : State) (pa : Nat) : Place :=
  let a := localOf pa
  if devOf pa ≠ s.devnum then
    if a < 0x00B400000000 + 24 * 2 ^ 30 then .peer
    else if a < 0x100000000000 then .peerReserved
    else if a < 0x180000000000 then .peerPort
    else if a < 0x180100000000 then .peerControl
    else .peerReserved
  else if a < 0x00B400000000 + s.pinnedBytes then .dram
  else if a < 0x100000000000 then .reserved
  else if a < 0x180000000000 then .port
  else if a < 0x180100000000 then
    (if 0x180010200000 ≤ a ∧ a < 0x180010240000 then .rom else .control)
  else .reserved

/-- Where apron or pinned address a lies (R285, R286): stack, channel, pseudo-channel, bank, row. -/
structure BankRow where
  stack : Nat
  channel : Nat
  pseudo : Nat
  bank : Nat
  row : Nat
  deriving DecidableEq, Repr

def bankRow (a : Nat) : BankRow :=
  let pin := decide (0x00B400000000 ≤ a)
  let c := (if pin then a - 0x00B400000000 else a) / 1024
  let g := c % 768
  let w := c / 768
  { stack := g % 12, channel := g / 12 % 32, pseudo := g / 384, bank := (w % 64) ^^^ (w / 64 % 64),
    row := (if pin then 0 else 1024) + w / 64 }

/-- A bank numbered over the device. -/
def BankRow.bankNo (b : BankRow) : Nat := ((b.stack * 32 + b.channel) * 2 + b.pseudo) * 64 + b.bank

/-- The home slice of a physical line (R279), under HOMEMAP (R435). -/
def State.homeSlice (s : State) (pl : Nat) : Nat :=
  let pa := pl * 128
  let l := localOf pa / 128
  let h := (l % 64) ^^^ (l / 64 % 64) ^^^ (l / 4096 % 64)
  let die := if devOf pa = s.devnum then (if 6 ≤ (bankRow (localOf pa)).stack then 1 else 0) else devOf pa % 2
  let n := 64 * die + h
  look n s.homemap n

/-! ### DRAM bytes, slice lines -/

/-- The canonical form of a store of bytes that read 0 where nothing is listed: addresses strictly rising, no zero
listed. -/
def Memory.wf (t : Table Byte) : Bool := canon 0 t

/-- Bytes of a line under a base address, by offset. -/
def lineAt (t : Table Byte) (base : Nat) : Table Byte :=
  (t.filter fun e => base ≤ e.1 ∧ e.1 < base + 128).map fun e => (e.1 - base, e.2)

/-- Store bytes at consecutive keys. -/
def putBytes (t : Table Byte) (a : Nat) : List Byte → Table Byte
  | [] => t
  | b :: bs => putBytes (put 0 t a b) (a + 1) bs

def getBytes (t : Table Byte) (a n : Nat) : List Byte := (List.range n).map fun i => look 0 t (a + i)

/-- A line of peer memory as its home answers: what this device wrote back, else the peer's own bytes. -/
def State.peerLine (s : State) (base : Nat) : Table Byte :=
  (List.range 128).foldl (fun t i => put 0 t i
    ((look none s.peer (base + i)).getD (Config.peerByte (base + i) s.draw))) []

/-! ### Parcels between devices (R311, R314) -/

/-- Pages under forwarding lead to the new home (R314 step 5). -/
def State.fwd (s : State) (pa : Nat) : Nat :=
  let m := s.memctl
  let old := m.migOld.toNat
  if m.migSt = .forwarding ∧ old ≤ pa ∧ pa < old + 2 ^ (12 + 2 * m.migPs) then m.migNew.toNat + (pa - old) else pa

def State.emit (s : State) (e : Emit) : State := { s with out := s.out ++ [e] }

/-- The UALink port of an address: its plane, on the port that PLANEMAP gives (R359, R436). -/
def State.planePort (s : State) (pa : Nat) : Nat :=
  let p := bitsN pa 14 11
  bitsN s.fabric.planeMap.toNat (4 * p + 3) (4 * p)

/-- A UALink port is up. -/
def State.linkUp (s : State) (p : Nat) : Bool := look false s.fabric.portUp p

/-- A request, reply or message to device dev that concerns address pa (R358, R359); it waits while its port is down
(R436), and a delivery record while something to its device does (R368). -/
def State.sendOn (s : State) (w : Waiting) : State :=
  if s.linkUp (s.planePort w.pa) && !(w.msg.isDelivery && s.fabric.stuck.any fun x => x.dev == w.dev) then s.emit (.ualink (s.planePort w.pa) w.dev w.pa w.tag w.msg)
  else { s with fabric := { s.fabric with stuck := s.fabric.stuck ++ [w] } }

/-- The same from now on; a request takes the next transaction tag (R436). -/
def State.ualink (s : State) (dev pa : Nat) (m : PeerMsg) : State :=
  (if m.isRequest then s.setFabric fun f => { f with nextTag := f.nextTag + 1 } else s).sendOn
    { dev := dev, pa := pa, tag := if m.isRequest then some s.fabric.nextTag else none, msg := m, since := s.time, told := false }

/-- A message to a device that concerns no address of its memory goes by the plane of its first one (log entry 126). -/
def State.tell (s : State) (dev : Nat) (m : PeerMsg) : State := s.ualink dev (dev * 2 ^ 45) m

/-- What waited is sent again, each on the port that its plane has now, under its own tag (R436). -/
def State.unstick (s : State) : State :=
  s.fabric.stuck.foldl State.sendOn { s with fabric := { s.fabric with stuck := [] } }

/-- The same to the home of the address. -/
def State.toHome (s : State) (pa : Nat) (m : PeerMsg) : State := s.ualink (devOf pa) pa m

/-- What this device last read or wrote of a peer's line. -/
def State.notePeer (s : State) (base : Nat) (data : Table Byte) : State :=
  { s with peer := (List.range 128).foldl (fun t i => put none t (base + i) (some (look 0 data i))) s.peer }

/-- What the device knew of a peer's parcel is known no longer. -/
def State.forgetParcel (s : State) (parcel : Nat) : State :=
  { s with peer := s.peer.filter fun e => decide (e.1 / 2048 ≠ parcel) }

/-- Before this device reaches a peer's parcel that it does not hold, other devices may have written it: a free
choice. -/
def State.peerMay (s : State) (parcel : Nat) : State :=
  let wrote := decide (look .none s.fabric.held parcel = .none) && decide (Config.choice s.draw (715000 + parcel) % 2 = 1)
  { s with peer := if wrote then (s.forgetParcel parcel).peer else s.peer, draw := s.draw + 1 }

/-- A device that owned a parcel of this home writes its modified lines back: bytes it alone knows (log entry 13),
which the slices fill no earlier than FF (R310). -/
def State.recallFrom (s : State) (parcel dev : Nat) (inval : Bool) : State :=
  let base := parcel * 2048
  { s.ualink dev base (.recall inval) with
    slices := (List.range 16).foldl (fun t i =>
      upd Slice.init t (s.homeSlice (parcel * 16 + i)) fun x => { x with mts := max x.mts s.ff }) s.slices
    mem := (List.range 2048).foldl (fun t i =>
      put 0 t (localOf (base + i)) (Config.peerByte (base + i) s.draw)) s.mem }

/-- An access of this device's agents to a parcel at its home, or its claim on a peer's parcel (R311). -/
def State.claim (s : State) (pa : Nat) (write : Bool) : State :=
  let parcel := pa / 2048
  let set (s : State) (x : ParcelSt) : State :=
    { s with fabric := { s.fabric with cad := upd Parcel.init s.fabric.cad parcel fun p => { p with st := x } } }
  if devOf pa = s.devnum then
    match (look Parcel.init s.fabric.cad parcel).st with
    | .uncached => s
    | .owned e => set (s.recallFrom parcel e write) (if write then .uncached else .shared [e])
    | .shared ds => if write then set (ds.foldl (fun s d => s.ualink d (parcel * 2048) .invalidate) s) .uncached else s
  else
    let h := look .none s.fabric.held parcel
    let s := s.peerMay parcel
    let s := if write && h != .owned && h != .orphaned then s.toHome pa .own else s
    let h' : Holding := if h = .orphaned then h else if write ∨ h = .owned then .owned else .shared
    { s with fabric := { s.fabric with held := put .none s.fabric.held parcel h', peerUsed := true } }

/-! ### Rows (R283–R290) -/

/-- The crest slot that serves an apron row of a bank. -/
def MemCtl.slotOf (m : MemCtl) (bank row : Nat) : Option (Nat × CrestSlot) :=
  m.slots.find? fun e => e.1 / 1024 == bank && e.2.row == row

/-- The slot of an apron row, or the slot whose copy-back its promotion waits for. -/
def MemCtl.slotFor (m : MemCtl) (bank row : Nat) : Option (Nat × CrestSlot × Bool) :=
  match m.slotOf bank row with
  | some (k, x) => some (k, x, false)
  | none =>
    (m.slots.find? fun e => e.1 / 1024 == bank && (e.2.next.map (·.1)) == some row).map fun e => (e.1, e.2, true)

/-- A bank opens row `phys`: one activation, also towards refresh management (R283). -/
def MemCtl.activate (m : MemCtl) (bank phys : Nat) : MemCtl :=
  { m with actNo := m.actNo + 1, openRow := put 0 m.openRow bank (phys + 1), raa := upd 0 m.raa bank (· + 1) }

/-- The tracker of the repeated-activation policy takes an activation of an apron row by a request with an LCL
(R290). -/
def MemCtl.track (m : MemCtl) (bank row lcl : Nat) (time : DWord) : MemCtl :=
  let ts := look [] m.acts bank
  let old := match ts.find? fun a => a.row == row with | some a => a.times | none => []
  let times := if lcl = 1 then (time :: old).take 4 else []
  { m with acts := put [] m.acts bank ((⟨row, times⟩ :: ts.filter fun a => a.row != row).take 16) }

/-- Four activations of an apron row within 1,024 ns, each with LCL 01 (R290); exactly 1,024 is too far (log entry 119). -/
def MemCtl.hot (m : MemCtl) (bank row : Nat) : Bool :=
  match (look [] m.acts bank).find? fun a => a.row == row with
  | some ⟨_, [t0, _, _, t3]⟩ => decide (t0.toNat - t3.toNat < 1024)
  | _ => false

/-- An access to an apron row of a bank, served by its slot or by the row itself. It waits while a copy of the row is in
flight (R288). An access to the row that stands open activates it again only where it was closed in between. -/
def MemCtl.access (m : MemCtl) (bank row lcl : Nat) (write closed : Bool) (time : DWord) : MemCtl :=
  match m.slotFor bank row with
  | some (k, x, coming) =>
    if coming || x.busy != .none then
      { m with slots := ins m.slots k { x with waits := x.waits ++ [⟨row, lcl, write⟩] } }
    else
      let again := look 0 m.openRow bank != k % 1024 + 1 || closed
      let m := if again then m.activate bank (k % 1024) else m
      { m with slots := ins m.slots k { x with act := if again then m.actNo else x.act, dirty := x.dirty || write } }
  | none =>
    if look 0 m.openRow bank != row + 1 || closed then (m.activate bank row).track bank row lcl time else m

/-- The accesses that waited for a copy are made (R288). -/
def MemCtl.accesses (m : MemCtl) (bank : Nat) (ws : List RowWait) (time : DWord) : MemCtl :=
  ws.foldl (fun m w => m.access bank w.row w.lcl w.write false time) m

/-- A row copy activates the crest row and the apron row once each, and closes the bank (R283). -/
def MemCtl.copyRows (m : MemCtl) (k row : Nat) (time : DWord) : MemCtl :=
  let bank := k / 1024
  let m := ((m.activate bank row).track bank row 0 time).activate bank (k % 1024)
  { m with
    openRow := put 0 m.openRow bank 0
    slots := match find m.slots k with
      | some x => ins m.slots k { x with act := m.actNo }
      | none => m.slots }

/-- What accesses change: the slots, the open rows, the activation counts and the tracker. -/
def MemCtl.rowsOf (m x : MemCtl) : MemCtl :=
  { m with slots := x.slots, actNo := x.actNo, openRow := x.openRow, raa := x.raa, acts := x.acts, due := x.due }

/-- The promotion of a chunk's row is due (R290). -/
def MemCtl.makeDue (m : MemCtl) (chunk : Nat) : MemCtl := { m with due := if m.due.contains chunk then m.due else chunk :: m.due }

/-- A DRAM access at a local address by a request that carries an LCL (R287–R290). Whether the controller closed an
open row before it is free. -/
def State.touchRow (s : State) (pa lcl : Nat) (write : Bool) : State :=
  let b := bankRow (localOf pa)
  let closed := decide (Config.choice s.draw (730000 + b.bankNo) % 2 = 1)
  if localOf pa ≥ 0x00B400000000 then
    { s with
      memctl := s.memctl.rowsOf
        (if look 0 s.memctl.openRow b.bankNo != b.row + 1 || closed then s.memctl.activate b.bankNo b.row else s.memctl)
      draw := s.draw + 1 }
  else
    let m := s.memctl.access b.bankNo b.row lcl write closed s.time
    let fourth := m.hot b.bankNo b.row && m.actNo != s.memctl.actNo
    { s with
      memctl := s.memctl.rowsOf (if fourth then m.makeDue (localOf pa / 1024) else m), draw := s.draw + 1
      backlog := s.backlog ++ (if fourth then [.repeatedActivationPromotion (localOf pa / 1024)] else []) }

/-- The stack of a local address is trained (R362). -/
def State.trainedAt (s : State) (pa : Nat) : Bool := s.memctl.trained.getLsbD (bankRow (localOf pa)).stack

/-- The bytes of a line in DRAM; any, before its stack is trained (log entry 86). -/
def State.dramLine (s : State) (base : Nat) : Table Byte :=
  if s.trainedAt base then lineAt s.mem (localOf base)
  else (List.range 128).foldl (fun t i => put 0 t i (Config.untrainedByte (base + i) s.draw)) []

/-- A request of unit u for line bytes at pa must wait: no route to the home slice, or back, is open (R16, R326, R430, R431),
or it must go on to a peer through a port that is down (R436). -/
def State.wayCut (s : State) (u pa : Nat) (write : Bool) : Bool :=
  let pa := s.fwd pa
  let here := (find (s.slice (s.homeSlice (pa / 128))).lines (pa / 128)).isSome &&
    (!write || look .none s.fabric.held (pa / 2048) == .owned)
  (s.place pa).isDram && !s.reaches u (128 + s.homeSlice (pa / 128)) ||
    decide (devOf pa ≠ s.devnum) && !here && !s.linkUp (s.planePort pa)

/-- A request of the unit of the device that is at work: its routers wake (R336), and where it finds no way, that is noted
(R327, R430). -/
def State.needWay (s : State) (pa : Nat) (write : Bool) : State :=
  match s.agent with
  | none => s
  | some u =>
    let s := s.wakeWay u (128 + s.homeSlice (s.fwd pa / 128))
    if s.wayCut u pa write then { s with cut := true } else s

/-- What the unit of the device with network interface u does, if each of its requests finds its way; else nothing is
done yet (R327, R430). -/
def State.attempt {α : Type} (s : State) (u : Nat) (f : State → α × State) : Option (α × State) :=
  let (x, t) := f { s with agent := some u, cut := false }
  if t.cut then none else some (x, { t with agent := s.agent, cut := s.cut })

/-- Event i, which unit u of the device acts on by f: it waits, behind what the unit has waiting, while a request of the unit finds
no way (R327, R430). -/
def State.asUnit (s : State) (u : Nat) (i : Instr) (f : State → State) : State :=
  let park : State := { s with parked := s.parked ++ [(u, i)] }
  if s.parked.any fun e => e.1 == u then park
  else match s.attempt u fun s => ((), f s) with
    | some (_, t) => t
    | none => { park with draw := s.draw + 1 }

/-- The slice that holds a line fills it from memory when it does not hold it (R309, R310). -/
def State.fillSlice (s : State) (pl : Nat) : State :=
  let s := s.needWay (pl * 128) false
  match find (s.slice (s.homeSlice pl)).lines pl with
  | some _ => s
  | none =>
    let isPeer := decide (devOf (pl * 128) ≠ s.devnum)
    let s := s.claim (pl * 128) false
    let s := if isPeer then s.toHome (pl * 128) (.read 128) else s.touchRow (pl * 128) s.reqLcl false
    let h := s.homeSlice pl
    let sl := s.slice h
    let data := if isPeer then s.peerLine (pl * 128) else s.dramLine (pl * 128)
    let t := if isPeer then max sl.mts s.ff else sl.mts
    let s := if isPeer then s.notePeer (pl * 128) data else s
    s.setSlice h { sl with lines := ins sl.lines pl { data := data, dirty := false, wts := t, rts := t } }

/-- The line as its home slice holds it; empty when it does not. -/
def State.l2 (s : State) (pl : Nat) : L2Line :=
  (find (s.slice (s.homeSlice pl)).lines pl).getD { data := [], dirty := false, wts := 0, rts := 0 }

def State.setL2 (s : State) (pl : Nat) (x : L2Line) : State :=
  s.modSlice (s.homeSlice pl) fun sl => { sl with lines := ins sl.lines pl x }

/-- The sectors of n bytes at a that are poisoned, counted from that of a. -/
def poisonOf (t : Table (BitVec 2)) (a n : Nat) : List Nat :=
  (t.filter fun e => decide (a < 32 * e.1 + 32) && decide (32 * e.1 < a + n)).map fun e => e.1 - a / 32

/-- The bytes of a line written to memory: local DRAM, or the peer's parcel. -/
def State.writeLine (s : State) (pl : Nat) (data : Table Byte) : State :=
  let base := pl * 128
  if devOf base = s.devnum then
    let s := s.touchRow base s.reqLcl true
    { s with mem := if s.trainedAt base then putBytes s.mem (localOf base) (getBytes data 0 128) else s.mem }
  else (s.toHome base (.write (getBytes data 0 128) (poisonOf s.poison base 128))).notePeer base data

/-- Write a dirty line back to memory; it stays held (R265). -/
def State.cleanSlice (s : State) (pl : Nat) : State :=
  match find (s.slice (s.homeSlice pl)).lines pl with
  | some x => if x.dirty then (s.writeLine pl x.data).setL2 pl { x with dirty := false } else s
  | none => s

/-- The slice drops a line without writing it back. -/
def State.dropSlice (s : State) (pl : Nat) : State :=
  s.modSlice (s.homeSlice pl) fun sl => { sl with lines := del sl.lines pl }

/-- Eviction from a slice: write-back, and MTS takes the line's RTS (R309). -/
def State.evictSlice (s : State) (pl : Nat) : State :=
  match find (s.slice (s.homeSlice pl)).lines pl with
  | some x =>
    let s := s.cleanSlice pl
    (s.modSlice (s.homeSlice pl) fun sl => { sl with mts := max sl.mts x.rts }).dropSlice pl
  | none => s

/-! ### Poison (R407–R409) -/

/-- Halves of sector k that a write of n bytes at a covers whole. -/
def halvesCovered (a n k : Nat) : BitVec 2 :=
  let h (j : Nat) : Bool := decide (a ≤ 32 * k + 16 * j) && decide (32 * k + 16 * j + 16 ≤ a + n)
  (if h 0 then 1 else 0) ||| (if h 1 then 2 else 0)

/-- The poison that remains after a write of n bytes at a: a sector whose halves are both covered is clean. -/
def clearPoison (t : Table (BitVec 2)) (a n : Nat) : Table (BitVec 2) :=
  (t.map fun e => (e.1, e.2 ||| halvesCovered a n e.1)).filter fun e => e.2 ≠ 3

/-- A sector touched by n bytes at a is poisoned. -/
def poisonedAt (t : Table (BitVec 2)) (a n : Nat) : Bool :=
  t.any fun e => decide (a < 32 * e.1 + 32) && decide (32 * e.1 < a + n)

/-- Mark sector k poisoned. -/
def markPoison (t : Table (BitVec 2)) (k : Nat) : Table (BitVec 2) := ins t k 0

/-! ### Accesses at the home slice (R309) -/

/-- Read n bytes of one line at the home slice. -/
def State.homeRead (s : State) (pa n : Nat) : List Byte × State :=
  let pa := s.fwd pa
  let s := s.fillSlice (pa / 128)
  (getBytes (s.l2 (pa / 128)).data (pa % 128) n, s)

/-- The new WTS of a line that a request carrying time ct writes. -/
def State.writeTime (s : State) (pl ct : Nat) : Nat :=
  max ct ((s.l2 pl).rts + 1)

/-- The counter of a line in the contention predictor (R281). -/
def predOf (pl : Nat) : Nat := (pl ^^^ (pl / 1024)) % 1024

/-- The counter of a line goes up by 1, to 3 at most. -/
def Slice.raise (x : Slice) (pl : Nat) : Slice :=
  { x with pred := upd 0 x.pred (predOf pl) fun c => if c = 3 then 3 else c + 1 }

/-- A request of core n to the home slice of a line recalls the exclusive lease that another core holds on the line; `counts` for the requests that
move the counter (R281). -/
def State.recallLease (s : State) (n pl : Nat) (counts : Bool := true) : State :=
  let h := s.homeSlice pl
  let s := s.wakeWay n (128 + h)
  match find (s.slice h).leases pl with
  | some m =>
    if m = n then s
    else s.modSlice h fun x => let x := { x with leases := del x.leases pl }; if counts then x.raise pl else x
  | none => s

/-- The line leaves the L1 of a core, and with it the exclusive lease that the core holds on it (R281). -/
def State.dropL1 (s : State) (n pl : Nat) : State :=
  let s := s.modCore n fun c => { c with l1 := del c.l1 pl }
  if find (s.slice (s.homeSlice pl)).leases pl = some n then
    s.modSlice (s.homeSlice pl) fun x => { x with leases := del x.leases pl }
  else s

/-- Bytes of a line by offset, some of them replaced. -/
def putAt (t : Table Byte) (bs : List (Nat × Byte)) : Table Byte := bs.foldl (fun t e => put 0 t e.1 e.2) t

/-- An L1 copy after a store of its core at the home gave the line the time t: current up to t where it was current
before the store, else stale as before beside the bytes stored. -/
def L1Line.stored (y : L1Line) (bs : List (Nat × Byte)) (old t : Nat) : L1Line :=
  let y := { y with data := putAt y.data bs }
  if y.cwts = old then { y with cwts := t, crts := t } else y

/-- The bytes of a task on a core. -/
def Core.run (c : Core) (task : Word) : StashRun := (find c.stashRuns task.toNat).getD ⟨0, 0⟩

/-- phys of R190 for offset r within a window. -/
def Window.place (x : Window) (r : Nat) : Nat :=
  x.soff + (if x.sww = 0 then r else r ^^^ (bitsN r (x.sws + x.sww - 1) x.sws * 16))

/-- The lease of a window entry after the same. -/
def WinEntry.stored (e : WinEntry) (old t : Nat) : WinEntry := if e.cwts = old then { e with cwts := t, crts := t } else e

/-- The copies of line pl that a core holds in window entries, after its store of bytes at the home: their bytes that it
has not written since the fill are those stored (R309). -/
def Core.entriesStored (c : Core) (isLine : Nat → Bool) (bs : List (Nat × Byte)) (old t : Nat) : Core :=
  c.windows.foldl (fun c x => x.entries.foldl (fun c e =>
    if isLine e.2.line then
      { c with
        stash := bs.foldl (fun t b =>
          if look false e.2.dirty b.1 then t else put 0 t ((c.run x.task).base + x.place (128 * e.1 + b.1)) b.2) c.stash
        windows := c.windows.map fun y =>
          if y.task == x.task && y.soff == x.soff then { y with entries := ins y.entries e.1 (e.2.stored old t) } else y }
    else c) c) c

/-- The engine of a queue pair in error sees V = 0 that the line at its home now holds (R442). -/
def State.ueSee (s : State) (pl : Nat) : State :=
  let at_ (k : Nat) : Nat := s.devnum * 2 ^ 45 + ((look 0 s.ue.qctxb (k / 1024)).toNat + 64 * (k % 1024) + 0x1B) % 2 ^ 45
  let sees (e : Nat × UeQp) : Bool := e.2.err && !e.2.cleared && at_ e.1 / 128 == pl && !(look 0 (s.l2 pl).data (at_ e.1 % 128)).getLsbD 7
  { s with ue := { s.ue with qps := s.ue.qps.map fun e => if sees e then (e.1, { e.2 with cleared := true }) else e } }

/-- Write bytes, by offset, of line pl at its home slice, with the time the request carries; the new WTS. -/
def State.lineStore (s : State) (pl ct : Nat) (bs : List (Nat × Byte)) : Nat × State :=
  let s := ((s.needWay (pl * 128) true).claim (pl * 128) true).fillSlice pl
  let x := s.l2 pl
  let t := s.writeTime pl ct
  (t, (s.setL2 pl { data := putAt x.data bs, dirty := true, wts := t, rts := t }).ueSee pl)

/-- A store of core n at the home of a line is acknowledged with the time t: the core's clock takes it, and the copies of the
line that it holds take the bytes (R309). -/
def State.storedBy (s : State) (n pl : Nat) (bs : List (Nat × Byte)) (old t : Nat) : State :=
  s.modCore n fun c =>
    { c.entriesStored (fun line => s.fwd (line * 128) / 128 == pl) bs old t with
      ct := max c.ct t
      l1 := match find c.l1 pl with
        | some y => ins c.l1 pl (y.stored bs old t)
        | none => c.l1 }

/-- The same for core n: its clock, and the copies it holds. -/
def State.coreStore (s : State) (n pl : Nat) (bs : List (Nat × Byte)) (counts : Bool := true) : State :=
  let s := ((s.recallLease n pl counts).claim (pl * 128) true).fillSlice pl
  let old := (s.l2 pl).wts
  let (t, s) := s.lineStore pl (s.core n).ct bs
  s.storedBy n pl bs old t

/-- Bytes at consecutive offsets. -/
def offsets (o : Nat) (bs : List Byte) : List (Nat × Byte) := (bs.zipIdx).map fun e => (o + e.2, e.1)

/-- A store of bytes within one line by core n. -/
def State.homeStore (s : State) (n : Nat) (pa : Nat) (bs : List Byte) (counts : Bool := true) : State :=
  let pa := s.fwd pa
  let s := s.coreStore n (pa / 128) (offsets (pa % 128) bs) counts
  let s := s.modCore n fun c => { c with l1 := match find c.l1 (pa / 128) with
    | some y => ins c.l1 (pa / 128) { y with poison := clearPoison y.poison pa bs.length }
    | none => c.l1 }
  { s with poison := clearPoison s.poison pa bs.length }

/-- The same for an agent of the device that keeps no clock (R294). -/
def State.devStore (s : State) (pa : Nat) (bs : List Byte) : State :=
  let pa := s.fwd pa
  let (_, s) := s.lineStore (pa / 128) 0 (offsets (pa % 128) bs)
  { s with poison := clearPoison s.poison pa bs.length }

/-- The time that a release of an agent without a clock of its own carries: no write that it follows is later (R294,
R309). -/
def State.agentTime (s : State) : Nat :=
  s.slices.foldl (fun m e => e.2.lines.foldl (fun m x => max m x.2.wts) (max m e.2.mts)) 0

/-- Apply f to the parts of n bytes at pa that lie in single lines. -/
def splitLines : Nat → Nat → List Byte → List (Nat × List Byte)
  | 0, _, _ => []
  | _, _, [] => []
  | fuel + 1, pa, bs =>
    let k := 128 - pa % 128
    (pa, bs.take k) :: splitLines fuel (pa + k) (bs.drop k)

def linesOf (pa : Nat) (bs : List Byte) : List (Nat × List Byte) := splitLines (bs.length / 128 + 2) pa bs

def State.devWrite (s : State) (pa : Nat) (bs : List Byte) : State :=
  (linesOf pa bs).foldl (fun s e => s.devStore e.1 e.2) s

/-- Read n bytes at the homes of their lines. -/
def State.devRead (s : State) (pa : Nat) : Nat → List Byte × State
  | 0 => ([], s)
  | n + 1 =>
    let (bs, s) := s.devRead pa n
    let (b, s) := s.homeRead (pa + n) 1
    (bs ++ b, s)

def State.readNat (s : State) (pa n : Nat) : Nat × State :=
  let (bs, s) := s.devRead pa n
  (ofBytes bs, s)

/-! ### A parcel given up, and accesses at a peer's home (R310–R312) -/

/-- This device drops its lines of a peer's parcel, writing the modified ones back, and raises FF. -/
def State.invalidateParcel (s : State) (parcel : Nat) : State :=
  let lines := (List.range 16).map fun i => parcel * 16 + i
  let top := (lines.map fun pl => (s.l2 pl).rts).foldl max 0
  let had := lines.any fun pl => (find (s.slice (s.homeSlice pl)).lines pl).isSome
  let s := lines.foldl (fun s pl => (s.cleanSlice pl).dropSlice pl) s
  { s with
    ff := if had then max s.ff (top + 1) else s.ff
    fabric := { s.fabric with held := put .none s.fabric.held parcel .none } }

/-- Bytes of a peer's memory as its home answers: what this device knows of it, or the peer's own, which it knows from
then on. A parcel that it does not hold may have been written by others (R311). -/
def State.peerBytes (s : State) (pa n : Nat) : List Byte × State :=
  let s := s.peerMay (pa / 2048)
  let bs := (List.range n).map fun i => (look none s.peer (pa + i)).getD (Config.peerByte (pa + i) s.draw)
  (bs, { s with peer := (offsets pa bs).foldl (fun t e => put none t e.1 (some e.2)) s.peer
                fabric := { s.fabric with peerUsed := true } })

/-- The time of what a peer's home returns of a line: its write time as far as this device knows it, and FF (R309,
R310). -/
def State.peerWts (s : State) (pl : Nat) : Nat := max (look 0 s.peerTime pl) s.ff

/-- Bytes of core k written at a peer's home, with the time that the acknowledgement returns: after what the request
carried, every lease that this device gave on the line, and FF; how long after is free (R309, R310). -/
def State.peerPut (s : State) (k pa : Nat) (bs : List Byte) : State :=
  let pl := pa / 128
  let old := look 0 s.peerTime pl
  let t := max (max (s.core k).ct (s.peerWts pl + 1)) ((s.slice (s.homeSlice pl)).mts + 1) + Config.choice s.draw 716000
  let s : State := { s with
    peer := (offsets pa bs).foldl (fun t e => put none t e.1 (some e.2)) s.peer
    peerTime := put 0 s.peerTime pl t, draw := s.draw + 1
    poison := clearPoison s.poison pa bs.length }
  s.storedBy k pl (offsets (pa % 128) bs) old t

/-- Requests of at most 8 bytes, aligned to their size (R277). -/
def smallParts : Nat → Nat → Nat → List (Nat × Nat)
  | 0, _, _ => []
  | _, _, 0 => []
  | fuel + 1, a, n =>
    let k := if a % 8 = 0 ∧ 8 ≤ n then 8 else if a % 4 = 0 ∧ 4 ≤ n then 4 else if a % 2 = 0 ∧ 2 ≤ n then 2 else 1
    (a, k) :: smallParts fuel (a + k) (n - k)

/-- k bytes of memory of type 10 on a peer, read by core n: requests to the home, past the slices (R277). -/
def State.peerRaw (s : State) (n pa k : Nat) : List Byte × State :=
  let s := (s.recallLease n (pa / 128)).evictSlice (pa / 128)
  let (bs, s) := s.peerBytes pa k
  let s := (smallParts 16 pa k).foldl (fun s e => s.toHome e.1 (.read e.2)) s
  (bs, s.modCore n fun c => { c with ct := max c.ct (s.peerWts (pa / 128)) })

/-- The same for bytes written. -/
def State.peerRawPut (s : State) (n pa : Nat) (bs : List Byte) : State :=
  let s := (s.recallLease n (pa / 128)).evictSlice (pa / 128)
  let s := (smallParts 16 pa bs.length).foldl (fun s e => s.toHome e.1 (.write ((bs.drop (e.1 - pa)).take e.2) [])) s
  s.peerPut n pa bs

/-! ### Accesses of a core through its L1 (R275, R277, R309) -/

/-- LEASE (R308). -/
def lease : Nat := 16

/-- A fill or renewal of line pl for core n: the copy as the slice grants it. -/
def State.fillL1 (s : State) (n pl : Nat) : State :=
  let s := (s.recallLease n pl).fillSlice pl
  let x := s.l2 pl
  let e := (s.core n).ct + lease
  let s := s.setL2 pl { x with rts := max x.rts e }
  let bad := s.poison.filter fun e => decide (e.1 / 4 = pl)
  s.modCore n fun c => { c with l1 := ins c.l1 pl { data := x.data, cwts := x.wts, crts := e, poison := bad } }

/-- Whether a core keeps L1 copies of type mt: way 0 to 11 not all stash (R275, R277). -/
def Core.cachesType (c : Core) (mt : Nat) : Bool := mt == 0 && c.waymask != 0xFFF

/-- The L1 copy that serves a load of core n, if one does: it has not lapsed, and the load does not acquire (R309). -/
def State.l1Hit (s : State) (n mt : Nat) (acq : Bool) (pa : Nat) : Option L1Line :=
  if !acq && (s.core n).cachesType mt then (find (s.core n).l1 (pa / 128)).filter fun y => decide ((s.core n).ct ≤ y.crts)
  else none

/-- The parts of n bytes at pa that lie in single lines. -/
def lineParts : Nat → Nat → Nat → List (Nat × Nat)
  | 0, _, _ => []
  | fuel + 1, pa, n =>
    if n = 0 then []
    else
      let k := min n (128 - pa % 128)
      (pa, k) :: lineParts fuel (pa + k) (n - k)

/-- k bytes of one line of DRAM, of a peer or of the boot ROM, read by core n in one request. Type 10 is held nowhere:
the slice gives the line up before and after the request, whose time the core takes. -/
def State.readLine (s : State) (n mt : Nat) (acq : Bool) (pa0 k : Nat) : List Byte × State :=
  let pa := s.fwd pa0
  if s.place pa = .rom then (getBytes s.mem (localOf pa) k, s)
  else
    let pl := pa / 128
    let c := s.core n
    let atSlice (s : State) : List Byte × State :=
      (getBytes (s.l2 pl).data (pa % 128) k, s.modCore n fun c => { c with ct := max c.ct (s.l2 pl).wts })
    if mt = 2 ∧ devOf pa ≠ s.devnum then s.peerRaw n pa k
    else if mt = 2 then
      let (bs, s) := atSlice (((s.recallLease n pl).evictSlice pl).fillSlice pl)
      (bs, s.evictSlice pl)
    else if c.cachesType mt then
      match s.l1Hit n mt acq pa with
      | some y => (getBytes y.data (pa % 128) k, s.modCore n fun c => { c with ct := max c.ct y.cwts })
      | none => atSlice (s.fillL1 n pl)
    else atSlice ((s.recallLease n pl).fillSlice pl)

/-- k bytes of memory read by core n, line by line. -/
def State.readMem (s : State) (n mt : Nat) (acq : Bool) (pa k : Nat) : List Byte × State :=
  (lineParts (k / 128 + 2) pa k).foldl (fun r e =>
    let (bs, s) := r.2.readLine n mt acq e.1 e.2
    (r.1 ++ bs, s)) ([], s)

/-- A store of type 10: a store of the core at the home, which then gives the line up to memory (R277). -/
def State.rawStore (s : State) (n pa : Nat) (bs : List Byte) : State :=
  if devOf pa ≠ s.devnum then s.peerRawPut n pa bs else (s.homeStore n pa bs).evictSlice (pa / 128)

/-- Bytes of memory written by core n; writes to the boot ROM are ignored (R341). -/
def State.writeMem (s : State) (n mt : Nat) (pa0 : Nat) (bs : List Byte) : State :=
  let pa := s.fwd pa0
  if s.place pa = .rom then s
  else (linesOf pa bs).foldl (fun s e => if mt = 2 then s.rawStore n e.1 e.2 else s.homeStore n e.1 e.2) s

/-! ### Translation (R269–R274) -/

/-- The kinds of access; `take` is the slot read of DEQ, which needs what DEQ needs (R273). -/
inductive Acc where | read | write | rmw | take | wake | fetch | icache
  deriving DecidableEq, Repr

/-- Who translates: core n with a root and an ASID, from user state or not. -/
structure XCx where
  core : Nat
  ptroot : DWord
  asid : Word
  user : Bool
  deriving DecidableEq, Repr

/-- Where an address leads: physical address, memory type, latency class, drift bit, level of the leaf. -/
structure Xlat where
  pa : Nat
  mt : Nat
  lcl : Nat
  db : Bool
  level : Nat
  deriving DecidableEq, Repr

/-- A translation fault: the level of R397 and the reason. -/
structure XFault where
  level : Nat
  reason : Nat
  deriving DecidableEq, Repr

def XFault.sub (f : XFault) : Nat := f.level * 16 + f.reason

/-- The walk waits for a way to an entry: no fault, and no reason of R397 (R16, R328, R430, R436). -/
def XFault.wait : XFault := ⟨0, 16⟩
def XFault.waits (f : XFault) : Bool := f.reason == 16

def pteBit (p : DWord) (i : Nat) : Bool := p.getLsbD i
def ptePa (p : DWord) : Nat := bitsN p.toNat 55 12 * 4096
def ptePs (p : DWord) : Nat := bitsN p.toNat 63 60
def pteMt (p : DWord) : Nat := bitsN p.toNat 11 10
def pteSize (p : DWord) : Nat := 2 ^ (12 + 2 * ptePs p)

/-- Page sizes a level may hold (R270). -/
def psOk (level ps : Nat) : Bool :=
  match level with
  | 1 => decide (14 ≤ ps) && decide (ps ≤ 15)
  | 2 => decide (7 ≤ ps) && decide (ps ≤ 13)
  | 3 => decide (ps ≤ 6)
  | _ => false

/-- A malformed entry (R271). -/
def malformed (level : Nat) (p : DWord) : Bool :=
  if pteBit p 1 then
    !psOk level (ptePs p) || decide (ptePa p % pteSize p ≠ 0) || (pteBit p 4 && !pteBit p 3) ||
      pteMt p == 3 || pteBit p 56 || pteBit p 2
  else level == 3 || decide (bitsN p.toNat 15 12 ≠ 0)

/-- The index of an address at a level (R270). -/
def vaIndex (va level : Nat) : Nat := va / 2 ^ (51 - 13 * level) % 8192

/-- A kept entry serves an address of an address space; a leaf with G = 1 serves every space. -/
def tlbHit (e : TlbEntry) (asid : Word) (va : Nat) : Bool :=
  (pteBit e.pte 7 || e.asid == asid) && decide (e.va ≤ va) && decide (va < e.va + e.size)

/-- An entry as the device keeps it: a leaf for its page; a table pointer for what one entry of its level covers, with
V and PA alone (R270, R271, R274). -/
def keptEntry (asid : Word) (va level at_ : Nat) (p : DWord) : TlbEntry :=
  let size := if pteBit p 1 then pteSize p else 2 ^ (51 - 13 * level)
  { asid := asid, va := va - va % size, size := size, pte := if pteBit p 1 then p else p &&& 0x00FFFFFFFFFF0001,
    level := level, at_ := at_ }

/-- Entry y is x with A or D set beside it at most: it takes the place of x (R272). -/
def TlbEntry.under (x y : TlbEntry) : Bool := { x with pte := x.pte ||| (y.pte &&& 0x300) } == y

/-- The core keeps an entry. -/
def State.keep (s : State) (n : Nat) (e : TlbEntry) : State :=
  s.modCore n fun c => { c with tlb := e :: c.tlb.filter fun x => !x.under e }

/-- The first of the outcomes, or any of the others where there are others: a free choice, made anew at every use
(R10). -/
def State.oneOf {α : Type} (s : State) (x : α) (xs : List α) : α × State :=
  match xs with
  | [] => (x, s)
  | xs => (pickFrom (Config.choice s.draw 600000) x xs, { s with draw := s.draw + 1 })

/-! ### Data errors (R397, R408, R417, R419–R421) -/

/-- The page that an address lies in is being copied to its new home: accesses to it queue (R314 step 1). -/
def State.blocked (s : State) (pa : Nat) : Bool :=
  let m := s.memctl
  m.migSt == .copying && decide (m.migOld.toNat ≤ pa) && decide (pa < m.migOld.toNat + 2 ^ (12 + 2 * m.migPs))

/-- The first parcel of n bytes at pa that no access may touch, with its SUB: the home lost, the parcel orphaned, or
fenced, here or at a peer's home. A page that migrates is judged at its new home too (R417). -/
def State.barred (s : State) (pa n : Nat) : Option Nat :=
  let hit (a : Nat) : Option Nat :=
    let lostNew := s.blocked a && s.fabric.lost.contains (devOf s.memctl.migNew.toNat)
    let a := s.fwd a
    let parcel := a / 2048
    if devOf a = s.devnum then
      (if (look Parcel.init s.fabric.cad parcel).fenced.isSome then some 7 else if lostNew then some 6 else none)
    else if look .none s.fabric.held parcel = .orphaned then some 8
    else if s.fabric.lost.contains (devOf a) then some 6
    else if s.fabric.refusing.contains (devOf a) || s.fabric.fencedAt.contains parcel then some 7
    else none
  match hit pa with
  | some k => some k
  | none => if pa / 2048 = (pa + (n - 1)) / 2048 then none else hit (pa + (n - 1))

/-- Before a request to a peer: its home may have declared this device lost, and refuses it until a join (R421); the parcel
may be fenced there, or no longer (R420). Free. While the port is down it waits, from the first try on (R437). -/
def State.peerNews (s : State) (pa : Nat) : State :=
  let pa := s.fwd pa
  let (d, parcel) := (devOf pa, pa / 2048)
  if d = s.devnum ∨ look .none s.fabric.held parcel ≠ .none then s
  else
    let old := (find s.fabric.asked d).getD ⟨s.time, false⟩
    let s : State := { s with fabric := { s.fabric with
      asked := if s.linkUp (s.planePort pa) then del s.fabric.asked d else ins s.fabric.asked d old } }
    let c := Config.choice s.draw 717000 % 4
    let set (on : Bool) (k : Nat) (xs : List Nat) : List Nat := if on then (if xs.contains k then xs else k :: xs) else xs.filter (· ≠ k)
    { s with
      draw := s.draw + 1
      fabric := { s.fabric with
        refusing := if c = 3 then set true d s.fabric.refusing else s.fabric.refusing
        fencedAt := if c = 0 then s.fabric.fencedAt else set (c = 2) parcel s.fabric.fencedAt } }

/-- What a consumer of n bytes at pa meets: the SUB of uncorrectable data, if any. -/
def State.badData (s : State) (pa n : Nat) : Option Nat :=
  match s.barred pa n with
  | some k => some k
  | none =>
    let pa := s.fwd pa
    if poisonedAt s.poison pa n then
      some (if devOf pa ≠ s.devnum then 5
        else if (find (s.slice (s.homeSlice (pa / 128))).lines (pa / 128)).isSome then 2 else 1)
    else none

/-- The entry of a table at a level, as memory holds it now, read by unit u. `from_` is the level of the entry that holds
the table's address (R272). -/
def State.readPte (s : State) (u at_ level from_ : Nat) : Except XFault DWord × State :=
  if !(s.place at_).isDram then (.error ⟨from_, 2⟩, s)
  else if s.wayCut u at_ false then (.error .wait, s.needWay at_ false)
  else if (s.badData at_ 8).isSome then (.error ⟨level, 7⟩, s)
  else
    let (x, s) := (s.wakeWay u (128 + s.homeSlice (s.fwd at_ / 128))).readNat at_ 8
    let p : DWord := BitVec.ofNat 64 x
    (if !pteBit p 0 then .error ⟨level, 1⟩ else if malformed level p then .error ⟨level, 2⟩ else .ok p, s)

/-- Walk from a table at a level, `fuel` levels deep. At each level the entry that memory holds, or a table pointer that
the core kept and that differs, serves: unspecified (R274). -/
def State.walk (s : State) (n u : Nat) (asid : Word) (va table level from_ : Nat) : Nat → Except XFault TlbEntry × State
  | 0 => (.error ⟨3, 2⟩, s)
  | fuel + 1 =>
    let at_ := table + 8 * vaIndex va level
    let (r, s) := s.readPte u at_ level from_
    let now := r.map (keptEntry asid va level at_)
    let differ := (s.core n).tlb.filter fun e => e.level == level && !pteBit e.pte 1 && tlbHit e asid va &&
      match now with
      | .ok x => x.pte != e.pte
      | .error f => !f.waits
    let (x, s) := s.oneOf now (differ.map .ok)
    match x with
    | .error f => (.error f, s)
    | .ok e =>
      let s := s.keep n e
      if pteBit e.pte 1 then (.ok e, s) else s.walk n u asid va (bitsN e.pte.toNat 55 16 * 65536) (level + 1) level fuel

/-- The permissions of R273, with the reason of R397. -/
def permFault (acc : Acc) (user : Bool) (p : DWord) : Option Nat :=
  if user && !pteBit p 6 then some 6
  else match acc with
    | .read => if pteBit p 3 then none else some 3
    | .write => if pteBit p 4 then none else some 4
    | .rmw | .take => if pteBit p 4 then none else if pteBit p 3 then some 4 else some 3
    | .fetch => if pteBit p 5 && pteMt p == 0 then none else some 5
    | _ => none

def Acc.writes : Acc → Bool
  | .write | .rmw => true | _ => false

/-- An access sets A or D in the leaf that serves it (R272). -/
def TlbEntry.needsAD (e : TlbEntry) (acc : Acc) : Bool := !pteBit e.pte 8 || (acc.writes && !pteBit e.pte 9)

/-- Set A, and D on a write, in the replica that served (R272); CINV counts as a write (log entry 97). -/
def State.setAD (s : State) (n : Nat) (e : TlbEntry) (acc : Acc) : State :=
  let need : DWord := (if pteBit e.pte 8 then 0 else 0x100) ||| (if acc.writes && !pteBit e.pte 9 then 0x300 else 0)
  if need = 0 then s
  else
    let (x, s) := s.readNat e.at_ 8
    (s.homeStore n e.at_ (toBytes 8 ((BitVec.ofNat 64 x ||| need).toNat))).keep n { e with pte := e.pte ||| need }

/-- The leaf that serves an access: the walk's, or one that was kept for the page and differs, unspecified (R272,
R274). -/
def State.leafFor (s : State) (cx : XCx) (va : Nat) : Except XFault TlbEntry × State :=
  let old := (s.core cx.core).tlb.filter fun e => pteBit e.pte 1 && tlbHit e cx.asid va
  let (r, s) := s.walk cx.core (s.agent.getD cx.core) cx.asid va (bitsN cx.ptroot.toNat 55 16 * 65536) 0 0 4
  let differ := old.filter fun e => match r with
    | .ok x => !e.under x
    | .error f => !f.waits
  s.oneOf r (differ.map .ok)

/-- A reserved local address names nothing (R268). -/
def State.checkPlace (s : State) (x : Xlat) : Except XFault Xlat :=
  if s.place x.pa = .reserved then .error ⟨x.level, 9⟩ else .ok x

/-- The memory type of a place (R267, R341). -/
def Place.mtOf (p : Place) (mt : Nat) : Nat :=
  match p with
  | .port | .control | .peerPort | .peerControl => 2
  | .rom => 0
  | _ => mt

/-- Translate an access (R269–R274). -/
def State.translate (s : State) (cx : XCx) (acc : Acc) (va : Nat) : Except XFault Xlat × State :=
  if !cx.ptroot.getLsbD 0 then
    if 2 ^ 56 ≤ va then (.error ⟨15, 1⟩, s)
    else
      let mt := (s.place va).mtOf 0
      if acc = .fetch ∧ mt = 2 then (.error ⟨15, 5⟩, s)
      else (s.checkPlace { pa := va, mt := mt, lcl := 1, db := true, level := 15 }, s)
  else
    match s.leafFor cx va with
    | (.error e, s) => (.error e, s)
    | (.ok l, s) =>
      match permFault acc cx.user l.pte with
      | some r => (.error ⟨l.level, r⟩, s)
      | none =>
        let pa := ptePa l.pte + va % pteSize l.pte
        let mt := (s.place pa).mtOf (pteMt l.pte)
        if acc = .fetch ∧ mt = 2 then (.error ⟨l.level, 5⟩, s)
        else match s.checkPlace { pa := pa, mt := mt, lcl := bitsN l.pte.toNat 59 58, db := pteBit l.pte 57, level := l.level } with
          | .error e => (.error e, s)
          | .ok x =>
            if l.needsAD acc && s.wayCut (s.agent.getD cx.core) l.at_ true then (.error .wait, s.needWay l.at_ true) else (.ok x, s.setAD cx.core l acc)

/-- The requests that follow carry an LCL; 0 stands for none (R287). -/
def State.carry (s : State) (lcl : Nat) : State := { s with reqLcl := lcl }

/-- The root that the ASID table names (R459); none where the translation fails. -/
def State.asidRoot (s : State) (asid : Nat) : Option DWord × State :=
  if !s.asidtb.getLsbD 0 then (none, s)
  else
    let at_ := bitsN s.asidtb.toNat 55 19 * 2 ^ 19 + 8 * (asid % 65536)
    if (s.badData (s.devnum * 2 ^ 45 + at_) 8).isSome then (none, s)
    else
    let (x, s) := s.readNat (s.devnum * 2 ^ 45 + at_) 8
    if bitsN x 63 56 ≠ 0 ∨ bitsN x 15 1 ≠ 0 then (none, s) else (some (BitVec.ofNat 64 x), s)

/-- Translate for an agent of the device that names an address space by its ASID (R459). -/
def State.translateAsid (s : State) (asid : Nat) (acc : Acc) (va : Nat) : Option Xlat × State :=
  match s.asidRoot asid with
  | (none, s) => (none, s)
  | (some r, s) =>
    match s.translate { core := 0, ptroot := r, asid := BitVec.ofNat 32 asid, user := false } acc va with
    | (.ok x, s) => (some x, s)
    | (.error _, s) => (none, s)

end Sys2Proof.Machine
end

