-- ==== Sys2Proof/Machine/Gaz.lean ====
section
/-! DEFINITION. Waking lanes and the Gazetteer's entries (R47, R213–R215, R350, R351). -/

namespace Sys2Proof.Machine

/-- Whether the warp a context holds is the one named. -/
def State.holds (s : State) (who : Who) (task wid : Word) : Bool :=
  (s.warpOf who).task == task && (s.warpOf who).wid == wid

/-- A core's clock takes a release time it acquires (R309). -/
def State.acquire (s : State) (n t : Nat) : State := s.modCore n fun c => { c with ct := max c.ct t }

/-- Offsets of the save area (R67). -/
def recOff (l : Nat) : Nat := 0x100 + 64 * l
def vOff (i l : Nat) : Nat := 0x2000 + 128 * i + 4 * l

/-- The local physical address of a save area. -/
def saveAddr (s : State) (ctxbase : DWord) : Nat := s.devnum * 2 ^ 45 + ctxbase.toNat

/-- A waiting lane of a warp becomes runnable `len` bytes further with V(d) := x. -/
def Warp.wakeLane (w : Warp) (l : Nat) (d : BitVec 8) (x : Word) (len : Nat) : Warp :=
  let y := w.lane l
  let y := { y with pc := y.pc + BitVec.ofNat 63 (len / 2) }
  w.joinFront l (y.wV (frontOf y.sv) d.toNat x)

/-- The key of a saved warp. -/
def savedKey (task wid : Word) : Nat := task.toNat * 32768 + wid.toNat % 32768

/-- An update of an image, which takes effect whatever else was written there (R70). -/
def State.imageWrite (s : State) (a : Nat) (bs : List Byte) : State :=
  let s := s.devWrite a bs
  { s with areaWrites := s.areaWrites.filter fun e => !(decide (a ≤ e.1) && decide (e.1 < a + bs.length)) }

/-- In a save area at a, the spin counters at these bits of the word 0x10 clear (R31), and CTS rises to t (R47, R48). -/
def State.imageJoins (s : State) (a : Nat) (ats : List Nat) (t : Nat) : State :=
  let (spin, s) := s.readNat (a + 0x10) 8
  let s := s.imageWrite (a + 0x10) (toBytes 8 (ats.foldl (fun x k => x - x / 2 ^ k % 512 * 2 ^ k) spin))
  let (cts, s) := s.readNat (a + 0x38) 8
  s.imageWrite (a + 0x38) (toBytes 8 (max cts t))

/-- A lane of a saved warp becomes runnable in its image at the instruction `len` bytes further, register d
holding x; its front's spin counter and its age clear (R31), and its core will acquire t (R47, R48). -/
def State.wakeImage (s : State) (task wid : Word) (ctxbase : DWord) (l : Nat) (d : Option (BitVec 8)) (x : Word)
    (len t : Nat) : State :=
  let a := saveAddr s ctxbase
  let (pc, s) := s.readNat (a + recOff l) 8
  let s := s.imageWrite (a + recOff l) (toBytes 8 (pc + len))
  let s := s.imageWrite (a + recOff l + 8) (toBytes 4 1 ++ toBytes 2 0)
  let s := s.imageJoins a [if pc % 2 = 1 then 32 else 16] t
  let s := s.imageWrite (a + recOff l + 52) (toBytes 12 0)
  let s := match d with
    | some d => s.imageWrite (a + vOff d.toNat l) (toBytes 4 x.toNat)
    | none => s
  let wake (w : Warp) : Warp := match d with
    | some d => w.joinFront l ({ w.lane l with pc := (w.lane l).pc + BitVec.ofNat 63 (len / 2) }.setV d.toNat x)
    | none => w.joinFront l { w.lane l with pc := (w.lane l).pc + BitVec.ofNat 63 (len / 2) }
  { s with saved := match find s.saved (savedKey task wid) with
    | some y => ins s.saved (savedKey task wid) { y with w := wake y.w, cts := max y.cts t, acq := max y.acq t }
    | none => s.saved }

/-- Where a warp stands now, if it stands anywhere. -/
def State.seatOf (s : State) (who : Who) (task wid : Word) : Option Who :=
  if (find s.saved (savedKey task wid)).isSome then none
  else if s.holds who task wid then some who
  else
    match find s.disp.tasks task.toNat with
    | some t =>
      match find t.warps wid.toNat with
      | some x => if s.holds ⟨x.core, .slot x.slot⟩ task wid then some ⟨x.core, .slot x.slot⟩ else none
      | none => none
    | none => none

/-- A lane of an entry leaves its wait with a status; t is the release time it acquires. -/
def State.gazWake (s : State) (e : GazEntry) (g : GazLane) (status : Word) (t : Nat) : State :=
  match e.owner with
  | .warp who task wid cb =>
    match s.seatOf who task wid with
    | some who => (s.modWarpOf who fun w => w.wakeLane g.lane g.d status 8).acquire who.core t
    | none => s.wakeImage task wid cb g.lane (some g.d) status 8 t
  | _ => s

/-- Wake one entry: its lanes, a launch queue that polls its dependence, or a peer's entry. -/
def State.wakeEntry (s : State) (e : GazEntry) (status : Word) (t : Nat) : State :=
  match e.owner with
  | .queue q => { s with backlog := s.backlog ++ [.dependencePoll q] }
  | .proxy dev entry _ => s.ualink dev e.pa (.proxyWake entry)
  | _ => e.lanes.foldl (fun s g => s.gazWake e g status t) s

def GazEntry.count (e : GazEntry) : Nat :=
  match e.owner with
  | .proxy _ _ n => n | .queue _ => 0 | .warp _ _ _ _ => e.lanes.length

/-- Whether a wake on key (asid, va), at physical address pa, finds the entry (R211, R351). -/
def GazEntry.matchesKey (e : GazEntry) (asid : Word) (va : DWord) (pa : Nat) : Bool :=
  match e.owner with
  | .proxy _ _ _ => e.pa == pa
  | _ => e.asid == asid && e.va == va

/-- The first n entries that satisfy p, by position in the list; all of them when n = 0. -/
def pickEntries (p : GazEntry → Bool) (n : Nat) (es : List GazEntry) : List GazEntry :=
  let m := es.filter p
  if n = 0 then m else m.take n

/-- Entries leave the Gazetteer; the home of a peer's word hears of an entry that it did not wake itself (R351). -/
def State.gazDrop (s : State) (es : List GazEntry) : State :=
  let tell (s : State) (e : GazEntry) : State := match e.owner with
    | .proxy _ _ _ => s
    | _ => if devOf e.pa = s.devnum then s else s.toHome e.pa (.emptied e.id)
  { es.foldl tell s with gaz := s.gaz.filter fun e => !(es.contains e) }

/-- Wake the oldest n entries on a key, all when n = 0; the number of lanes woken (R214). -/
def State.wakeKey (s : State) (asid : Word) (va : DWord) (pa n : Nat) (status : Word) (t : Nat) : Nat × State :=
  let es := pickEntries (fun e => e.matchesKey asid va pa) n s.gaz
  ((es.map GazEntry.count).sum, (es.foldl (fun s e => s.wakeEntry e status t) s).gazDrop es)

/-- Wakes on a word of a peer go to its home (R351), and this device gives the parcel up (R311). This device's entries have their proxies there among those of others,
so how many of ours the count reaches is free, and so is the number of others' lanes. What a wake over UALink brings is no
earlier than FF (R310). -/
def State.wakePeer (s : State) (asid : Word) (va : DWord) (pa n : Nat) (status : Word) (t : Nat) : Nat × State :=
  let s := s.invalidateParcel (pa / 2048)
  let es := s.gaz.filter fun e => match e.owner with | .proxy _ _ _ => false | _ => e.pa == pa
  let k := if n = 0 then es.length else min n (Config.choice s.draw 800000 % (es.length + 1))
  let es := es.take k
  let s' := es.foldl (fun s e => s.wakeEntry e status (max t s.ff)) (s.toHome pa (.wakev asid.toNat va.toNat n))
  ((es.map GazEntry.count).sum + Config.choice s.draw 801000 % 1024,
    { s' with gaz := s'.gaz.filter fun e => !(es.contains e), draw := s'.draw + 1 })

/-- A WAKEV on a key, at the home of its word. -/
def State.wakeAt (s : State) (asid : Word) (va : DWord) (pa n t : Nat) : Nat × State :=
  if devOf pa = s.devnum then s.wakeKey asid va pa n 0 t else s.wakePeer asid va pa n 0 t

/-- A remapped interrupt write releases the oldest n entries on a key, all when n = 0: they resume at the end of the tick,
unless a WAKEV of the tick wakes them (R215, R357). Those of a peer's word are reached at its home (R351). -/
def State.msiWake (s : State) (asid : Word) (va : DWord) (pa n t : Nat) : State :=
  if devOf pa ≠ s.devnum then (s.wakePeer asid va pa n 3 t).2
  else
    let es := pickEntries (fun e => e.msi.isNone && e.matchesKey asid va pa) n s.gaz
    { s with gaz := s.gaz.map fun e => if es.contains e then { e with msi := some t } else e }

/-- The entries that interrupt writes of the tick released resume with status 3. -/
def State.msiRelease (s : State) : State :=
  let es := s.gaz.filter fun e => e.msi.isSome
  (es.foldl (fun s e => s.wakeEntry e 3 (e.msi.getD 0)) s).gazDrop es

/-- The lanes of an entry whose deadline has fallen leave it with status 2 (R350): at the end of the tick in which it
falls, and `late` of an earlier tick. -/
def State.expireEntry (s : State) (late : Bool) (e : GazEntry) : State :=
  let due (g : GazLane) : Bool := g.deadline != 0 && (if late then decide (g.deadline < s.time) else decide (g.deadline ≤ s.time))
  let rest := e.lanes.filter fun g => !due g
  let s := (e.lanes.filter due).foldl (fun s g => s.gazWake e g 2 0) s
  if rest = [] ∧ e.lanes ≠ [] then s.gazDrop [e]
  else { s with gaz := s.gaz.map fun x => if x = e then { e with lanes := rest } else x }

/-- Every deadline that has fallen by the end of a tick. -/
def State.expireWaits (s : State) : State := s.gaz.foldl (fun s e => s.expireEntry false e) s

/-- The die whose Gazetteer holds the entry of a word (R213). -/
def State.gazDie (s : State) (pa core : Nat) : Nat :=
  if devOf pa = s.devnum then (if 6 ≤ (bankRow (localOf pa)).stack then 1 else 0) else core / 64

def gazCapacity : Nat := 32768

def State.gazFree (s : State) (die : Nat) : Bool :=
  decide ((s.gaz.filter fun e => e.die == die).length < gazCapacity)

end Sys2Proof.Machine
end

