-- ==== Sys2Proof/Machine/Log.lean ====
section
/-! DEFINITION. The error registers of a core and the device error log (R394, R395, R423–R426). -/

namespace Sys2Proof.Machine

/-- Severities (R394). -/
inductive Sev where | corrected | contained | degraded | fatal
  deriving DecidableEq, Repr

def Sev.code : Sev → Nat
  | .corrected => 0 | .contained => 1 | .degraded => 2 | .fatal => 3

/-- What a record of R425 says beside its SEQ and TIME. -/
structure Record where
  sev : Sev
  src : Nat
  cause : Nat
  sub : Nat
  unit : Nat
  addr : DWord := 0
  task : Word := 0
  detail0 : Word := 0
  detail1 : DWord := 0
  deriving DecidableEq, Repr

def Record.bytes (r : Record) (seq time : DWord) : List Byte :=
  toBytes 8 seq.toNat ++ toBytes 8 time.toNat ++
  toBytes 4 (r.sev.code + 16 * r.src + 256 * r.cause + 65536 * r.sub) ++ toBytes 4 r.unit ++
  toBytes 8 r.addr.toNat ++ toBytes 4 r.task.toNat ++ toBytes 4 r.detail0.toNat ++
  toBytes 8 r.detail1.toNat ++ toBytes 16 0

def ErrLog.en (e : ErrLog) : Bool := e.ctl.getLsbD 31
def ErrLog.core (e : ErrLog) : Nat := bitsN e.ctl.toNat 26 20
def ErrLog.size (e : ErrLog) : Nat := 2 ^ (bitsN e.ctl.toNat 19 16 + 6)
def ErrLog.asid (e : ErrLog) : Nat := bitsN e.ctl.toNat 15 0

/-- A saturating increment of a 32-bit count. -/
def satInc (x : Word) : Word := if x = BitVec.allOnes 32 then x else x + 1

/-- Steps 1 to 4 of an append (R424). -/
def State.appendRaw (s : State) (r : Record) (core : Option Nat) : State :=
  let e := s.elog
  let full := !e.en || decide ((e.tail - e.head).toNat = e.size)
  let s :=
    if full then { s with elog := { e with lost := satInc e.lost } }
    else
      let at_ := s.devnum * 2 ^ 45 + bitsN e.base.toNat 55 12 * 4096 + 64 * (e.tail.toNat % e.size)
      let s := s.devWrite at_ (r.bytes e.tail s.time)
      { s with elog := { s.elog with tail := e.tail + 1 } }
  s.modCore (core.getD e.core) fun c => { c with ipendEdge := c.ipendEdge ||| 8 }

/-- Write a count word through the ASID table with release time t or later, and wake its key; false where it cannot be
written. -/
def State.countWord (s : State) (asid : Nat) (va : DWord) (n t : Nat) : Bool × State :=
  match s.translateAsid asid .write va.toNat with
  | (some x, s) =>
    let pa := s.fwd x.pa - s.fwd x.pa % 4
    if (s.barred pa 4).isSome ∨ (s.place pa).isControl ∨ (s.place pa).isPort then (false, s)
    else
      let (t, s) := s.lineStore (pa / 128) (max t s.agentTime) (offsets (pa % 128) (toBytes 4 n))
      let s : State := { s with poison := clearPoison s.poison pa 4 }
      (true, (s.wakeAt (BitVec.ofNat 32 asid) va pa 0 t).2)
  | (none, s) => (false, s)

/-- Append a record to the device error log (R424). -/
def State.append (s : State) (r : Record) (core : Option Nat := none) : State :=
  let s := s.appendRaw r core
  let e := s.elog
  if e.en then
    match s.countWord e.asid e.wva (e.tail.toNat % 2 ^ 32) 0 with
    | (true, s) => { s with elog := { s.elog with failed := false } }
    | (false, s) =>
      if e.failed then s
      else
        let s := { s with elog := { s.elog with failed := true } }
        s.appendRaw { sev := .contained, src := 11, cause := 0x2E, sub := 5, unit := 0 } none
  else s

/-- An error of a core as R394 records it. -/
structure CoreErr where
  cause : Nat
  sub : Nat
  sev : Sev
  unit : Nat
  lane : Nat
  wid : Word
  task : Word
  addr : DWord
  deriving DecidableEq, Repr

def CoreErr.estat (e : CoreErr) (ovr : Bool) : DWord :=
  BitVec.ofNat 64 (2 ^ 63 + (if ovr then 2 ^ 62 else 0) + e.sev.code * 2 ^ 60 + e.unit % 16 * 2 ^ 56 +
    e.cause % 256 * 2 ^ 48 + e.sub % 256 * 2 ^ 40 + e.lane % 32 * 2 ^ 32 + e.wid.toNat % 65536 * 2 ^ 16)

/-- ESTAT, EADDR, ETASK and ECNT take an error (R395). -/
def Core.recordErr (e : CoreErr) (c : Core) : Core :=
  let held := c.estat.getLsbD 63
  let worse := decide (bitsN c.estat.toNat 61 60 < e.sev.code)
  let load := !held || worse
  let serious := e.sev != .corrected
  let hi := c.ecnt.extractLsb' 32 32
  let lo := c.ecnt.extractLsb' 0 32
  { c with
    estat := if load then e.estat (held || c.estat.getLsbD 62) else c.estat ||| 0x4000000000000000
    eaddr := if load then e.addr else c.eaddr
    etask := if load then e.task else c.etask
    ecnt := (if serious then satInc hi else hi) ++ (if serious then lo else satInc lo) }

/-- Record an error of core n (R395, R426). -/
def State.recordErr (s : State) (n : Nat) (e : CoreErr) : State :=
  (s.modCore n (Core.recordErr e)).append
    { sev := e.sev, src := 0, cause := e.cause, sub := e.sub, unit := n, addr := e.addr, task := e.task,
      detail0 := BitVec.ofNat 32 (e.wid.toNat % 65536 * 65536 + e.lane % 32) } (some n)

/-- The one write of the fault count word for the entries of an issue, which found it at `before` (R400, R455). -/
def State.fqFlush (s : State) (n : Nat) (before : Word) : State :=
  let c := s.core n
  if c.fqCount = before then s
  else
    match s.countWord (bitsN c.fqctl.toNat 15 0) c.fqwva c.fqCount.toNat c.ct with
    | (true, s) => s
    | (false, s) => s.recordErr n
        { cause := 0x2E, sub := 2, sev := .contained, unit := 4, lane := 0, wid := 0, task := 0, addr := c.fqwva }

end Sys2Proof.Machine
end

