-- ==== Sys2Proof/Machine/Ops.lean ====
section
/-! DEFINITION. The shared operations of issue: taking a trap (R375–R381), returning from one (R262), taking an
interrupt (R343), the switch marker (R110), the bookkeeping of fronts (R28, R31), and the frame every
instruction runs in (R103, R120, R375). -/

namespace Sys2Proof.Machine

/-- The read context of the issue under way. -/
def State.rdCx (s : State) (lit : Word) (perm : Perm) : RdCx :=
  { w := s.warp, draw := s.draw, time := s.time, pc := s.cur.pc, front := s.cur.front, lit := lit, perm := perm }

/-! ### Traps -/

structure Trap where
  cause : Nat
  sub : Nat
  deriving DecidableEq, Repr

/-- Words 0 to 2 of the instruction (R377). -/
def curWord (s : State) (i : Nat) : Word := s.cur.words.extractLsb' (32 * i) 32

def settled (x : α) : Cell α := ⟨x, []⟩

/-- The trap registers of a lane (R377). -/
def Lane.trapRegs (s : State) (t : Trap) (k : Tops) (y : Lane) : Lane :=
  { y with
    tpc := settled (s.cur.pc ++ 0#1)
    tcause := settled (BitVec.ofNat 32 (t.sub % 256 * 256 + t.cause % 256))
    tword := put zeroV (put zeroV (put zeroV y.tword 0 (settled (curWord s 0))) 1 (settled (curWord s 1))) 2
      (settled (curWord s 2))
    top := put zeroV (put zeroV (put zeroV y.top 0 (settled k.a)) 1 (settled k.b)) 2 (settled k.c) }

/-- Entry of a user-state lane into the handler (R377, R378): the trap registers set, the lane moved to the supervisor
front at the vector. That front is held until the lane's results are written; a lane of the fault queue has none
outstanding (R457). -/
def Warp.enterHandler (s : State) (tvec : DWord) (t : Trap) (k : Tops) (l : Nat) (w : Warp) : Warp :=
  let due := (w.lane l).st == .runnable
  let w := w.joinFront l { (w.lane l).trapRegs s t k with pc := tvec.extractLsb' 1 63, sv := true }
  { w with user := w.user.clearSpin, sup := { w.sup with entry := if due then w.sup.entry ||| laneBit l else w.sup.entry } }

/-- Before the supervisor front issues, every result of the user front in the lanes that entered a handler is written
(R378). -/
def Warp.settleEntry (draw : Nat) (w : Warp) : Warp :=
  { w.onLanes w.sup.entry (fun l y => y.settle .user draw l) with sup := { w.sup with entry := 0 } }

/-- A lane that enters no handler is stopped where it stands (R380). -/
def Warp.stopLane (s : State) (t : Trap) (k : Tops) (l : Nat) (w : Warp) : Warp :=
  let y := (w.lane l).trapRegs s t k
  w.setLane l { y with st := .waiting, wait := .stopped }

/-- Entry of the supervisor lane through SLVEC with IH = 0, or its halt with IH = 1 (R343, R381). The handler issues
once every outstanding result of the lane is written. -/
def State.trapSl (s : State) (n : Nat) (t : Trap) (k : Tops) : State :=
  let c := s.core n
  if c.sl.ih then
    let s := s.setCore n { c with sl := { c.sl with halt := true, exitHalt := false } }
    s.recordErr n
      { cause := 0x24, sub := t.cause, sev := .contained, unit := 5, lane := 0, wid := 0xFFFF, task := 0,
        addr := s.cur.pc ++ 0#1 }
  else
    let y := ((c.sl.warp.lane 0).settle .sup s.draw 0).trapRegs s t k
    let w := c.sl.warp.setLane 0 { y with pc := c.sl.slvec.extractLsb' 1 63 }
    let w := w.setFront .sup { w.sup with parked := w.outstanding .sup }
    s.setCore n { c with sl := { c.sl with warp := w, ih := true, halt := false, exitHalt := false } }

/-- Lane l of the issuing context takes trap t (R376–R381). -/
def State.trapLane (s : State) (t : Trap) (k : Tops) (l : Nat) : State :=
  let who := s.cur.who
  match who.ctx with
  | .sl => s.trapSl who.core t k
  | .slot _ =>
    let c := s.core who.core
    if s.cur.front = .user ∧ c.tvec.getLsbD 0 then s.modWarp (Warp.enterHandler s c.tvec t k l)
    else
      let w := s.warp
      let s := s.modWarp (Warp.stopLane s t k l)
      s.recordErr who.core
        { cause := 0x20, sub := t.cause, sev := .contained, unit := 0, lane := l, wid := w.wid, task := w.task,
          addr := s.cur.pc ++ 0#1 }

/-- Every lane of m takes its trap, in ascending order. -/
def State.trapMask (s : State) (m : Mask) (t : Nat → Trap) (k : Nat → Tops) : State :=
  (lanesOf m).foldl (fun s l => s.trapLane (t l) (k l) l) s

/-- TRET in one lane (R262): PC from %tpc, user state, the user front. -/
def Warp.tretLane (draw l : Nat) (w : Warp) : Warp :=
  let y := w.lane l
  let pc := (y.tpc.read draw (choiceNo 6 l 0x50)).extractLsb' 1 63
  w.joinFront l { y with pc := pc, sv := false }

/-- TRET in the supervisor lane: PC the same way, SV stays 1, and IH := 0 (R262, R343). -/
def State.tretSl (s : State) (n : Nat) : State :=
  let c := s.core n
  let y := c.sl.warp.lane 0
  let pc := (y.tpc.read s.draw (choiceNo 6 0 0x50)).extractLsb' 1 63
  s.setCore n { c with sl := { c.sl with warp := c.sl.warp.setLane 0 { y with pc := pc }, ih := false } }

/-! ### Interrupts of the supervisor lane (R64, R343) -/

/-- %ipend: the edge bits held, and the level bits TIMER, SQNE and FQNE as they stand (R64). -/
def State.ipend (s : State) (n : Nat) : Word :=
  let c := s.core n
  c.ipendEdge ||| (if c.timecmp ≤ s.time then 1 else 0) ||| (if c.sq.isEmpty then 0 else 2) |||
    (if c.fq.any fun e => !e.2.taken then 4 else 0)

/-- The lowest bit number of a word. -/
def lowBit (x : Word) : Nat := ((List.range 32).filter fun i => x.getLsbD i).headD 0

/-- An interrupt is admitted and the supervisor lane stands at an issue boundary: it runs, or EXIT halted it; it waits
for nothing and its front holds no instruction (R343). -/
def State.interruptAdmitted (s : State) (n : Nat) : Bool :=
  let c := s.core n
  !c.sl.ih && c.sl.started && (s.ipend n &&& c.imask) != 0 && (!c.sl.halt || c.sl.exitHalt) &&
    (c.sl.warp.lane 0).st == .runnable && c.sl.warp.sup.hold == .none

/-- The interrupt is taken now: every outstanding result of the lane has been written. -/
def State.interruptDue (s : State) (n : Nat) : Bool :=
  s.interruptAdmitted n && !(s.core n).sl.warp.outstanding .sup

/-- Interrupt entry of core n (R343), taken when its conditions hold. -/
def State.interrupt (s : State) (n : Nat) : State :=
  let c := s.core n
  let adm := s.ipend n &&& c.imask
  if !s.interruptDue n then s
  else
    let w := c.sl.warp.settle .sup s.draw
    let y := w.lane 0
    let y := { y with
      tpc := settled y.addr, tcause := settled (BitVec.ofNat 32 (lowBit adm * 256 + 0x40)),
      pc := c.sl.slvec.extractLsb' 1 63, st := .runnable, wait := .none }
    let w := (w.setLane 0 y).setFront .sup { w.sup with parked := false }
    s.setCore n { c with sl := { c.sl with warp := w, ih := true, halt := false, exitHalt := false } }

/-! ### Advance, marker and bookkeeping -/

/-- The lane goes past the instruction. -/
def Lane.advance (len : Nat) (y : Lane) : Lane := { y with pc := y.pc + BitVec.ofNat 63 (len / 2) }

def Warp.advance (m : Mask) (len : Nat) (w : Warp) : Warp := w.onLanes m fun _ y => y.advance len

/-- A switch marker on front f: the front parks while results are outstanding, and goes on at once when none is
(R110). -/
def Warp.marker (f : Front) (draw : Nat) (w : Warp) : Warp :=
  if w.outstanding f then w.setFront f { w.front f with parked := true } else w.settle f draw

/-- The end of a marker whose results are all written (R110). -/
def Warp.unpark (f : Front) (draw : Nat) (w : Warp) : Warp :=
  if (w.front f).parked && !w.outstanding f then (w.settle f draw).setFront f { w.front f with parked := false } else w

/-- A result of front f in the lanes m returns: it may end a marker's wait (R110). -/
def Warp.resultReturn (f : Front) (m : Mask) (draw : Nat) (w : Warp) : Warp :=
  (w.setFront f { w.front f with loads := (w.front f).loads.erase m }).unpark f draw

/-- A result of the issue in the lanes m is outstanding (R111). -/
def State.owes (s : State) (m : Mask) : State :=
  s.modWarp fun w => w.setFront s.cur.front { w.front s.cur.front with loads := (w.front s.cur.front).loads ++ [m] }

/-- Every lane of the warp is exited or absent. -/
def Warp.dead (w : Warp) : Bool := w.lanes.all fun e => e.2.st == .exited || e.2.st == .absent

/-- No result of either front is outstanding (R46, R148). -/
def Warp.drained (w : Warp) : Bool := w.user.loads.isEmpty && w.sup.loads.isEmpty

/-- A result of front f of context w in the lanes m is written; the slot of a warp without lanes may then be free
(R36, R148). -/
def State.resultBack (s : State) (w : Who) (f : Front) (m : Mask) : State :=
  let s := s.modWarpOf w fun x => x.resultReturn f m s.draw
  let s : State := { s with draw := s.draw + 1 }
  match w.ctx with
  | .slot k => if (s.warpOf w).dead && (s.warpOf w).drained then s.push (.warpSlotFree w.core k) else s
  | .sl => s

/-- A taken backward branch at the issue address by the lanes of m (R31, R144). -/
def FrontSt.countSpin (pc : BitVec 63) (m : Mask) (x : FrontSt) : FrontSt :=
  if x.spinAddr = pc ∧ x.spinLanes = m ∧ x.spin ≠ 0 then { x with spin := x.spin + 1 }
  else { x with spin := 1, spinAddr := pc, spinLanes := m }

/-- Front f after lanes left it outside an issue: its spin counter clears, and the choice of a front starts anew where none
is left (R28, R31). -/
def Warp.left (f : Front) (w : Warp) : Warp :=
  let w := w.setFront f (w.front f).clearSpin
  if w.frontLanes f = 0 then { w with last := none } else w

/-- Fronts after an issue of front f by the lanes of m (R28, R31): the toggle, the spin counter. -/
def Warp.bookkeep (f : Front) (m : Mask) (w : Warp) : Warp :=
  let moved := decide (m &&& ~~~(w.front f).spinLanes ≠ 0) ||
    (lanesOf m).any fun l => (w.lane l).st != .runnable || frontOf (w.lane l).sv != f
  let w := if moved then w.setFront f (w.front f).clearSpin else w
  let w : Warp := { w with last := some f }
  if w.frontLanes f = 0 then { w with last := none } else w

/-- The end of every issue: the lanes of adv go past the instruction; the fronts' books are kept; a marker parks the
front; the draw counter moves. -/
def finish (sw : Bool) (adv : Mask) (s : State) : State :=
  let f := s.cur.front
  let s := s.modWarp fun w =>
    let w := (w.advance adv s.cur.len).bookkeep f s.cur.cluster
    if sw then w.marker f s.draw else w
  { s with draw := s.draw + 1 }

/-! ### The frame of an instruction -/

/-- What an instruction's own effect works with: the read context and the active lanes. -/
structure Issue where
  cx : RdCx
  act : Mask
  kinds : SrcKinds
  deriving DecidableEq, Repr

/-- The outcome of an instruction's own effect: the state and the lanes of the active set that advance. -/
structure Done where
  s : State
  adv : Mask
  deriving DecidableEq, Repr

/-- The active lanes (R103). -/
def RdCx.active (cx : RdCx) (g : Guard) (cluster : Mask) : Mask :=
  maskOf ((lanesOf cluster).filter fun l => cx.guard g l)

/-- The frame of R120 and R375 around an instruction's own effect: illegal in every lane of the cluster, then
guard, privilege and unimplemented in the active lanes; lanes whose guard is false advance. `dyn` gives the SUBs
that values or the tile raise on a legal encoding, whose sources %top0 to %top2 then receive (R379). -/
def runInstr (i : Instr) (g : Guard) (lit : Option Word) (perm : Perm) (kinds : SrcKinds)
    (dyn : RdCx → State → List Nat) (body : Issue → State → Done) (s : State) : Result :=
  let cx := s.rdCx (lit.getD 0) perm
  let lc : LegalCx := { v := cx.w.vAlloc, s := cx.w.sAlloc, sl := inSl s }
  match lowest ((illegalSub lc i).toList ++ dyn cx s) with
  | some sub => .next (finish g.sw 0 (s.trapMask s.cur.cluster (fun _ => ⟨0x02, sub⟩)
      fun l => if (illegalSub lc i).isSome then Tops.zero else cx.tops kinds l))
  | none =>
    let act := cx.active g s.cur.cluster
    let rest := s.cur.cluster &&& ~~~act
    let trapped (t : Trap) : Result := .next (finish g.sw rest (s.trapMask act (fun _ => t) (cx.tops kinds)))
    match (if s.cur.front = .user then privSub i else none) with
    | some p => trapped ⟨0x03, p⟩
    | none =>
      if unimplemented i then trapped ⟨0x04, 0⟩
      else
        let d := body { cx := cx, act := act, kinds := kinds } s
        .next (finish g.sw (rest ||| d.adv) d.s)

def noDyn : RdCx → State → List Nat := fun _ _ => []

/-- An effect on the registers of the issuing warp alone, in which every active lane advances. -/
def onWarp (f : Issue → Warp → Warp) (x : Issue) (s : State) : Done :=
  { s := s.modWarp (f x), adv := x.act }

/-- An effect of every active lane on its own registers. -/
def onActive (f : RdCx → Nat → Lane → Lane) (x : Issue) (s : State) : Done :=
  onWarp (fun x w => w.onLanes x.act (f x.cx)) x s

/-- One write for the whole issue, not made when no lane is active (R103). -/
def onceIf (f : Issue → Warp → Warp) (x : Issue) (s : State) : Done :=
  if x.act = 0 then { s := s, adv := 0 } else onWarp f x s

end Sys2Proof.Machine
end

