-- ==== Sys2Proof/Machine/Net.lean ====
section
/-! DEFINITION. The on-die network: routes, routers, links and their faults (R127, R128, R323–R336, R428–R433). -/

namespace Sys2Proof.Machine

/-! ### Packets at a router -/

/-- Classes in the order of R333, and their weights. -/
def clsRank : PktClass → Nat
  | .ctl => 0 | .rsp => 1 | .req => 2 | .msg => 3
def clsWeight : PktClass → Nat
  | .msg => 2 | _ => 4

/-- The input channel of a packet at a port: classes by rank, channels by global hops (R328). -/
def chanKey (port : Nat) (p : Packet) : Nat := port * 12 + clsRank p.cls * 3 + min p.hops 2

def netRecord (sev : Sev) (cause sub r : Nat) (d : Nat := 0) : Record :=
  { sev := sev, src := 2, cause := cause, sub := sub, unit := r, detail0 := BitVec.ofNat 32 d }

/-- A bounced packet is back at its source: the lane of a message receives status 4, any other packet waits in
the interface (R431). -/
def State.cameBack (s : State) (p : Packet) : State :=
  match p.cls with
  | .msg =>
    match s.msgs.find? fun m => m.id = p.id with
    | some m =>
      let s : State := { s with msgs := s.msgs.filter fun x => x.id ≠ m.id }
      if s.holds m.who m.task m.wid then
        (s.modWarpOf m.who fun w => w.setLane m.lane ((w.lane m.lane).wV m.front m.d 4)).resultBack m.who m.front (laneBit m.lane)
      else s
    | none => s
  | _ => s.modIface p.src fun x =>
    { x with bounced := x.bounced ++ [p], sent := x.sent.filter fun e => !e.isOf p
             rewritten := if x.sent.any fun e => e.isOf p && e.old then p.id :: x.rewritten else x.rewritten }

/-- What interface u is to send back goes as its own route table says, where that leads to the source (R431). -/
def State.sendBack (s : State) (u : Nat) : State :=
  (look Iface.init s.ifaces u).returning.foldl (fun s p =>
    if s.path u p.src = .unit p.src then
      ((s.wakeAhead u (s.routeEntry u p.src)).modIface u fun x => { x with returning := x.returning.erase p }).cameBack p
    else s) s

/-- Router r bounces a packet: the interface of its slice 2k sends it back (R431). -/
def State.bounce (s : State) (r : Nat) (p : Packet) : State :=
  (s.modIface (128 + 2 * r) fun x => { x with returning := x.returning ++ [p] }).sendBack (128 + 2 * r)

/-- A port leads to a retired slice, and the packet is for that slice (R327, R435). -/
def State.toRetired (s : State) (r out : Nat) (p : Packet) : Bool :=
  decide (out < 4) && s.unitRetired (portUnit r out) && p.unit == .own

/-- The first flit of a packet arrives at an input port (R325, R431). A retired slice takes no packet of its own; the
units that share its interface do (R327). -/
def State.arrive (s : State) (r port : Nat) (p : Packet) : State :=
  let x := s.router r
  match stepPort r (p.turns.toNat % 16) p.port.toNat with
  | none => (s.append (netRecord .contained 0x35 0 r p.src)).bounce r p
  | some out =>
    if x.link out = 3 ∨ s.toRetired r out p then s.bounce r p
    else s.modRouter r fun x => { x with inq := upd [] x.inq (chanKey port p) fun q => q ++ [p] }

/-- A unit receives a packet, which its unit code gives to one of those that share the interface (R327); replies are
given out in their sequence, and answer what the unit sent (R432). -/
def Iface.deliver (p : Packet) (x : Iface) : Iface :=
  if p.cls ≠ .rsp then { x with ejected := x.ejected ++ [p] }
  else
    let rec drain : Nat → Nat → List Packet → List Packet → List Packet × Nat × List Packet
      | 0, n, got, held => (got, n, held)
      | fuel + 1, n, got, held =>
        match held.find? fun q => q.src = p.src ∧ q.seq = n with
        | some q => drain fuel (n + 1) (got ++ [q]) (held.filter fun y => y ≠ q)
        | none => (got, n, held)
    let held := x.rspHeld ++ [p]
    let (got, n, held) := drain (held.length + 1) (look 0 x.rspNext p.src) [] held
    { x with
      ejected := x.ejected ++ got, rspHeld := held, rspNext := put 0 x.rspNext p.src n
      sent := x.sent.filter fun e => e.rsp || !got.any fun q => q.id == e.id
      rewritten := x.rewritten.filter fun i => !got.any fun q => q.id == i }

/-! ### Arbitration (R330–R334) -/

/-- A head packet that wants an output. -/
structure Cand where
  key : Nat
  p : Packet
  deriving DecidableEq, Repr

def Cand.port (c : Cand) : Nat := c.key / 12

/-- The channel at the far end has room: fewer than four flits wait there (R330). -/
def State.linkGo (s : State) (r out : Nat) (p : Packet) : Bool :=
  if out < 4 then true
  else
    let (r', port) := neighbour r out
    let p' : Packet := { p with hops := p.hops + (if out = 11 then 1 else 0) }
    let q := look [] (s.router r').inq (chanKey port p')
    (s.router r').awake && decide ((q.map (·.flits)).sum < 4)

/-- The candidates of an output (R331). -/
def State.cands (s : State) (r out : Nat) : List Cand :=
  if (s.router r).link out ≥ 2 then []
  else ((s.router r).inq.filterMap fun e =>
    match e.2 with
    | p :: _ => if stepPort r (p.turns.toNat % 16) p.port.toNat = some out ∧ s.linkGo r out p then some ⟨e.1, p⟩ else none
    | [] => none)

/-- The better of two candidates of one port: the higher class, then the higher channel (R333). -/
def Cand.better (a b : Cand) : Cand :=
  let rank (c : Cand) : Nat := clsRank c.p.cls * 3 + (2 - min c.p.hops 2)
  if rank b < rank a then b else a

/-- The older of two candidates; ties to the lower port, then the higher channel (R334), then the higher class (log
entry 122). -/
def Cand.older (a b : Cand) : Cand :=
  if a.p.age < b.p.age ∨ (a.p.age = b.p.age ∧ (b.port < a.port ∨ (b.port = a.port ∧ a.p.hops < b.p.hops))) then b
  else a

def bestOf (f : Cand → Cand → Cand) : List Cand → Option Cand
  | [] => none
  | c :: cs => some (cs.foldl f c)

/-- The grant of an output, and the output after it. A quantum keeps the weight of its first class (log entry 121). -/
def grant (o : OutPort) (cs : List Cand) : Option (Cand × OutPort) :=
  if o.promo then (bestOf Cand.older cs).map fun c => (c, { o with promo := false })
  else
    let at_ (p : Nat) : Option Cand := bestOf Cand.better (cs.filter fun c => c.port = p)
    match (if o.left = 0 then none else at_ o.ptr) with
    | some c => some (c, { o with left := o.left - 1 })
    | none =>
      match ((List.range 12).map fun i => (o.ptr + 1 + i) % 12).find? fun p => (at_ p).isSome with
      | some p => (at_ p).map fun c => (c, { o with ptr := p, left := clsWeight c.p.cls - 1 })
      | none => none

/-- Packets that wait for an output and are not granted in n slice cycles grow older (R332). -/
def ageHeads (r out key n : Nat) (q : Table (List Packet)) : Table (List Packet) :=
  q.map fun e => (e.1, match e.2 with
    | p :: ps =>
      if e.1 ≠ key ∧ stepPort r (p.turns.toNat % 16) p.port.toNat = some out then
        { p with age := min 255 (p.age + n) } :: ps
      else p :: ps
    | [] => [])

/-- A packet that an interface sent to a unit under an older route has neither an answer nor been injected again (R432). -/
def Iface.oldTo (x : Iface) (dst : Nat) : Bool :=
  (x.sent.any fun e => e.old && !e.rsp && e.dst == dst) || x.bounced.any fun q => q.dst == dst && x.rewritten.contains q.id

/-- What an interface holds back: it sends no packet ahead of a bounced or waiting one of its class and destination
(R431), and none but RSP while one that it sent there under an older route has no answer (R432). -/
def Iface.holds (x : Iface) (p : Packet) : Bool :=
  x.bounced.any (fun q => q.cls == p.cls && q.dst == p.dst) || x.waiting.any (fun q => q.cls == p.cls && q.dst == p.dst) ||
    p.cls != .rsp && x.oldTo p.dst

/-- The itinerary of a packet at its injection: the program's for a message, else that of the route table (R326). -/
def State.itinerary (s : State) (p : Packet) : Option Word :=
  if p.kind = .msend then (s.msgs.find? fun m => m.id = p.id).map (·.route) else some (s.routeEntry p.src p.dst)

/-- A packet goes out at its interface with AGE 0, and wake-ahead goes to every router that it names (R332, R336). -/
def State.launchPacket (s : State) (p : Packet) : State :=
  match s.itinerary p with
  | none => s
  | some r =>
    let p := { p with turns := r.extractLsb' 0 24, port := r.extractLsb' 24 2, hops := 0, age := 0 }
    let s := s.modIface p.src fun x => { x with sent := x.sent ++ [⟨p.id, p.dst, p.cls == .rsp, false⟩] }
    (s.wakeAhead p.src r).arrive (unitRouter p.src) (unitPort p.src) p

/-- The core or slice that a message's itinerary leads to when every link is up. -/
def msgTarget (m : Msg) : Option Nat :=
  let rec go : Nat → Nat → Nat → Option Nat
    | 0, _, _ => none
    | fuel + 1, r, turns =>
      match stepPort r (turns % 16) (m.route.toNat / 2 ^ 24 % 4) with
      | some out => if out < 4 then some (portUnit r out) else go fuel (neighbour r out).1 (turns / 16)
      | none => none
  go 7 (unitRouter m.who.core) (m.route.toNat % 2 ^ 24)

/-- Packets that an interface held back and need hold no longer, in their order, and then messages (R432). -/
def State.launchWaiting (s : State) (u : Nat) : State :=
  let s := ((s.msgs.filter fun m => m.who.core = u).filterMap msgTarget).foldl (fun s v => s.push (.messageReceive v)) s
  (look Iface.init s.ifaces u).waiting.foldl (fun s p =>
    let x := look Iface.init s.ifaces u
    let rest := x.waiting.filter fun q => q ≠ p
    let ahead := x.waiting.takeWhile fun q => q ≠ p
    if Iface.holds { x with waiting := ahead } p then s
    else (s.modIface u fun x => { x with waiting := rest }).launchPacket p) s

/-- Where a packet for a unit without a port of its own goes: the interface of slice 0 of its die; the Dispatcher's is
that of slice 0 (R327). -/
def netEntry (x : NetUnit) (dst : Nat) : Nat :=
  match x with
  | .own => dst
  | .dispatcher => 128
  | _ => 128 + 64 * (dst % 128 / 64)

/-- What a unit without a port of its own sends leaves through the interface of slice 0 or 64 (R327). -/
def leavesAt (k : PktKind) (u : Nat) : Bool :=
  match k with
  | .dispatcherCommand => u == 128
  | .gazWake | .interruptDelivery => u == 128 || u == 192
  | _ => true

/-- The unit at a port, or one that shares its interface, sends a packet (R326, R327, R431, R432). -/
def State.inject (s : State) (u : Nat) (p : Packet) : State :=
  let x := look Iface.init s.ifaces u
  let dst := netEntry p.unit p.dst
  let p := { p with src := u, dst := dst, seq := if p.cls = .rsp then look 0 x.rspSeq dst else 0 }
  let s := if p.cls = .rsp then s.modIface u fun x => { x with rspSeq := upd 0 x.rspSeq dst (· + 1) } else s
  if x.holds p then s.modIface u fun x => { x with waiting := x.waiting ++ [p] } else s.launchPacket p

/-- An RSP packet that reached its destination is no longer its sender's. -/
def Iface.delivered (p : Packet) (x : Iface) : Iface :=
  if p.cls ≠ .rsp then x
  else { x with sent := x.sent.filter fun e => !e.isOf p, rewritten := x.rewritten.filter fun i => i ≠ p.id }

/-- The granted packet of a channel leaves: ejected, or on the wire to the next router with its turns shifted. -/
def State.forward (s : State) (r out key : Nat) (p : Packet) : State :=
  if s.toRetired r out p then s.bounce r p
  else if out < 4 then
    let s := (s.modIface p.src (Iface.delivered p)).modIface (portUnit r out) (Iface.deliver p)
    s.launchWaiting (portUnit r out)
  else
    let (r', port) := neighbour r out
    let q := { p with turns := p.turns >>> (4 : Nat), hops := p.hops + (if out = 11 then 1 else 0) }
    (s.modRouter r' fun x => { x with wire := upd [] x.wire port fun w => w ++ [⟨key, p, q⟩] }).push (.packetArrival r' port q)

/-- What is on the wire of a link that goes down, or is retired, stays with the sending router: the receiving one discards
its part of it (R428). -/
def State.takeBack (s : State) (r out : Nat) : State :=
  if out < 4 ∨ 11 < out then s else
  let (r', port) := neighbour r out
  let fl := look [] (s.router r').wire port
  (s.modRouter r' fun x => { x with wire := put [] x.wire port [] }).modRouter r fun x =>
    { x with inq := fl.foldr (fun f t => upd [] t f.key fun q => f.sent :: q) x.inq }

/-! ### Events -/

/-- A packet arrives at a router: from the unit at a port below 4, which sends it, else from the wire, on which a
neighbour put it; a gated router takes none from there (R335). -/
def execPacketArrival (router port : Nat) (p : Packet) (s : State) : Result :=
  if port < 4 then .next (if leavesAt p.kind (portUnit router port) then s.inject (portUnit router port) p else s)
  else
    let x := s.router router
    .next (if x.awake && (look [] x.wire port).head?.map (·.p) == some p then
      (s.modRouter router fun x => { x with wire := upd [] x.wire port fun q => q.drop 1 }).arrive router port p
    else s)

/-- An output grants a packet, whose flits leave one per slice cycle; without a candidate the port at the pointer
yields (R331–R334). -/
def execOutputArbitration (router port : Nat) (s : State) : Result :=
  let x := s.router router
  match grant (look OutPort.init x.outs port) (s.cands router port) with
  | none =>
    .next (s.modRouter router fun x =>
      { x with inq := ageHeads router port 1000 1 x.inq, outs := upd OutPort.init x.outs port fun o => { o with left := 0 } })
  | some (c, o) =>
    let s := s.modRouter router fun x =>
      { x with
        inq := (ageHeads router port c.key c.p.flits (upd [] x.inq c.key fun q => q.drop 1))
        outs := put OutPort.init x.outs port o }
    .next (s.forward router port c.key c.p)

def execPromotionCycle (router port : Nat) (s : State) : Result :=
  .next (s.modRouter router fun x => { x with outs := upd OutPort.init x.outs port fun o => { o with promo := true } })

/-- A flit is replayed on a link that carries traffic; the eighth replay in a row takes the link down; a wire that keeps
failing narrows it. Every 4,096th replay is recorded, whatever LERR holds (R428). -/
def execFlitReplay (router port : Nat) (eighth : Bool) (s : State) : Result :=
  if port < 4 ∨ 11 < port ∨ 2 ≤ (s.router router).link port then .next s
  else
    let n := (s.router router).replays + 1
    let s := s.modRouter router fun x => { x with lerr := satInc x.lerr, replays := n % 4096 }
    let s := if n = 4096 then s.append (netRecord .corrected 0x31 0 router) else s
    let down (s : State) : State :=
      ((s.takeBack router port).modRouter router fun x => x.setLink port 2).append (netRecord .degraded 0x33 port router)
    let narrow (s : State) : State :=
      (s.modRouter router fun x => x.setLink port 1).append (netRecord .degraded 0x32 port router)
    let s := if eighth then down s
      else if (s.router router).link port = 0 ∧ Config.choice s.draw 700000 % 2 = 1 then narrow s else s
    .next { s with draw := s.draw + 1 }

/-- The head of a channel waits for go: the link that it wants is down, or its channel at the next router signals stop
(R330, R430). -/
def State.waitsForGo (s : State) (r : Nat) (q : List Packet) : Bool :=
  match q with
  | p :: _ =>
    match stepPort r (p.turns.toNat % 16) p.port.toNat with
    | some out => decide (4 ≤ out) && (decide ((s.router r).link out = 2) || !s.linkGo r out p)
    | none => false
  | [] => false

/-- A channel whose head has waited for go for 2^20 slice cycles, or 2^26 further ones, gives a stall record (R430). -/
def execChannelStall (router port vc : Nat) (s : State) : Result :=
  if !s.waitsForGo router (look [] (s.router router).inq (port * 12 + vc)) then .next s
  else
    .next ((s.modRouter router fun x => { x with stall := x.stall ||| BitVec.ofNat 12 (2 ^ port) }).append
      (netRecord .degraded 0x34 port router vc))

/-- The first bounced packet whose route was written since goes out again, and what waited behind it (R431). -/
def execBouncedReinject (unit : Nat) (s : State) : Result :=
  let x := look Iface.init s.ifaces unit
  match x.bounced.find? fun p => x.rewritten.contains p.id with
  | none => .next s
  | some p =>
    let s := (s.modIface unit fun x =>
      { x with bounced := x.bounced.erase p, rewritten := x.rewritten.filter fun i => i ≠ p.id }).launchPacket p
    .next (s.launchWaiting unit)

/-- A router without traffic gates itself when PGEN allows it (R335). -/
def execRouterGate (router : Nat) (s : State) : Result :=
  let x := s.router router
  .next (if x.pgen && x.inq.all (fun e => e.2.isEmpty) && x.wire.all fun e => e.2.isEmpty then
    s.modRouter router fun x => { x with awake := false } else s)

def execRouterWake (router : Nat) (s : State) : Result :=
  .next (s.modRouter router fun x => { x with awake := true })

/-- Bounce every packet held for a port (R429, R431). -/
def State.bounceHeld (s : State) (r out : Nat) : State :=
  let want (p : Packet) : Bool := stepPort r (p.turns.toNat % 16) p.port.toNat == some out
  let gone := ((s.router r).inq.map fun e => e.2.filter want).flatten
  let s := s.modRouter r fun x =>
    { x with inq := (x.inq.map fun e => (e.1, e.2.filter fun p => !want p)).filter fun e => e.2 ≠ [] }
  gone.foldl (fun s p => s.bounce r p) s

/-- Global hops of a route. -/
def globalHops (v : Nat) : Nat := ((List.range 6).filter fun i => 8 ≤ v / 16 ^ i % 16).length

/-- The event that takes a run further. -/
def Run.goOn (r : Run) (n tag : Nat) : Instr :=
  match r.kind with | .mloop _ => .mloopStepEnd n tag | _ => .engineBytesDelivered n tag

/-- A way may be open now: what was to be sent back goes, and every run and the Dispatcher try again (R16, R327, R431). -/
def State.kickRuns (s : State) : State :=
  let s := s.ifaces.foldl (fun s e => s.sendBack e.1) s
  let s := s.cores.foldl (fun s e => e.2.runs.foldl (fun s r => s.push (r.2.goOn e.1 r.1)) s) s
  let s := s.disp.reqs.foldl (fun s r => if r.first then s.push .launchAccept else s) s
  let s := s.disp.queues.foldl (fun s q => match q.2 with
    | e :: _ => if e.dep = .met then s else s.push (.dependencePoll q.1)
    | [] => s) s
  if s.disp.queues.isEmpty && s.disp.owed.isEmpty && s.disp.resume.isEmpty then s else s.push .taskPlacement

/-- A route of at most two global hops is accepted (R326). What was sent under the older route holds new packets back
(R432); what bounced may go out again (R431). -/
def execRouteTableWrite (unit entry : Nat) (v : Word) (s : State) : Result :=
  let v := v &&& 0x03FFFFFF
  if 2 < globalHops (v.toNat % 2 ^ 24) then .next s
  else
    let s := if unit < 128 then s.modCore unit fun c => { c with routes := ins c.routes entry v }
      else s.modSlice (unit - 128) fun c => { c with routes := ins c.routes entry v }
    .next ((s.modIface unit fun x => { x with
      rewritten := x.rewritten ++ ((x.bounced.filter fun p => p.dst == entry).map (·.id)).filter fun i => !x.rewritten.contains i
      sent := x.sent.map fun e => if e.dst = entry then { e with old := true } else e }).kickRuns)

/-! ### Messages (R249) -/

def Msg.port (m : Msg) : Nat := m.route.toNat / 2 ^ 24 % 4

def State.msgEnd (s : State) (m : Msg) : RouteEnd :=
  s.follow m.port 7 (unitRouter m.who.core) (m.route.toNat % 2 ^ 24)

/-- Message x waits behind m: one lane's messages to one ring are placed in issue order (R250). -/
def Msg.behind (x m : Msg) : Bool :=
  decide (m.id < x.id) && x.who == m.who && x.lane == m.lane && x.task == m.task && x.wid == m.wid && x.ring == m.ring &&
    msgTarget x == msgTarget m

/-- What holds a message in its interface: an earlier one of its lane to its ring, and a packet under an older route
(R250, R432). -/
def State.msgHeld (s : State) (x : Msg) : Bool :=
  (s.msgs.any fun m => x.behind m) || match msgTarget x with
    | some v => (look Iface.init s.ifaces x.who.core).oldTo v
    | none => false

/-- The status of a message reaches its lane (R249), and the next one may go. -/
def State.msgStatus (s : State) (m : Msg) (st : Word) : State :=
  let s : State := { s with msgs := s.msgs.filter fun x => x.id ≠ m.id }
  let s := match s.msgs.find? fun x => x.behind m, msgTarget m with
    | some _, some v => s.push (.messageReceive v)
    | _, _ => s
  if s.holds m.who m.task m.wid then
    (s.modWarpOf m.who fun w => w.setLane m.lane ((w.lane m.lane).wV m.front m.d st)).resultBack m.who m.front (laneBit m.lane)
  else s

/-- A message bounced at router r has come back, where the way back is open: status 4 (R431). -/
def State.msgBack (s : State) (r : Nat) (m : Msg) : State :=
  if s.path (128 + 2 * r) m.who.core = .unit m.who.core then s.msgStatus m 4 else s

/-- A message goes as far as the links allow: it arrives, comes back with status 4, with a record where it was
misrouted (R431), or waits at a link that is down. -/
def State.sendMsg (s : State) (m : Msg) : State :=
  let s := s.wakeAhead m.who.core m.route
  match s.msgEnd m with
  | .unit u => { s with backlog := s.backlog ++ [.messageReceive u] }
  | .lost r => s.msgBack r m
  | .misrouted r => if s.path (128 + 2 * r) m.who.core = .unit m.who.core then (s.append (netRecord .contained 0x35 0 r m.who.core)).msgStatus m 4 else s
  | .waits _ _ => s

def State.retryMsgs (s : State) : State := s.msgs.foldl (fun s m => s.sendMsg m) s

/-- Messages that wait at a port come back. -/
def State.bounceMsgs (s : State) (r port : Nat) : State :=
  s.msgs.foldl (fun s m => if s.msgEnd m = .waits r port then s.msgBack r m else s) s

/-! ### LINKCTL (R429) -/

/-- LINKCTL acts on ports 4 to 11. -/
def linkPort (p : Nat) : Bool := decide (4 ≤ p) && decide (p ≤ 11)

def execLinkRetire (router port : Nat) (s : State) : Result :=
  .next (if linkPort port then
    (((s.takeBack router port).modRouter router fun x => x.setLink port 3).bounceHeld router port).retryMsgs else s)

def execLinkBounce (router port : Nat) (s : State) : Result :=
  .next (if linkPort port then (s.bounceHeld router port).bounceMsgs router port else s)

def execLinkTrain (router port : Nat) (ok : Bool) (s : State) : Result :=
  .next (if !linkPort port then s
    else if ok then (s.modRouter router fun x => x.setLink port 0).retryMsgs.kickRuns
    else (s.modRouter router fun x => x.setLink port 2).append (netRecord .degraded 0x33 port router))

end Sys2Proof.Machine
end

