-- ==== Sys2Proof/Machine/Crest.lean ====
section
/-! DEFINITION. Crest slots: promotion, copy-back, eviction, and their controls (R284–R291, R197, R198, R414, R415). -/

namespace Sys2Proof.Machine

def slotKey (bank row : Nat) : Nat := bank * 1024 + row
def slotNo (i : SlotId) : Nat := slotKey i.bank i.row

def State.setMem (s : State) (f : MemCtl → MemCtl) : State := { s with memctl := f s.memctl }

/-- A record of a memory controller about a bank (R426). -/
def State.memRecord (s : State) (sev : Sev) (cause sub bank : Nat) : State :=
  s.append { sev := sev, src := 3, cause := cause, sub := sub, unit := bank / 64 }

/-- A held slot: two copy-backs failed in a row (R414). -/
def CrestSlot.held (x : CrestSlot) : Bool := decide (2 ≤ x.fails)
def CrestSlot.locked (x : CrestSlot) : Bool := x.busy != .none || x.held

/-- A copy that is made at once activates its rows too (R283). -/
def State.copyNow (s : State) (k row : Nat) : State := s.setMem fun m => m.copyRows k row s.time

/-- A copy starts; its end is an event of the machine, with an outcome that the codes of the target row give
(R414). -/
def State.copyStarts (s : State) (k : Nat) (c : RowCopy) : State :=
  let s := s.setMem fun m => match find m.slots k with
    | some x => ({ m with slots := ins m.slots k { x with busy := c } }).copyRows k x.row s.time
    | none => m
  s.push (.rowCopyEnd ⟨k / 1024, k % 1024⟩ (Config.choice s.draw (740000 + k % 1024) % 2 = 1))

/-- The step of R289 that a slot falls under, 1 to 5 being 2 to 5 of the list; the dirty ones keep the order of
steps 2 to 4. -/
def CrestSlot.rank (x : CrestSlot) : Nat :=
  if x.marked then 0
  else (if x.dirty then 3 else 1) + (if x.by_ = .policy then 0 else 1)

/-- The slot taken before another: lower rank, then least recently activated, then lower row. -/
def slotBefore (a b : Nat × CrestSlot) : Bool :=
  decide (a.2.rank < b.2.rank) ||
    (a.2.rank == b.2.rank && (decide (a.2.act < b.2.act) || (a.2.act == b.2.act && decide (a.1 < b.1))))

def leastSlot : List (Nat × CrestSlot) → Option (Nat × CrestSlot)
  | [] => none
  | x :: xs => match leastSlot xs with
    | none => some x
    | some y => if slotBefore x y then some x else some y

/-- The free slot of a bank with the lowest row (R286, R289, R415). -/
def State.freeSlot (s : State) (bank : Nat) : Option Nat :=
  let m := s.memctl
  ((List.range 1024).filter fun r => decide (64 * s.pinned ≤ r)).find? fun r =>
    (find m.slots (slotKey bank r)).isNone && !look false m.retired (slotKey bank r)

def newSlot (m : MemCtl) (row : Nat) (by_ : SlotBy) : CrestSlot :=
  { row := row, dirty := false, by_ := by_, marked := false, busy := .none, fails := 0, retryAt := 0, next := none,
    act := m.actNo }

/-- A promotion of an apron row (R289, R290): none when every slot is locked, or for the policy when only step 5
remains. -/
def State.promote (s : State) (bank row : Nat) (by_ : SlotBy) : Option State :=
  let m := s.memctl
  let put (s : State) (k : Nat) : State := s.setMem fun m => { m with slots := ins m.slots k (newSlot m row by_) }
  match s.freeSlot bank with
  | some r => some ((put s (slotKey bank r)).copyStarts (slotKey bank r) .promote)
  | none =>
    match leastSlot (m.slots.filter fun e => e.1 / 1024 == bank && !e.2.locked) with
    | none => none
    | some (k, x) =>
      if !x.dirty then some ((put s k).copyStarts k .promote)
      else if by_ = .policy ∧ !x.marked then none
      else
        let s := s.setMem fun m => { m with slots := ins m.slots k { x with next := some (row, by_), nextMark := false } }
        some (s.copyStarts k .evict)

/-- A failed copy-back (R414): the slot keeps the data; the second in a row holds it. -/
def State.copybackFails (s : State) (k : Nat) (x : CrestSlot) : State :=
  let n := x.fails + 1
  let x := { x with busy := .none, fails := n, retryAt := s.time + 1000, next := if 2 ≤ n then none else x.next }
  let s := s.setMem fun m => { m with slots := ins m.slots k x }
  if 2 ≤ n then s.memRecord .degraded 0x28 3 (k / 1024) else s.memRecord .corrected 0x28 2 (k / 1024)

/-- A copy-back that succeeded: an evicted slot is free or taken by the promotion that waits; any other is
clean. -/
def State.copybackDone (s : State) (k : Nat) (x : CrestSlot) : State :=
  match x.next with
  | some (row, by_) =>
    (s.setMem fun m => { m with slots := ins m.slots k { newSlot m row by_ with marked := x.nextMark } }).copyStarts k .promote
  | none =>
    if x.busy = .evict then s.setMem fun m => { m with slots := del m.slots k }
    else s.setMem fun m => { m with slots := ins m.slots k { x with busy := .none, dirty := false, fails := 0 } }

/-- The accesses that waited for a copy are made, and the policy looks at the rows they opened (R288, R290). -/
def State.makeAccesses (s : State) (bank : Nat) (ws : List RowWait) : State :=
  let s := s.setMem fun m => m.accesses bank ws s.time
  ws.foldl (fun s w => if (s.memctl.slotFor bank w.row).isNone && s.memctl.hot bank w.row then
    (s.promote bank w.row .policy).getD s else s) s

/-- The end of a row copy (R288, R414). -/
def State.copyEnds (s : State) (id : SlotId) (failed : Bool) : State :=
  let k := (slotNo id)
  match find s.memctl.slots k with
  | none => s
  | some x0 =>
    let x := { x0 with waits := [] }
    let s := match x.busy with
      | .none => s
      | .promote =>
        if failed then (s.setMem fun m => { m with slots := del m.slots k }).memRecord .corrected 0x28 1 id.bank
        else s.setMem fun m => { m with slots := ins m.slots k { x with busy := .none } }
      | .evict | .copyBack => if failed then s.copybackFails k x else s.copybackDone k x
    if x.busy = .none then s else s.makeAccesses id.bank x0.waits

def execRowCopyEnd (id : SlotId) (failed : Bool) (s : State) : Result := .next (s.copyEnds id failed)

/-- The try that follows 1,000 ticks after a failed copy-back. -/
def execCopybackRetry (id : SlotId) (failed : Bool) (s : State) : Result :=
  match find s.memctl.slots (slotNo id) with
  | some x =>
    if x.fails = 1 ∧ x.busy = .none ∧ x.retryAt ≤ s.time then
      let s := s.copyNow (slotNo id) x.row
      let y := { x with waits := [], act := s.memctl.actNo }
      let s := if failed then s.copybackFails (slotNo id) y else s.copybackDone (slotNo id) { y with fails := 0, busy := .copyBack }
      .next (s.makeAccesses id.bank x.waits)
    else .next s
  | none => .next s

/-- A marked dirty slot of an idle bank starts its copy-back (R291). -/
def execMarkedSlotCopyback (id : SlotId) (s : State) : Result :=
  match find s.memctl.slots (slotNo id) with
  | some x => .next (if x.marked && x.dirty && !x.locked && x.fails == 0 then s.copyStarts (slotNo id) .copyBack else s)
  | none => .next s

/-- The repeated-activation policy (R290): a chunk's row whose promotion its 4th activation made due. -/
def execRepeatedActivationPromotion (chunk : Nat) (s : State) : Result :=
  let b := bankRow (chunk * 1024)
  if s.memctl.due.contains chunk then
    let s := s.setMem fun m => { m with due := m.due.filter fun k => k ≠ chunk }
    .next (if (s.memctl.slotFor b.bankNo b.row).isNone then (s.promote b.bankNo b.row .policy).getD s else s)
  else .next s

/-! ### SLOTCMD (R415) -/

def State.slotStatus (s : State) (v : Nat) : State := s.setMem fun m => { m with slotSt := v }

/-- Retire a slot: a clean copy is dropped, a dirty one copied back first, a held one refused. -/
def execSlotRetire (id : SlotId) (s : State) : Result :=
  let k := (slotNo id)
  if id.row < 64 * s.pinned then .next (s.slotStatus 1)
  else
    let retire (s : State) : State :=
      (s.setMem fun m => { m with slots := del m.slots k, retired := put false m.retired k true }).slotStatus 0
    match find s.memctl.slots k with
    | none => .next (retire s)
    | some x =>
      if x.locked then .next (s.slotStatus 2)
      else if !x.dirty then .next (retire s)
      else
        -- the copy-back before the slot goes out of use
        let bad := decide (Config.choice s.draw (750000 + k % 1024) % 2 = 1)
        let s := s.copyNow k x.row
        .next (if bad then (s.copybackFails k { x with act := s.memctl.actNo }).slotStatus 2 else retire s)

/-- The slot that a command names is busy or held. -/
def State.slotLocked (s : State) (id : SlotId) : Bool :=
  match find s.memctl.slots (slotNo id) with | some x => x.locked | none => false

/-- Return a retired slot to use; nothing where the row is pinned, or the slot busy or held. -/
def execSlotReturn (id : SlotId) (s : State) : Result :=
  .next (
    if id.row < 64 * s.pinned then s.slotStatus 1
    else if s.slotLocked id then s.slotStatus 2
    else (s.setMem fun m => { m with retired := put false m.retired (slotNo id) false }).slotStatus 0)

/-- A try to copy a held slot back. -/
def State.tryHeld (s : State) (id : SlotId) (failed : Bool) : State :=
  if id.row < 64 * s.pinned then s.slotStatus 1
  else match find s.memctl.slots (slotNo id) with
  | some x =>
    if !x.held then s.slotStatus (if x.busy = .none then 0 else 2)
    else
      let s := s.copyNow (slotNo id) x.row
      let y := { x with act := s.memctl.actNo }
      if failed then s.slotStatus 3
      else (s.setMem fun m => { m with slots := ins m.slots (slotNo id) { y with dirty := false, fails := 0, busy := .none } }).slotStatus 0
  | none => s.slotStatus 0

def execSlotCopybackTry (id : SlotId) (failed : Bool) (s : State) : Result := .next (s.tryHeld id failed)

/-! ### What DRIFT finds and does (R197, R198, R291) -/

/-- The state word of DRIFT.Q for the row of local address a. -/
def State.driftWord (s : State) (a : Nat) (db : Bool) (lcl : Nat) : Word :=
  let b := bankRow a
  let base := (if db then 2 ^ 9 else 0) + lcl * 2 ^ 7
  let n : Nat :=
    if 0x00B400000000 ≤ a then base + 3 * 2 ^ 5 + 2
    else match s.memctl.slotFor b.bankNo b.row with
      | none => base
      | some (_, x, coming) =>
        let by_ := match (if coming then (x.next.map (·.2)).getD x.by_ else x.by_) with | .drift => 1 | .policy => 2
        base + by_ * 2 ^ 5 + (if x.marked && !coming && x.busy != .promote then 2 ^ 4 else 0) +
          (if x.dirty && !coming then 2 ^ 3 else 0) + (if x.busy != .none || coming then 2 ^ 2 else 0) + 1
  BitVec.ofNat 32 n

/-- DRIFT.P on the row of local address a: its status. -/
def State.driftP (s : State) (a lcl : Nat) : Nat × State :=
  let b := bankRow a
  if 0x00B400000000 ≤ a then (1, s)
  else match s.memctl.slotFor b.bankNo b.row with
    | some (k, x, coming) =>
      (1, if coming then s.setMem fun m => { m with slots := ins m.slots k { x with nextMark := false } }
        else if x.busy == .evict then s
        else s.setMem fun m => { m with slots := ins m.slots k { x with marked := false } })
    | none =>
      if 2 ≤ lcl then (3, s)
      else match s.promote b.bankNo b.row .drift with
        | some s => (0, s)
        | none => (2, s)

/-- DRIFT.D on the row of local address a. -/
def State.driftD (s : State) (a : Nat) : Nat × State :=
  let b := bankRow a
  if 0x00B400000000 ≤ a then (1, s)
  else match s.memctl.slotFor b.bankNo b.row with
    | some (k, x, false) =>
      (0, s.setMem fun m => { m with slots := ins m.slots k { x with marked := true } })
    | some (k, x, true) => (0, s.setMem fun m => { m with slots := ins m.slots k { x with nextMark := true } })
    | none => (1, s)

end Sys2Proof.Machine
end

