-- ==== Sys2Proof/Machine/Sha3.lean ====
section
/-! DEFINITION. SHA3-256 of FIPS 202, which R364–R367 and R422 name (log entry 41). -/

namespace Sys2Proof.Machine

/-- The 25 lanes of Keccak-f[1600], lane (x, y) at 5y + x. -/
abbrev Keccak := List DWord

def rotl64 (x : DWord) (n : Nat) : DWord := x.rotateLeft n

def kLane (a : Keccak) (x y : Nat) : DWord := a.getD (5 * (y % 5) + x % 5) 0

def kMap (f : Nat → Nat → DWord) : Keccak := (List.range 25).map fun i => f (i % 5) (i / 5)

def theta (a : Keccak) : Keccak :=
  let c := (List.range 5).map fun x => (List.range 5).foldl (fun s y => s ^^^ kLane a x y) 0
  kMap fun x y => kLane a x y ^^^ c.getD ((x + 4) % 5) 0 ^^^ rotl64 (c.getD ((x + 1) % 5) 0) 1

/-- Lanes in the order in which ρ meets them, with the rotation of each: the t-th after (1, 0) turns by
(t + 1)(t + 2) ÷ 2 and leads to (y, 2x + 3y). -/
def rhoWalk : Nat → Nat → Nat → Nat → List (Nat × Nat)
  | 0, _, _, _ => []
  | n + 1, t, x, y => (5 * y + x, (t + 1) * (t + 2) / 2 % 64) :: rhoWalk n (t + 1) y ((2 * x + 3 * y) % 5)

/-- Rotation of the lane at index i; lane (0, 0) stands. -/
def rhoOff (i : Nat) : Nat := look 0 (rhoWalk 24 0 1 0) i

/-- Steps ρ and π: the lane that lands at (x, y) comes from (x + 3y, x), rotated. -/
def rhoPi (a : Keccak) : Keccak :=
  kMap fun x y =>
    let u := (x + 3 * y) % 5
    rotl64 (kLane a u x) (rhoOff (5 * x + u))

def chi (a : Keccak) : Keccak := kMap fun x y => kLane a x y ^^^ (~~~(kLane a (x + 1) y) &&& kLane a (x + 2) y)

/-- The shift register of ι over x⁸ + x⁶ + x⁵ + x⁴ + 1. -/
def lfsrNext (r : Nat) : Nat := if r < 128 then 2 * r else (2 * (r - 128)) ^^^ 0x71

/-- The constant of one round: seven outputs of the register, output j at bit 2^j − 1; and the register after it. -/
def iotaConst : Nat → Nat → Nat → Nat × Nat
  | 0, _, r => (0, r)
  | n + 1, j, r =>
    let (c, r') := iotaConst n (j + 1) (lfsrNext r)
    ((if r % 2 = 1 then 2 ^ (2 ^ j - 1) else 0) + c, r')

/-- The constants of n rounds. -/
def iotaConsts : Nat → Nat → List DWord
  | 0, _ => []
  | n + 1, r => let (c, r') := iotaConst 7 0 r; BitVec.ofNat 64 c :: iotaConsts n r'

def iota (rc : DWord) (a : Keccak) : Keccak :=
  kMap fun x y => if x = 0 ∧ y = 0 then kLane a 0 0 ^^^ rc else kLane a x y

def keccakF (a : Keccak) : Keccak := (iotaConsts 24 1).foldl (fun a rc => iota rc (chi (rhoPi (theta a)))) a

/-- The lanes of a block of 136 bytes, padded with zero lanes. -/
def blockLanes (bs : List Byte) : Keccak :=
  (List.range 25).map fun i => BitVec.ofNat 64 (ofBytes ((bs.drop (8 * i)).take 8))

def absorb : Nat → Keccak → List Byte → Keccak
  | 0, a, _ => a
  | n + 1, a, bs =>
    absorb n (keccakF ((a.zip (blockLanes (bs.take 136))).map fun e => e.1 ^^^ e.2)) (bs.drop 136)

/-- The padding 01 ‖ 10*1 of SHA3 at rate 136 bytes. -/
def sha3Pad (n : Nat) : List Byte :=
  let k := 136 - n % 136
  if k = 1 then [0x86] else 0x06 :: List.replicate (k - 2) 0 ++ [0x80]

def sha3 (bs : List Byte) : BitVec 256 :=
  let a := absorb (bs.length / 136 + 1) (List.replicate 25 0) (bs ++ sha3Pad bs.length)
  BitVec.ofNat 256 (ofBytes ((a.take 4).map fun x => toBytes 8 x.toNat).flatten)

end Sys2Proof.Machine
end

