-- ==== Sys2Proof/Machine/Ctl.lean ====
section
/-! DEFINITION. The device control space (R340, R341): what every register reads and what a write of it does. Actions
that a write starts are rows of their own; they stand next in the backlog. -/

namespace Sys2Proof.Machine

def lo32 (x : DWord) : Word := x.extractLsb' 0 32
def hi32 (x : DWord) : Word := x.extractLsb' 32 32
def setLo (x : DWord) (v : Word) : DWord := hi32 x ++ v
def setHi (x : DWord) (v : Word) : DWord := v ++ lo32 x
/-- Half of a 64-bit register at a word offset. -/
def half (x : DWord) (o : Nat) : Word := if o % 8 = 0 then lo32 x else hi32 x
def setHalf (x : DWord) (o : Nat) (v : Word) : DWord := if o % 8 = 0 then setLo x v else setHi x v
def bit32 (b : Bool) : Word := if b then 1 else 0
/-- Word i of four or more bytes. -/
def word4 (f : Nat → Byte) (a : Nat) : Word := BitVec.ofNat 32 (ofBytes ((List.range 4).map fun i => f (a + i)))
/-- Word i of a 256-bit register, and its replacement. -/
def wordOf (x : BitVec 256) (i : Nat) : Word := x.extractLsb' (32 * i) 32
def setWord (x : BitVec 256) (i : Nat) (v : Word) : BitVec 256 :=
  (x &&& ~~~((BitVec.allOnes 32).setWidth 256 <<< (32 * i))) ||| (v.setWidth 256 <<< (32 * i))

def State.bootDie (s : State) (d : Nat) : BootDie := look BootDie.init s.boot d
def State.modBoot (s : State) (d : Nat) (f : BootDie → BootDie) : State :=
  { s with boot := upd BootDie.init s.boot d f }

/-- The boot ROM's image, as its block reads (R340, R364). -/
def State.romDigest (s : State) : BitVec 256 := sha3 (getBytes s.mem 0x180010200000 0x40000)

/-- The seed of a die's identity key (R365). -/
def State.idSeed (s : State) (d : Nat) : BitVec 256 :=
  sha3 ((List.range 32).map (Config.dieSecret d) ++ toBytes 32 s.romDigest.toNat)

/-- IDPK of a die (R365). -/
def State.idKey (s : State) (d : Nat) : List Byte := (List.range 1312).map (Config.dsaKey (s.idSeed d))

/-- A signature with the identity key of a die (R365, R367). -/
def State.idSign (s : State) (d : Nat) (msg : List Byte) : List Byte :=
  (List.range 2420).map (Config.dsaSign (s.idSeed d) msg s.draw)

/-- The blocks of R340 that hold registers, with the unit's number and the offset within it. -/
inductive CtlReg where
  | config (a : Nat) | iommu (o : Nat) | core (n o : Nat) | router (r o : Nat) | slice (n o : Nat)
  | memctl (o : Nat) | ualink (o : Nat) | ue (p o : Nat) | boot (o : Nat) | errlog (o : Nat) | none
  deriving DecidableEq, Repr

def ctlReg (off : Nat) : CtlReg :=
  if off < 0x10000000 then .config off
  else if off < 0x10010000 then .none
  else if off < 0x10020000 then .iommu (off - 0x10010000)
  else if off < 0x100A0000 then .core ((off - 0x10020000) / 4096) ((off - 0x10020000) % 4096)
  else if off < 0x100E0000 then .router ((off - 0x100A0000) / 4096) ((off - 0x100A0000) % 4096)
  else if off < 0x10160000 then .slice ((off - 0x100E0000) / 4096) ((off - 0x100E0000) % 4096)
  else if off < 0x10170000 then .none
  else if off < 0x10180000 then .memctl (off - 0x10170000)
  else if off < 0x10190000 then .ualink (off - 0x10180000)
  else if off < 0x101A0000 then .ue ((off - 0x10190000) / 32768) ((off - 0x10190000) % 32768)
  else if off < 0x101B0000 then .boot (off - 0x101A0000)
  else if off < 0x101C0000 then .errlog (off - 0x101B0000)
  else .none

/-! ### Reads -/

/-- Core block (R326, R342, R376, R383, R394, R400, R434). -/
def State.readCore (s : State) (n o : Nat) : Word :=
  let c := s.core n
  if 0x400 ≤ o ∧ o < 0x800 then s.routeEntry n ((o - 0x400) / 4)
  else match o with
    | 0x000 => (lo32 c.sl.slstart &&& ~~~1) ||| bit32 c.sl.started
    | 0x004 => hi32 c.sl.slstart
    | 0x008 | 0x00C => half c.sl.slvec o
    | 0x010 => (bit32 c.sl.ih <<< (1 : Nat)) ||| bit32 c.sl.halt
    | 0x018 => c.sqctl
    | 0x020 | 0x024 => half c.sqwva o
    | 0x028 => BitVec.ofNat 32 c.sq.length
    | 0x030 => c.fqctl
    | 0x038 | 0x03C => half c.fqwva o
    | 0x040 => BitVec.ofNat 32 c.fq.length
    | 0x100 | 0x104 => half c.estat o
    | 0x108 | 0x10C => half c.eaddr o
    | 0x110 => c.etask
    | 0x118 | 0x11C => half c.ecnt o
    | 0x120 | 0x124 => half c.tvec o
    | 0x128 => c.arithen.setWidth 32
    | 0x130 => (bit32 c.slots.isEmpty <<< (1 : Nat)) ||| bit32 c.retired
    | _ => 0

/-- Router block (R335, R429). -/
def State.readRouter (s : State) (r o : Nat) : Word :=
  let x := s.router r
  match o with
  | 0x000 => (bit32 x.awake <<< (1 : Nat)) ||| bit32 x.pgen
  | 0x008 => x.linkst.setWidth 32
  | 0x018 => x.lerr
  | 0x020 => x.stall.setWidth 32
  | _ => 0

/-- Slice block (R230, R326). -/
def State.readSlice (s : State) (n o : Nat) : Word :=
  let x := s.slice n
  if 0x400 ≤ o ∧ o < 0x800 then s.routeEntry (128 + n) ((o - 0x400) / 4)
  else if 0xC00 ≤ o then
    match x.regions[(o - 0xC00) / 16]? with
    | some (line, r) =>
      match o % 16 / 4 with
      | 0 => BitVec.ofNat 32 (2 ^ 31 + line)
      | 1 => r.owntask
      | 2 => r.key.setWidth 32
      | _ => match r.holder with | some h => h.wid &&& 0xFFFF | none => 0xFFFF
    | none => 0
  else match o with
    | 0x808 => (bit32 x.disBusy <<< (31 : Nat)) ||| (bit32 x.disMiss <<< (8 : Nat)) ||| BitVec.ofNat 32 x.regions.length
    | _ => 0

def MigSt.code : MigSt → Word
  | .idle => 0 | .copying => 1 | .forwarding => 2 | .done => 3

/-- The slice that homes hash h of a die (R435). -/
def State.homeOf (s : State) (k : Nat) : Nat := look k s.homemap k

/-- Memory-control block (R366, R415, R435, R459). -/
def State.readMemctl (s : State) (o : Nat) : Word :=
  let m := s.memctl
  if 0x300 ≤ o ∧ o < 0x380 then word4 (fun k => BitVec.ofNat 8 (s.homeOf k % 64)) (o - 0x300)
  else match o with
    | 0x000 => (bit32 m.lock <<< (31 : Nat)) ||| BitVec.ofNat 32 s.pinned
    | 0x100 | 0x104 => half m.migOld o
    | 0x108 | 0x10C => half m.migNew o
    | 0x110 => BitVec.ofNat 32 m.migPs
    | 0x114 => m.migSt.code
    | 0x208 => BitVec.ofNat 32 m.slotSt
    | 0x210 => m.ecthr
    | 0x380 => m.hmcmd
    | 0x388 => BitVec.ofNat 32 m.hmst
    | 0x400 | 0x404 => half s.asidtb o
    | _ => 0

/-- Parcels fenced on account of a device (R421). -/
def State.fenceCount (s : State) (dev : Nat) : Nat :=
  (s.fabric.cad.filter fun e => e.2.fenced = some dev).length

def State.lostBusy (s : State) : Bool := s.backlog.any fun i => match i with | .lostcmd _ => true | _ => false

/-- UALink block (R344, R357, R421, R436–R438). -/
def State.readUalink (s : State) (o : Nat) : Word :=
  let f := s.fabric
  match o with
  | 0x000 => bit32 f.timeMaster
  | 0x020 | 0x024 => half f.planeMap o
  | 0x108 | 0x10C => half f.uirtb o
  | 0x110 => f.uirtn
  | 0x400 | 0x404 => half f.scrubPa o
  | 0x40C => BitVec.ofNat 32 f.scrubSt
  | 0x410 => f.fenceDev.setWidth 32
  | 0x414 => BitVec.ofNat 32 (s.fenceCount f.fenceDev.toNat)
  | 0x500 => f.joinDev.setWidth 32
  | 0x504 => BitVec.ofNat 32 f.joinSt
  | 0x508 => bit32 f.peerUsed
  | 0x604 => if s.lostBusy then 2 else 0
  | 0x610 => f.cadtmo
  | _ => 0

/-- Boot block of a die (R344, R364, R365, R367–R369, R427, R443). -/
def State.readBoot (s : State) (d o : Nat) : Word :=
  let b := s.bootDie d
  if 0x100 ≤ o ∧ o < 0x120 then wordOf b.meas ((o - 0x100) / 4)
  else if 0x120 ≤ o ∧ o < 0x140 then wordOf b.measExt ((o - 0x120) / 4)
  else if 0x200 ≤ o ∧ o < 0x220 then wordOf b.attNonce ((o - 0x200) / 4)
  else if 0x400 ≤ o ∧ o < 0x440 then word4 (fun k => (s.fatalRec[k]?).getD 0) (o - 0x400)
  else if 0x1000 ≤ o ∧ o < 0x1520 then word4 (Config.dsaKey (s.idSeed d)) (o - 0x1000)
  else match o with
    | 0x010 => b.bootst
    | 0x040 | 0x044 => half s.time o
    | 0x220 | 0x224 => half b.attBuf o
    | 0x22C => bit32 b.attSt
    | 0x310 => b.leader
    | 0x320 => BitVec.ofNat 32 b.prog
    | 0x330 | 0x334 => half b.hb o
    | 0x338 | 0x33C => half b.hbLast o
    | _ => 0

/-- Error log and Surveyor (R423, R447, R448). -/
def State.readErrlog (s : State) (o : Nat) : Word :=
  let e := s.elog
  let v := s.survey
  if 0x2000 ≤ o ∧ o < 0x2800 then look 0 v.slack ((o - 0x2000) / 2 + 1) ++ look 0 v.slack ((o - 0x2000) / 2)
  else match o with
    | 0x000 | 0x004 => half e.base o
    | 0x008 => e.ctl
    | 0x010 | 0x014 => half e.wva o
    | 0x018 | 0x01C => half e.tail o
    | 0x020 | 0x024 => half e.head o
    | 0x028 => e.lost
    | 0x1000 => (bit32 v.en <<< (31 : Nat)) ||| v.guardBand.setWidth 32
    | 0x1004 => (bit32 v.ra <<< (1 : Nat)) ||| bit32 v.mc
    | 0x1008 | 0x100C => half v.planBase o
    | 0x1010 | 0x1014 => half v.planSeq o
    | 0x1020 => BitVec.ofNat 32 v.planSt
    | 0x1024 => v.adopted
    | _ => 0

def State.iommuBusy (s : State) : Bool :=
  s.backlog.any fun i => match i with
    | .iommuInvAll | .iommuInvPartition _ | .iommuInvRequester _ | .iommuInvPasid _ | .iommuInvRemap _ => true
    | _ => false

/-- IOMMU block (R354, R439). -/
def State.readIommu (s : State) (o : Nat) : Word :=
  match o with
  | 0x000 => bit32 s.io.en
  | 0x008 | 0x00C => half s.io.iodtb o
  | 0x010 | 0x014 => half s.io.ioptb o
  | 0x020 => bit32 s.iommuBusy
  | 0x030 => s.io.ioref
  | _ => 0

/-- Bytes of a root port's configuration space that software does not write: a Type 1 header of a bridge, and the header
of an Advanced Error Reporting capability at 0x100 (R352; offsets of the PCI Express specification, log entry 87). -/
def cfgFixed (r : Nat) : Option Byte :=
  match r with
  | 0x09 | 0x101 | 0x103 => some 0 | 0x0A => some 4 | 0x0B => some 6 | 0x0E => some 1 | 0x100 => some 1 | 0x102 => some 2
  | _ => if r < 4 ∨ r = 8 then some (Config.portByte r 0) else none

/-- The bytes of the AER status registers: a 1 written clears its bit. -/
def cfgStatus (r : Nat) : Bool := decide (0x104 ≤ r ∧ r < 0x108) || decide (0x110 ≤ r ∧ r < 0x114)

/-- Bytes that are 0 at reset: the bus numbers, the AER status registers, the ECRC enables. -/
def cfgZero (r : Nat) : Bool := decide (0x18 ≤ r ∧ r < 0x1B) || cfgStatus r || r == 0x118 || r == 0x119

/-- Whether the controllers' arrangement gives port p: one port of sixteen lanes, or four of four (R352). -/
def Io.hasPort (x : Io) (p : Nat) : Bool := decide (p < 8) && (p % 4 == 0 || x.bifur.getLsbD (p / 4))

/-- A byte of bus 0: of one of the root ports that are formed; the bus has no other device. -/
def State.cfgByte (s : State) (a : Nat) : Byte :=
  let r := a % 4096
  if !s.io.hasPort (a / 2 ^ 15) ∨ 4096 ≤ a % 2 ^ 15 then 0xFF
  else
    let x := match cfgFixed r with
      | some b => b
      | none => (find s.io.cfg a).getD (if cfgZero r then 0 else Config.portByte a 0)
    if r = 0x118 then (x &&& 0x40) ||| 0xA0 else x

/-- The ECRC check enable of root port p (R352). -/
def State.ecrcCheck (s : State) (p : Nat) : Bool := (s.cfgByte (2 ^ 15 * p + 0x119)).getLsbD 0

/-- A status bit of a port's AER capability is set: of the uncorrectable errors, or of the others. -/
def State.aerStatus (s : State) (p : Nat) (unc : Bool) (bit : Nat) : State :=
  let a := 2 ^ 15 * p + (if unc then 0x104 else 0x110) + bit % 32 / 8
  { s with io := { s.io with cfg := ins s.io.cfg a (s.cfgByte a ||| BitVec.ofNat 8 (2 ^ (bit % 8))) } }

/-- The root port whose secondary to subordinate bus numbers take in a bus: a configuration request leaves it. -/
def State.cfgPort (s : State) (bus : Nat) : Option Nat :=
  (List.range 8).find? fun p =>
    decide ((s.cfgByte (2 ^ 15 * p + 0x19)).toNat ≤ bus ∧ bus ≤ (s.cfgByte (2 ^ 15 * p + 0x1A)).toNat) &&
      look false s.io.portUp p

/-- A word of configuration space beyond bus 0: what the port's far side answers, all ones where none does. -/
def State.cfgFar (s : State) (a : Nat) : Word :=
  match s.cfgPort (a / 2 ^ 20) with
  | some _ => word4 (fun k => Config.portByte k s.draw) a
  | none => 0xFFFFFFFF

/-- The configuration read that leaves a port for n bytes at an address beyond bus 0. -/
def State.cfgAsk (s : State) (a n : Nat) : State :=
  if a < 2 ^ 20 ∨ 2 ^ 28 ≤ a then s
  else match s.cfgPort (a / 2 ^ 20) with
    | some p => { s.emit (.cfgRead p a n) with draw := s.draw + 1 }
    | none => s

/-- One word of the control space, read by an agent of die d. -/
def State.ctlWord (s : State) (d off : Nat) : Word :=
  match ctlReg off with
  | .config a => if a < 2 ^ 20 then word4 s.cfgByte a else s.cfgFar a
  | .iommu o => s.readIommu o
  | .core n o => s.readCore n o
  | .router r o => s.readRouter r o
  | .slice n o => s.readSlice n o
  | .memctl o => s.readMemctl o
  | .ualink o => s.readUalink o
  | .ue p o =>
    if o < 8 then half (look 0 s.ue.qctxb p) o
    else if 0x1000 ≤ o ∧ o < 0x2000 then BitVec.ofNat 32 (Config.choice s.draw (720000 + o))
    else 0
  | .boot o => s.readBoot d o
  | .errlog o => s.readErrlog o
  | .none => 0

/-! ### Writes -/

def State.writeCore (s : State) (n o : Nat) (v : Word) : State :=
  let c := s.core n
  let set (c : Core) : State := s.setCore n c
  let sl (x : SupLane) : State := set { c with sl := x }
  if 0x400 ≤ o ∧ o < 0x800 then s.push (.routeTableWrite n ((o - 0x400) / 4) v)
  else match o with
    | 0x000 =>
      let s' := sl { c.sl with slstart := setLo c.sl.slstart (v &&& ~~~1) }
      if v.getLsbD 0 then s'.push (.slstartGo n) else s'
    | 0x004 => sl { c.sl with slstart := setHi c.sl.slstart v }
    | 0x008 => sl { c.sl with slvec := setLo c.sl.slvec (v &&& ~~~1) }
    | 0x00C => sl { c.sl with slvec := setHi c.sl.slvec v }
    | 0x018 => set { c with sqctl := v &&& 0x8000FFFF }
    | 0x020 | 0x024 => set { c with sqwva := setHalf c.sqwva o v }
    | 0x030 => set { c with fqctl := v &&& 0xC000FFFF }
    | 0x038 | 0x03C => set { c with fqwva := setHalf c.fqwva o v }
    | 0x104 => set { c with estat := c.estat &&& ~~~((v &&& 0xC0000000) ++ (0 : Word)) }
    | 0x118 | 0x11C => set { c with ecnt := setHalf c.ecnt o v }
    | 0x120 | 0x124 => set { c with tvec := setHalf c.tvec o v }
    | 0x128 => set { c with arithen := v.setWidth 5 }
    | 0x130 => set { c with retired := v.getLsbD 0 }
    | _ => s

def State.writeRouter (s : State) (r o : Nat) (v : Word) : State :=
  let port := bitsN v.toNat 11 8
  match o with
  | 0x000 => s.modRouter r fun x => { x with pgen := v.getLsbD 0 }
  | 0x010 =>
    match v.toNat % 4 with
    | 1 => s.push (.linkRetire r port)
    | 2 => s.push (.linkBounce r port)
    | 3 => s.push (.linkTrain r port (Config.choice s.draw (710000 + r) % 2 = 1))
    | _ => s
  | 0x018 => s.modRouter r fun x => { x with lerr := v }
  | 0x020 => s.modRouter r fun x => { x with stall := x.stall &&& ~~~v.setWidth 12 }
  | _ => s

def State.writeSlice (s : State) (n o : Nat) (v : Word) : State :=
  if 0x400 ≤ o ∧ o < 0x800 then s.push (.routeTableWrite (128 + n) ((o - 0x400) / 4) v)
  else if o = 0x800 ∧ v.getLsbD 31 ∧ !(s.slice n).disBusy then
    (s.modSlice n fun x => { x with disBusy := true }).push (.regdis n v)
  else s

/-- The crest slot that SLOTCMD names (R283, R415). -/
def slotOfCmd (v : Word) : SlotId :=
  let x := v.toNat
  { bank := ((bitsN x 3 0 * 32 + bitsN x 12 8) * 2 + bitsN x 13 13) * 64 + bitsN x 19 14, row := bitsN x 29 20 }

def State.writeMemctl (s : State) (o : Nat) (v : Word) : State :=
  let m := s.memctl
  let set (m : MemCtl) : State := { s with memctl := m }
  match o with
  | 0x000 => s.push (.mcfgLock v)
  | 0x100 | 0x104 => set { m with migOld := setHalf m.migOld o v }
  | 0x108 | 0x10C => set { m with migNew := setHalf m.migNew o v }
  | 0x110 =>
    let ps := set { m with migPs := v.toNat % 16 }
    -- a command in another state is ignored (R417)
    match bitsN v.toNat 9 8 with
    | 1 => if m.migSt = .idle then ps.push .migrationStart else s
    | 2 => if m.migSt = .forwarding then ps.push .migrationEndForward else s
    | _ => ps
  | 0x200 =>
    let id := slotOfCmd v
    match bitsN v.toNat 31 30 with
    | 1 => s.push (.slotRetire id)
    | 2 => s.push (.slotReturn id)
    | 3 => s.tryHeld id (Config.choice s.draw (760000 + id.row) % 2 = 1)
    | _ => s
  | 0x210 => set { m with ecthr := v }
  | 0x380 =>
    if m.hmst = 2 then s
    else
      let s := set { m with hmcmd := v &&& 0x7F7F }
      if v.getLsbD 31 then s.push (.hmcmdGo v) else s
  | 0x400 => { s with asidtb := setLo s.asidtb (v &&& 0xFFF80001) }
  | 0x404 => { s with asidtb := setHi s.asidtb (v &&& 0x00FFFFFF) }
  | _ => s

def State.writeUalink (s : State) (o : Nat) (v : Word) : State :=
  let f := s.fabric
  let set (f : Fabric) : State := { s with fabric := f }
  match o with
  | 0x000 => set { f with timeMaster := v.getLsbD 0 }
  | 0x020 | 0x024 =>
    let v := setHalf f.planeMap o v
    (set { f with planeMap := v }).push (.planemapWrite v)
  | 0x108 | 0x10C => set { f with uirtb := setHalf f.uirtb o v }
  | 0x110 => set { f with uirtn := v &&& 0x1FFFF }
  | 0x400 | 0x404 => set { f with scrubPa := setHalf f.scrubPa o v }
  | 0x408 =>
    match v.toNat % 4 with
    | 1 => (set { f with scrubSt := 2 }).push .scrubUnfenceKeep
    | 2 => (set { f with scrubSt := 2 }).push .scrubUnfenceZero
    | _ => s
  | 0x410 => set { f with fenceDev := v.setWidth 11 }
  | 0x500 =>
    let s' := set { f with joinDev := v.setWidth 11, joinSt := if v.getLsbD 11 then 3 else f.joinSt }
    if v.getLsbD 11 then
      s'.push (.joindevGo (v.setWidth 11) (BitVec.ofNat 2 (Config.choice s.draw (730000 + v.toNat % 2048) % 3)))
    else s'
  | 0x600 => if v.getLsbD 31 then s.push (.lostcmd v) else s
  | 0x610 => set { f with cadtmo := v }
  | _ => s

def State.writeBoot (s : State) (d o : Nat) (v : Word) : State :=
  let md (f : BootDie → BootDie) : State := s.modBoot d f
  if 0x120 ≤ o ∧ o < 0x140 then
    let s := md fun b => { b with measExt := setWord b.measExt ((o - 0x120) / 4) v }
    if o = 0x120 then s.push (.measext d (s.bootDie d).measExt) else s
  else if 0x200 ≤ o ∧ o < 0x220 then md fun b => { b with attNonce := setWord b.attNonce ((o - 0x200) / 4) v }
  else match o with
    | 0x220 | 0x224 => md fun b => { b with attBuf := setHalf b.attBuf o v }
    | 0x228 => if v.getLsbD 0 then (md fun b => { b with attSt := false }).push (.attgo d) else s
    | 0x300 => if v.getLsbD 0 then s.push (.claimgo d) else s
    | 0x330 => md fun b => { b with hb := setLo b.hb v, hbLast := s.time }
    | 0x334 => md fun b => { b with hb := setHi b.hb v }
    | _ => s

def State.writeErrlog (s : State) (o : Nat) (v : Word) : State :=
  let e := s.elog
  let x := s.survey
  let set (e : ErrLog) : State := { s with elog := e }
  let setV (x : Survey) : State := { s with survey := x }
  match o with
  | 0x000 => set { e with base := setLo e.base (v &&& 0xFFFFF000) }
  | 0x004 => set { e with base := setHi e.base (v &&& 0x00FFFFFF) }
  | 0x008 => set { e with ctl := v &&& 0x87FFFFFF }
  | 0x010 | 0x014 => set { e with wva := setHalf e.wva o v }
  | 0x020 | 0x024 => set { e with head := setHalf e.head o v }
  | 0x028 => set { e with lost := v }
  | 0x1000 => setV { x with en := v.getLsbD 31, guardBand := v.setWidth 8 }
  | 0x1008 => setV { x with planBase := setLo x.planBase (v &&& 0xFFFFFF00) }
  | 0x100C => setV { x with planBase := setHi x.planBase v }
  | 0x1018 => (setV { x with planSt := 1 }).push (.plango (x.goHigh ++ v))
  | 0x101C => setV { x with goHigh := v }
  | _ => s

def State.writeIommu (s : State) (o : Nat) (v : Word) : State :=
  let x := s.io
  let set (x : Io) : State := { s with io := x }
  match o with
  | 0x000 => set { x with en := v.getLsbD 0 }
  | 0x008 => set { x with iodtb := setLo x.iodtb (v &&& 0xFFE00000) }
  | 0x00C => set { x with iodtb := setHi x.iodtb (v &&& 0x00FFFFFF) }
  | 0x010 => set { x with ioptb := setLo x.ioptb (v &&& 0xFFFFFC00) }
  | 0x014 => set { x with ioptb := setHi x.ioptb (v &&& 0x00FFFFFF) }
  | 0x018 =>
    if s.iommuBusy then s
    else match v.toNat % 16 with
      | 1 => s.push .iommuInvAll
      | 2 => s.push (.iommuInvPartition x.cmdArg)
      | 3 => s.push (.iommuInvRequester x.cmdArg)
      | 4 => s.push (.iommuInvPasid x.cmdArg)
      | 5 => s.push (.iommuInvRemap x.cmdArg)
      | _ => s
  | 0x01C => if s.iommuBusy then s else set { x with cmdArg := v }
  | _ => s

/-- A write of configuration space: a root port's own registers, or a request that leaves a port. -/
def State.writeCfg (s : State) (a : Nat) (v : Word) : State :=
  if a < 2 ^ 18 ∧ a % 2 ^ 15 < 4096 then
    { s with io := { s.io with cfg := ((toBytes 4 v.toNat).zipIdx).foldl (fun t e =>
        let k := a + e.2
        if cfgStatus (k % 4096) then ins t k (s.cfgByte k &&& ~~~e.1) else ins t k e.1) s.io.cfg } }
  else if a < 2 ^ 20 then s
  else match s.cfgPort (a / 2 ^ 20) with
    | some p => s.emit (.cfgWrite p a (toBytes 4 v.toNat))
    | none => s

/-- One word of the control space, written by an agent of die d. -/
def State.setCtlWord (s : State) (d off : Nat) (v : Word) : State :=
  match ctlReg off with
  | .config a => s.writeCfg a v
  | .iommu o => s.writeIommu o v
  | .core n o => s.writeCore n o v
  | .router r o => s.writeRouter r o v
  | .slice n o => s.writeSlice n o v
  | .memctl o => s.writeMemctl o v
  | .ualink o => s.writeUalink o v
  | .ue p o =>
    if o < 8 then { s with ue := { s.ue with qctxb := upd 0 s.ue.qctxb p fun x => setHalf x o v } }
    else if 0x1000 ≤ o ∧ o < 0x2000 ∧ p < 2 then s.push (.ueDoorbell p ((o - 0x1000) / 4) v)
    else s
  | .boot o => s.writeBoot d o v
  | .errlog o => s.writeErrlog o v
  | .none => s

end Sys2Proof.Machine
end

