-- ==== Sys2Proof/Machine/FaultQ.lean ====
section
/-! DEFINITION. Memory faults of a lane, and the core's fault queue (R398–R403). -/

namespace Sys2Proof.Machine

def fqCapacity : Nat := 256

/-- Word 0 of an entry (R401). -/
def fqWord0 (slot : Nat) (e : FqEntry) : Word := BitVec.ofNat 32 (2 ^ 31 + e.seq % 2 ^ 23 * 256 + slot % 256)

/-- The key of R402. -/
def FaultRec.sameKey (f g : FaultRec) : Bool := f.asid == g.asid && f.va.extractLsb' 12 52 == g.va.extractLsb' 12 52

def Core.fqen (c : Core) : Bool := c.fqctl.getLsbD 31

/-- The next free slot at or after k, wrapping after 255 (R402). -/
def fqFreeSlot (t : Table FqEntry) (k : Nat) : Nat :=
  (((List.range 256).map fun i => (k + i) % 256).find? fun i => (find t i).isNone).getD k

/-- Enter a fault: join the entry of its key, take a slot, or wait in the admission list. The answer is word 0
of its entry, 0 while it has none. -/
def State.enterFault (s : State) (n : Nat) (f : FaultRec) : Word × State :=
  let c := s.core n
  match c.fq.find? fun e => e.2.first.sameKey f with
  | some (k, e) =>
    (fqWord0 k e, s.setCore n { c with fq := ins c.fq k { e with kinds := e.kinds ||| f.kinds, waits := e.waits ++ [f] } })
  | none =>
    if c.fq.length < fqCapacity then
      let k := fqFreeSlot c.fq c.fqNext
      let e : FqEntry := { seq := c.fqSeq, first := f, kinds := f.kinds, waits := [f], taken := false }
      let s := s.setCore n
        { c with fq := ins c.fq k e, fqOrder := c.fqOrder ++ [k], fqSeq := c.fqSeq + 1, fqNext := (k + 1) % 256 }
      (fqWord0 k e, s.modCore n fun c =>
        if c.fqctl.getLsbD 30 then { c with fqCount := c.fqCount + 1 } else c)
    else (0, s.setCore n { c with fqWait := c.fqWait ++ [f] })

/-- Bits of the kinds joined (R401). -/
def Acc.kindBit : Acc → Nat
  | .read | .take | .wake | .icache => 1 | .write => 2 | .rmw => 4 | .fetch => 8

/-- Lane l of the issuing context meets a translation fault at va: the fault queue, where it holds no outstanding result,
or the trap (R399, R457). -/
def State.faultLane (s : State) (acc : Acc) (x : XFault) (va : DWord) (k : Tops) (l : Nat) : State :=
  let who := s.cur.who
  match who.ctx with
  | .sl => s.trapLane ⟨0x10, x.sub⟩ k l
  | .slot m =>
    if s.cur.front = .user ∧ (s.core who.core).fqen then
      let w := s.warp
      let (w0, s) := s.enterFault who.core
        { who := .lane m w.task w.wid l w.ctxbase, sub := x.sub, kinds := acc.kindBit, va := va, asid := w.asid,
          words := s.cur.words, tops := (k.a, k.b, k.c) }
      s.modWarp fun w => w.setLane l { (w.lane l).settle .user s.draw l with st := .waiting, wait := .faultq w0 }
    else s.trapLane ⟨0x10, x.sub⟩ k l

end Sys2Proof.Machine
end

