-- ==== Sys2Proof/Machine/Stash.lean ====
section
/-! DEFINITION. The stash and its windows (R187–R192, R276, R306, R309), and where an access of a lane lands. -/

namespace Sys2Proof.Machine

/-! ### Windows (R189–R191) -/

/-- Group selector k names a group (R39), and its index. -/
def Warp.groupOk (w : Warp) (k : Nat) : Bool := (look 0 w.grp k).getLsbD 31
def Warp.groupId (w : Warp) (k : Nat) : BitVec 8 := (look 0 w.grp k).extractLsb' 0 8

/-- The window serves the warp (R189, G). -/
def Window.serves (x : Window) (w : Warp) : Bool :=
  x.task == w.task &&
    match x.grp with
    | none => true
    | some g => (List.range 4).any fun k => w.groupOk k && w.groupId k == g

def Window.hasVa (x : Window) (va : Nat) : Bool := decide (x.wva ≤ va) && decide (va < x.wva + x.len)
def Window.hasOff (x : Window) (o : Nat) : Bool := decide (x.soff ≤ o) && decide (o < x.soff + x.len)

/-- A window as the core holds it now. -/
def Core.window (c : Core) (task : Word) (soff : Nat) : Option Window :=
  c.windows.find? fun x => x.task == task && x.soff == soff

def Core.modWindow (c : Core) (task : Word) (soff : Nat) (f : Window → Window) : Core :=
  { c with windows := c.windows.map fun x => if x.task == task && x.soff == soff then f x else x }

/-- Store bytes at consecutive places of the stash; a write of 16 bytes or more counts towards clearing poison
(R409). -/
def Core.putStash (c : Core) (a : Nat) (bs : List Byte) : Core :=
  { c with stash := putBytes c.stash a bs, stashPoison := clearPoison c.stashPoison a bs.length }

/-- Bytes of entry k by offset, as they stand in the stash. -/
def Core.entryByte (c : Core) (x : Window) (k i : Nat) : Byte :=
  look 0 c.stash ((c.run x.task).base + x.place (128 * k + i))

/-- The stash sector that holds sector j of entry k. -/
def Core.entrySector (c : Core) (x : Window) (k j : Nat) : Nat :=
  ((c.run x.task).base + x.place (128 * k + 32 * j)) / 32

/-- Poison of one sector of memory after the write-back of an entry (R407, R409): `bad` gives the halves covered in the
poisoned sector of the stash, `full` those that single writes covered in the entry, and `any` whether a byte goes home. A half
covered at the home and one covered in the entry make a clean sector. -/
def backPoison (t : Table (BitVec 2)) (sector : Nat) (bad : Option (BitVec 2)) (any : Bool) (full : BitVec 2) : Table (BitVec 2) :=
  match find t sector, bad with
  | some h, _ => if h ||| full = 3 then del t sector else ins t sector (h ||| full)
  | none, some h => if any then ins t sector h else t
  | none, none => t

/-- An entry after its dirty bytes went home, where the line had time `old` before and t after: current up to t where
its other bytes were, or where none is left; else its lease stays, and has lapsed. -/
def WinEntry.backed (e : WinEntry) (old t : Nat) : WinEntry :=
  if e.cwts = old ∨ 128 ≤ e.dirty.length then { e with dirty := [], full := [], cwts := t, crts := t }
  else { e with dirty := [], full := [] }

/-- Write back the dirty bytes of entry k to the line it keeps (R191, R192). -/
def State.backEntry (s : State) (n : Nat) (x : Window) (k : Nat) : State :=
  match find x.entries k with
  | none => s
  | some e =>
    if e.dirty = [] then s
    else
      let c := s.core n
      let line := s.fwd (e.line * 128) / 128
      let put (s : State) (e : WinEntry) : State :=
        s.modCore n fun c => c.modWindow x.task x.soff fun x => { x with entries := ins x.entries k e }
      if (s.barred (line * 128) 128).isSome then put s { e with dirty := [], full := [] }
      else
        let lcl := s.reqLcl
        let s := (s.carry e.lcl).fillSlice line
        let old := (s.l2 line).wts
        let s := (s.coreStore n line (e.dirty.map fun d => (d.1, c.entryByte x k d.1))).carry lcl
        let s : State := { s with poison := (List.range 4).foldl (fun t j =>
            backPoison t (line * 4 + j) (find c.stashPoison (c.entrySector x k j))
              (e.dirty.any fun d => d.1 / 32 == j) (look 0 e.full j)) s.poison }
        put s (e.backed old (s.l2 line).wts)

/-- The lines that the dirty entries of some windows go to. -/
def State.dirtyLines (s : State) (xs : List Window) : List Nat :=
  (xs.map fun x => (x.entries.filter fun e => !e.2.dirty.isEmpty).map fun e => s.fwd (e.2.line * 128) / 128).flatten

/-- Write back every dirty entry of a window. -/
def State.backWindow (s : State) (n : Nat) (x : Window) : State :=
  x.entries.foldl (fun s e => s.backEntry n x e.1) s

/-- The write-back that a release demands: every window that serves the warp (R306). -/
def State.backWarp (s : State) (n : Nat) (w : Warp) : State :=
  ((s.core n).windows.filter fun x => x.serves w).foldl (fun s x => s.backWindow n x) s

/-- A write-back of these windows by core n must wait for a way to a home (R16, R313, R430, R436). -/
def State.backCut (s : State) (n : Nat) (xs : List Window) : Bool :=
  (s.dirtyLines xs).any fun pl => (s.barred (pl * 128) 128).isNone && s.wayCut n (pl * 128) true

/-- Fill or renew entry k from the home of the line: the bytes not written since the fill, and the lease (R191,
R309). -/
def State.fillEntry (s : State) (n : Nat) (x : Window) (k : Nat) (line : Nat) : State :=
  let old := find x.entries k
  let e : WinEntry := old.getD { line := line, dirty := [], cwts := 0, crts := 0, lcl := s.reqLcl, full := [] }
  let line := s.fwd (e.line * 128) / 128
  let lcl := s.reqLcl
  let s := (((s.recallLease n line).carry e.lcl).fillSlice line).carry lcl
  let l := s.l2 line
  let till := (s.core n).ct + lease
  let s := s.setL2 line { l with rts := max l.rts till }
  let same := old.isSome && e.cwts == l.wts
  let bad := s.poison
  s.modCore n fun c =>
    let base := (c.run x.task).base
    let clean := (List.range 128).filter fun i => !same && !look false e.dirty i
    let c : Core :=
      { c with
        ct := max c.ct l.wts
        stash := clean.foldl (fun t i => put 0 t (base + x.place (128 * k + i)) (look 0 l.data i)) c.stash
        stashPoison := (List.range 4).foldl (fun t j =>
          let q := c.entrySector x k j
          if same then t
          else match find bad (line * 4 + j) with
            | some h => if h ||| look 0 e.full j = 3 then del t q else ins t q (h ||| look 0 e.full j)
            | none => if e.dirty.any fun d => d.1 / 32 == j then t else del t q) c.stashPoison }
    c.modWindow x.task x.soff fun x =>
      { x with entries := ins x.entries k { e with cwts := l.wts, crts := till } }

/-- Entry k needs its home for an access: the first, one once its lease has lapsed, and an acquire. -/
def State.needsHome (s : State) (n : Nat) (acq : Bool) (x : Window) (k : Nat) : Bool :=
  match find x.entries k with
  | some e => acq || decide (e.crts < (s.core n).ct)
  | none => true

/-- Entry k ready for an access: filled, refilled or renewed where it needs its home. An acquire sends its dirty bytes home
first: what it returns, every agent can see (R302). -/
def State.readyEntry (s : State) (n : Nat) (acq : Bool) (x : Window) (k line : Nat) : State :=
  if s.needsHome n acq x k then
    let s := if acq then s.backEntry n x k else s
    match (s.core n).window x.task x.soff with
    | some x => s.fillEntry n x k line
    | none => s
  else match find x.entries k with
    | some e => s.modCore n fun c => { c with ct := max c.ct e.cwts }
    | none => s

/-- Write bytes at offset r of a window: dirty bytes of its entry. The bytes lie in one granule of 16. -/
def Core.writeEntry (c : Core) (x : Window) (r : Nat) (bs : List Byte) : Core :=
  let c := c.putStash ((c.run x.task).base + x.place r) bs
  let half := halvesCovered (r % 128) bs.length (r % 128 / 32)
  c.modWindow x.task x.soff fun x => { x with entries := upd ⟨0, [], 0, 0, 0, []⟩ x.entries (r / 128) fun e =>
      { e with dirty := (List.range bs.length).foldl (fun t i => put false t (r % 128 + i) true) e.dirty
               full := upd 0 e.full (r % 128 / 32) fun h => h ||| half } }

/-- The exclusive lease of core n on a line that its L1 does not hold ends (R281). -/
def State.endLease (s : State) (n pl : Nat) : State :=
  let h := s.homeSlice pl
  if (find (s.core n).l1 pl).isNone && find (s.slice h).leases pl == some n then
    s.modSlice h fun x => { x with leases := del x.leases pl }
  else s

/-- Remove a window after writing it back (R192); a run issued under it writes past whatever follows (R370). -/
def State.unmap (s : State) (n : Nat) (x : Window) : State :=
  let s := (s.backWindow n x).modCore n fun c =>
    { c with
      windows := c.windows.filter fun y => !(y.task == x.task && y.soff == x.soff)
      runs := c.runs.map fun e =>
        (e.1, if e.2.task = x.task then { e.2 with wins := e.2.wins.filter fun k => k ≠ x.soff } else e.2) }
  x.entries.foldl (fun s e => s.endLease n (s.fwd (e.2.line * 128) / 128)) s

/-! ### Where an access lands -/

/-- A lane's access meets a translation fault, or a trap. -/
inductive Stop where
  | fault (acc : Acc) (x : XFault) (va : DWord)
  | trap (t : Trap)
  /-- No route to the home slice is open: the access waits (R16, R430, R431). -/
  | held
  deriving DecidableEq, Repr

/-- Who accesses: the core, its address space and privilege, the warp, and whether reads acquire. -/
structure Ax where
  x : XCx
  w : Warp
  acq : Bool
  /-- A unit of the device acts for the warp: its requests are performed at once (log entry 88). -/
  agent : Bool := false
  deriving DecidableEq, Repr

def Ax.n (a : Ax) : Nat := a.x.core

/-- The access context of the issue under way. -/
def State.ax (s : State) (acq : Bool) : Ax :=
  { x := { core := s.cur.who.core, ptroot := s.warp.ptroot, asid := s.warp.asid, user := s.cur.front == .user },
    w := s.warp, acq := acq }

/-- Where the bytes of one part of an access are: memory, an entry of a window at offset r, or stash bytes. -/
inductive Spot where
  | mem (x : Xlat)
  | entry (soff r : Nat)
  | raw (a : Nat)
  deriving DecidableEq, Repr

/-- One part of an access: at its virtual address or stash offset, at byte `at_` of the data. -/
structure Part where
  addr : Nat
  at_ : Nat
  n : Nat
  deriving DecidableEq, Repr

/-- The parts of an access of n bytes: one where it is aligned, else one for each aligned granule (R180). -/
def splitAcc (a n : Nat) : List Part :=
  if a % n = 0 then [⟨a, 0, n⟩]
  else
    let k := 16 - a % 16
    if n ≤ k then [⟨a, 0, n⟩] else [⟨a, 0, k⟩, ⟨a + k, k, n - k⟩]

/-- Fates of an access to physical memory: the control space (R341), and data no access may have (R397). `whole`
is the size when the access is aligned, else 0. -/
def State.spotStop (s : State) (a : Ax) (indiv : Bool) (acc : Acc) (whole : Nat) (x : Xlat) (m : Nat) :
    Option Trap :=
  if (s.place x.pa).isControl then
    if indiv then some ⟨0x15, 3⟩
    else if whole ≠ 4 ∧ whole ≠ 8 then some ⟨0x15, 1⟩
    else if a.x.user then some ⟨0x15, 2⟩
    else none
  else if (s.place x.pa).isPort then none
  else match s.barred x.pa m with
    | some k => some ⟨0x14, k⟩
    | none =>
      -- an L1 copy that serves a load is judged by its own poison, SUB 3; else memory is
      match (if acc = .read then s.l1Hit a.n x.mt a.acq (s.fwd x.pa) else none) with
      | some y => if poisonedAt y.poison (s.fwd x.pa) m then some ⟨0x14, 3⟩ else none
      | none => if acc = .write then none else (s.badData x.pa m).map fun k => ⟨0x14, k⟩

/-- Poison found in stash bytes (R397, SUB 3). -/
def State.stashStop (s : State) (n a m : Nat) : Option Trap :=
  if poisonedAt (s.core n).stashPoison a m then some ⟨0x14, 3⟩ else none

/-- The window of the task that holds an address, for a warp it serves. -/
def Core.windowAt (c : Core) (w : Warp) (va : Nat) : Option Window :=
  c.windows.find? fun x => x.hasVa va && x.serves w

/-- Entry bytes ready: the entry of window x at offset r, with the line that its first access translates and the LCL of
that translation. The parcel of the line may bar it (R419, R420); it waits for a way to the home where it needs one. -/
def State.entrySpot (s : State) (a : Ax) (acc : Acc) (read : Bool) (x : Window) (r m line lcl : Nat) : Except Stop Spot × State :=
  let at_ := match find x.entries (r / 128) with | some e => e.line | none => line
  let acq := a.acq || acc == .rmw
  let push := acq && match find x.entries (r / 128) with | some e => !e.dirty.isEmpty | none => false
  match s.barred (at_ * 128) 128 with
  | some k => (.error (.trap ⟨0x14, k⟩), s)
  | none =>
    if !a.agent && s.needsHome a.n acq x (r / 128) && s.wayCut a.n (at_ * 128) push then (.error .held, s)
    else
      let s := ((s.carry lcl).readyEntry a.n acq x (r / 128) line).carry 0
      match (if read then s.stashStop a.n (((s.core a.n).run x.task).base + x.place r) m else none) with
      | some t => (.error (.trap t), s)
      | none => (.ok (.entry x.soff r), s)

/-- The network interface that answers for a device space of this device, seen from core n: a core's, a router's or a slice's
own block, else the units of the core's die (R327, R340). -/
def State.spaceUnit (s : State) (n pa : Nat) : Option Nat :=
  let o := localOf pa - 0x180000000000
  match s.place pa with
  | .control =>
    some (if 0x10020000 ≤ o ∧ o < 0x100A0000 then (o - 0x10020000) / 4096
      else if 0x100A0000 ≤ o ∧ o < 0x100E0000 then 128 + (o - 0x100A0000) / 4096 * 2
      else if 0x100E0000 ≤ o ∧ o < 0x10160000 then 128 + (o - 0x100E0000) / 4096
      else 128 + n / 64 * 64)
  | .port => some (128 + (localOf pa - 0x100000000000) / 2 ^ 42 % 2 * 64)
  | .peerPort | .peerControl => some (128 + n / 64 * 64)
  | _ => none

/-- An access of core n must go to a home slice or a unit, and the way there is not open. A load that its L1 serves does
not go there. -/
def State.cutOff (s : State) (a : Ax) (acc : Acc) (x : Xlat) : Bool :=
  !a.agent && !(acc == .read && (s.l1Hit a.n x.mt a.acq (s.fwd x.pa)).isSome) &&
    (s.wayCut a.n x.pa (acc != .read) || match s.spaceUnit a.n x.pa with | some u => !s.reaches a.n u | none => false)

/-- A translation that failed stops the access with its fault, or lets it wait. -/
def XFault.stop (f : XFault) (acc : Acc) (va : Nat) : Stop :=
  if f.waits then .held else .fault acc f (BitVec.ofNat 64 va)

/-- Where one part at a virtual address lands, after every check it meets. `refuse`: an ATOM minor that type 10 does not
take (R282). -/
def State.spotVa (s : State) (a : Ax) (acc : Acc) (indiv : Bool) (whole : Nat) (p : Part) (refuse : Bool := false) :
    Except Stop Spot × State :=
  match s.translate a.x acc p.addr with
  | (.error f, s) => (.error (f.stop acc p.addr), s)
  | (.ok x, s) =>
    let s := s.peerNews x.pa
    if indiv && (s.place x.pa).isControl then (.error (.trap ⟨0x15, 3⟩), s)
    else if refuse && x.mt == 2 then (.error (.fault acc ⟨x.level, 8⟩ (BitVec.ofNat 64 p.addr)), s)
    else
      let w := if x.mt = 2 then none else (s.core a.n).windowAt a.w p.addr
      let here := match w with | some w => (find w.entries ((p.addr - w.wva) / 128)).isSome | none => false
      let stop := if here then none else s.spotStop a indiv acc whole x p.n
      -- a refusal of the control space needs no way to it
      if !here && !(stop.isSome && (s.place x.pa).isControl) && s.cutOff a acc x then (.error .held, s)
      else match stop, w with
        | some t, _ => (.error (.trap t), s)
        | none, some w => s.entrySpot a acc (acc ≠ .write) w (p.addr - w.wva) p.n (x.pa / 128) x.lcl
        | none, none => (.ok (.mem x), s)

/-- Where one part at a stash offset lands (R188, R190, R191, R306). -/
def State.spotOff (s : State) (a : Ax) (acc : Acc) (p : Part) : Except Stop Spot × State :=
  let c := s.core a.n
  let base := (c.run a.w.task).base
  let raw (q : Nat) : Except Stop Spot × State :=
    match (if acc = .read then s.stashStop a.n (base + q) p.n else none) with
    | some t => (.error (.trap t), s)
    | none => (.ok (.raw (base + q)), s)
  match c.windows.find? fun x => x.task == a.w.task && x.hasOff p.addr with
  | none => raw p.addr
  | some w =>
    let r := p.addr - w.soff
    if !w.serves a.w then raw (w.place r)
    else if acc = .read ∧ (find w.entries (r / 128)).isSome then s.entrySpot a acc true w r p.n 0 0
    else
      match s.translate a.x acc (w.wva + r) with
      | (.error f, s) => (.error (f.stop acc (w.wva + r)), s)
      | (.ok x, s) =>
        if x.mt = 2 then raw (w.place r)
        else
          let s := s.peerNews x.pa
          let here := (find w.entries (r / 128)).isSome
          if !here && s.cutOff a acc x then (.error .held, s)
          else match (if here then none else s.spotStop a false acc 4 x p.n) with
            | some t => (.error (.trap t), s)
            | none => s.entrySpot a acc (acc = .read) w r p.n (x.pa / 128) x.lcl

/-- Resolve every part in turn; the first that stops decides. -/
def resolve (f : State → Part → Except Stop Spot × State) :
    List Part → State → Except Stop (List (Part × Spot)) × State
  | [], s => (.ok [], s)
  | p :: ps, s =>
    match f s p with
    | (.error e, s) => (.error e, s)
    | (.ok q, s) =>
      match resolve f ps s with
      | (.error e, s) => (.error e, s)
      | (.ok qs, s) => (.ok ((p, q) :: qs), s)

/-- The spots of an access at a virtual address. -/
def State.spots (s : State) (a : Ax) (acc : Acc) (va n : Nat) : Except Stop (List (Part × Spot)) × State :=
  resolve (fun s p => s.spotVa a acc false (if va % n = 0 then n else 0) p) (splitAcc va n) s

/-- The spots of an access at a stash offset; past the task's bytes it stops (R188). -/
def State.spotsOff (s : State) (a : Ax) (acc : Acc) (o n : Nat) : Except Stop (List (Part × Spot)) × State :=
  if ((s.core a.n).run a.w.task).size < o + n then
    (.error (.trap ⟨0x11, if acc = .read then 1 else 2⟩), s)
  else resolve (fun s p => s.spotOff a acc p) (splitAcc o n) s

end Sys2Proof.Machine
end

