-- ==== Sys2Proof/Machine/Access.lean ====
section
/-! DEFINITION. Reading and writing the bytes an access lands on, and the frames of the memory instructions (R179–R183,
R341, R353, R384, R399). -/

namespace Sys2Proof.Machine

/-! ### Bytes -/

def ctlOff (pa : Nat) : Nat := localOf pa - 0x180000000000

/-- n bytes of the control space, read by an agent of die d; n is 4 or 8. -/
def State.ctlBytes (s : State) (d pa n : Nat) : List Byte :=
  let o := ctlOff pa
  toBytes 4 (s.ctlWord d o).toNat ++ (if n = 8 then toBytes 4 (s.ctlWord d (o + 4)).toNat else [])

/-- A write of 4 or 8 bytes to the control space: the high half first, so that the low half acts with it; TIMESET
takes 8 bytes alone (R341, R344). -/
def State.setCtlBytes (s : State) (d pa : Nat) (bs : List Byte) : State :=
  let o := ctlOff pa
  let x : DWord := BitVec.ofNat 64 (ofBytes bs)
  if o / 8 = 0x101A0040 / 8 then (if bs.length = 8 then s.push (.timeset x) else s)
  else if bs.length = 8 then (s.setCtlWord d (o + 4) (hi32 x)).setCtlWord d o (lo32 x)
  else s.setCtlWord d o (lo32 x)

/-- Which root port owns a window address (R353). -/
def portOf (pa : Nat) : Nat := (localOf pa - 0x100000000000) / 2 ^ 40

def State.portUp (s : State) (p : Nat) : Bool := look false s.io.portUp p

/-- A read through root port p came to nothing: completion timeout 14, completer abort 15, unsupported request 20 or a
poisoned completion 12 (the status bits of the PCI Express specification; R441, log entry 40). -/
def State.portFailed (s : State) (p sub : Nat) : State :=
  s.append { sev := .contained, src := 5, cause := 0x3B, sub := sub, unit := p }

/-- A lane's request for m bytes through a root-port window, as the packets es: the completer's bytes, or all ones with
a record where no good completion comes (R282, R353, R441). -/
def State.portAsk (s : State) (pa m : Nat) (es : List Emit) : List Byte × State :=
  let p := portOf pa
  let s' := { es.foldl State.emit s with draw := s.draw + 1 }
  if !s.portUp p then (List.replicate m 0xFF, s.portFailed p 20)
  else if Config.choice s.draw 980000 % 2 = 1 then
    (List.replicate m 0xFF, s'.portFailed p (pickFrom (Config.choice s.draw 985000) 14 [15, 20, 12]))
  else ((List.range m).map fun i => Config.portByte (pa + i) s.draw, s')

/-- A lane's read through a root-port window. -/
def State.portRead (s : State) (pa m : Nat) : List Byte × State :=
  s.portAsk pa m ((smallParts 16 (localOf pa) m).map fun e => .tlpRead (portOf pa) (BitVec.ofNat 64 e.1) e.2)

/-- A write through a root-port window; it is dropped while the link is down. -/
def State.portWrite (s : State) (pa : Nat) (bs : List Byte) : State :=
  if !s.portUp (portOf pa) then s
  else (smallParts 16 (localOf pa) bs.length).foldl (fun s e =>
    s.emit (.tlpWrite (portOf pa) (BitVec.ofNat 64 e.1) ((bs.drop (e.1 - localOf pa)).take e.2))) s

/-- A read of a device space by core n: its clock takes the times that writes to these spaces carried (R309). -/
def State.devSaw (s : State) (n : Nat) : State := s.acquire n s.devTime

/-- A write to a device space by core n carries its clock. -/
def State.devGave (s : State) (n : Nat) : State := { s with devTime := max s.devTime (s.core n).ct }

/-- Bytes of a plain access by core n at a translated address; a peer's devices answer with bytes of their own. -/
def State.physRead (s : State) (n : Nat) (x : Xlat) (acq : Bool) (m : Nat) : List Byte × State :=
  match s.place x.pa with
  | .control => (s.ctlBytes (n / 64) x.pa m, (s.cfgAsk (ctlOff x.pa) m).devSaw n)
  | .port =>
    let (bs, s) := s.portRead x.pa m
    (bs, s.devSaw n)
  | .peerPort | .peerControl =>
    ((List.range m).map fun i => Config.peerByte (x.pa + i) s.draw,
      ({ (smallParts 16 x.pa m).foldl (fun s e => s.toHome e.1 (.read e.2)) s with draw := s.draw + 1 } : State).devSaw n)
  | _ =>
    let (bs, s) := (s.carry x.lcl).readMem n x.mt acq x.pa m
    (bs, s.carry 0)

def State.physWrite (s : State) (n : Nat) (x : Xlat) (bs : List Byte) : State :=
  match s.place x.pa with
  | .control => (s.setCtlBytes (n / 64) x.pa bs).devGave n
  | .port => (s.portWrite x.pa bs).devGave n
  | .peerPort | .peerControl =>
    ((smallParts 16 x.pa bs.length).foldl (fun s e =>
      s.toHome e.1 (.write ((bs.drop (e.1 - x.pa)).take e.2) [])) s).devGave n
  | _ => ((s.carry x.lcl).writeMem n x.mt x.pa bs).carry 0

/-- The bytes at one spot. -/
def State.readSpot (s : State) (a : Ax) (m : Nat) : Spot → List Byte × State
  | .mem x => s.physRead a.n x a.acq m
  | .raw q => (getBytes (s.core a.n).stash q m, s)
  | .entry soff r =>
    let c := s.core a.n
    match c.window a.w.task soff with
    | some x => (getBytes c.stash ((c.run a.w.task).base + x.place r) m, s)
    | none => (List.replicate m 0, s)

def State.readSpots (s : State) (a : Ax) : List (Part × Spot) → List Byte × State
  | [] => ([], s)
  | (p, q) :: ps =>
    let (bs, s) := s.readSpot a p.n q
    let (cs, s) := s.readSpots a ps
    (bs ++ cs, s)

def State.writeSpot (s : State) (a : Ax) (bs : List Byte) : Spot → State
  | .mem x => s.physWrite a.n x bs
  | .raw q => s.modCore a.n fun c => c.putStash q bs
  | .entry soff r =>
    match (s.core a.n).window a.w.task soff with
    | some x => s.modCore a.n fun c => c.writeEntry x r bs
    | none => s

def State.writeSpots (s : State) (a : Ax) (bs : List Byte) (ps : List (Part × Spot)) : State :=
  ps.foldl (fun s e => s.writeSpot a ((bs.drop e.1.at_).take e.1.n) e.2) s

/-- Load n bytes at a virtual address, or at a stash offset. -/
def State.load (s : State) (a : Ax) (stash : Bool) (x n : Nat) : Except Stop (List Byte) × State :=
  match (if stash then s.spotsOff a .read x n else s.spots a .read x n) with
  | (.error e, s) => (.error e, s)
  | (.ok ps, s) =>
    let (bs, s) := s.readSpots a ps
    (.ok bs, s)

/-- Store bytes at a virtual address, or at a stash offset. -/
def State.store (s : State) (a : Ax) (stash : Bool) (x : Nat) (bs : List Byte) : Option Stop × State :=
  match (if stash then s.spotsOff a .write x bs.length else s.spots a .write x bs.length) with
  | (.error e, s) => (some e, s)
  | (.ok ps, s) => (none, s.writeSpots a bs ps)

/-! ### Lanes -/

/-- Lane l takes what stopped its access (R375, R399); one whose access waits stands at the instruction and makes it
again. -/
def State.stopAt (s : State) (e : Stop) (k : Tops) (l : Nat) : State :=
  match e with
  | .fault acc x va => s.faultLane acc x va k l
  | .trap t => s.trapLane t k l
  | .held => s

/-- Every active lane acts in ascending order; a lane that stops takes its fault or trap and does not advance. -/
def laneLoop (x : Issue) (f : Nat → State → Option Stop × State) (s : State) : Done :=
  let r := (lanesOf x.act).foldl (fun (acc : Mask × State) l =>
    match f l acc.2 with
    | (none, s) => (acc.1 ||| laneBit l, s)
    | (some e, s) => (acc.1, s.stopAt e (x.cx.tops x.kinds l) l)) ((0 : Mask), s)
  { s := r.2.fqFlush s.cur.who.core (s.core s.cur.who.core).fqCount, adv := r.1 }

/-- Every active lane takes one stop (R384). -/
def stopAll (x : Issue) (e : Stop) (s : State) : Done :=
  let n := s.cur.who.core
  { s := ((lanesOf x.act).foldl (fun s l => s.stopAt e (x.cx.tops x.kinds l) l) s).fqFlush n (s.core n).fqCount, adv := 0 }

/-- An action made once per issue, not made when no lane is active. -/
def onceAct (f : Issue → State → Option Stop × State) (x : Issue) (s : State) : Done :=
  if x.act = 0 then { s := s, adv := 0 }
  else match f x s with
    | (none, s) => { s := s, adv := x.act }
    | (some e, s) => stopAll x e s

/-- A result of the issue in the lanes m is outstanding: its return is an event of the machine (R111). -/
def State.outstanding (s : State) (m : Mask) : State :=
  (s.owes m).push (.loadDataReturn s.cur.who ⟨s.cur.front, m⟩)

/-- The same where some lane has a result. -/
def Done.returns (d : Done) : Done := if d.adv = 0 then d else { d with s := d.s.outstanding d.adv }

/-- Lane l of the issuing warp changes. -/
def State.modLane (s : State) (l : Nat) (f : Lane → Lane) : State :=
  s.modWarp fun w => w.setLane l (f (w.lane l))

/-! ### Addresses and scopes -/

def moffVal : Sys2Proof.MOff → Int
  | .short o => o.toInt
  | .long o => o.toInt

/-- va(l) of R105. -/
def RdCx.va (cx : RdCx) (a : Src) (o : Int) (l : Nat) : Nat := truncI 64 ((cx.srcA l a .i64 : Int) + o)

def ordAcq : Sys2Proof.MOrd → Bool
  | .acq | .ar => true | _ => false
def ordRel : Sys2Proof.MOrd → Bool
  | .rel | .ar => true | _ => false

/-- Scopes whose release writes windows back (R306); `dev` where plain acts as device scope. -/
def scopeBacks (plainIsDev : Bool) : Sys2Proof.Scope → Bool
  | .plain => plainIsDev | .warp => false | _ => true

/-- The write-back that a release of warp w on core n demands, or what stops it: an entry's line whose parcel may not be
reached, with its SUB, its bytes given up (R419, R420), or a way to a home that is not open (R16, R313). -/
def State.releaseBy (s : State) (n : Nat) (w : Warp) : Option Stop × State :=
  let xs := (s.core n).windows.filter fun x => x.serves w
  match ((s.dirtyLines xs).filterMap fun pl => s.barred (pl * 128) 128).head? with
  | some k =>
    (some (.trap ⟨0x14, k⟩), xs.foldl (fun s x => (x.entries.filter fun e =>
      (s.barred (e.2.line * 128) 128).isSome).foldl (fun s e => s.backEntry n x e.1) s) s)
  | none => if s.backCut n xs then (some .held, s) else (none, s.backWarp n w)

/-- What an instruction's release order does before its access, or what stops it there. -/
def State.release (s : State) (plainIsDev : Bool) (sc : Scope) (rel : Bool) (act : Mask) : Option Stop × State :=
  if rel && scopeBacks plainIsDev sc && act != 0 then s.releaseBy s.cur.who.core s.warp else (none, s)

/-- An instruction after its release; every active lane takes what stops the release (R419). -/
def released (plainIsDev : Bool) (sc : Scope) (rel : Bool) (f : Issue → State → Done) (x : Issue) (s : State) : Done :=
  match s.release plainIsDev sc rel x.act with
  | (some e, s) => stopAll x e s
  | (none, s) => f x s

end Sys2Proof.Machine
end

