-- ==== Sys2Proof/Machine/Integer.lean ====
section
/-! DEFINITION. The integer, address and compare instructions, and their compact forms (R116, R130–R138, R156,
R176). -/

namespace Sys2Proof.Machine

/-! ### The frame of the integer family (R130, R131) -/

/-- An element as the exact integer it stands for. -/
def iRead (z : Bool) (n x : Nat) : Int := if z then ((x % 2 ^ n : Nat) : Int) else sextI n x

/-- What an element receives of an exact result. -/
def IMod.cut (m : IMod) (n : Nat) (t : Int) : Nat :=
  if m.sat then truncI n (if m.z then satZ n t else satS n t) else truncI n t

/-- The elements of a result, element by element. -/
def IMod.elems (m : IMod) (f : Nat → Int → Int → Int → Int) (x y z : Nat) : Nat :=
  let (n, e) := (IMod.kind m).elem
  mapElems n e fun j =>
    IMod.cut m n (f n (iRead m.z n (elemOf n j x)) (iRead m.z n (elemOf n j y)) (iRead m.z n (elemOf n j z)))

/-- The sources of a W form, the ones read each with its kind. -/
def wSrcs (o : WForm μ) (a b c : Option Kind) : SrcKinds :=
  { a := a.map (o.a, ·), b := b.map (o.b, ·), c := c.map (o.c, ·) }

/-- n registers of D receive f: per lane, or once in the uniform file (R103, R131). -/
def iWrite (ud : Bool) (d : BitVec 8) (n : Nat) (f : RdCx → Nat → Nat) (x : Issue) (w : Warp) : Warp :=
  if ud then (if x.act = 0 then w else w.wSs x.cx.front d.toNat n (f x.cx (lowLane x.act)))
  else w.onLanes x.act fun l y => y.wVs x.cx.front d.toNat n (f x.cx l)

/-- An integer instruction: the kinds of its sources, the registers of its result and the result. -/
def intInstr (i : Instr) (o : WForm IMod) (k : SrcKinds) (n : Nat) (f : RdCx → Nat → Nat) (s : State) : Result :=
  runInstr i o.g o.lit o.perm k noDyn (onWarp (iWrite o.m.ud o.d n f)) s

/-- Result registers of the kind. -/
def iRegs (o : WForm IMod) : Nat := (IMod.kind o.m).regs

/-- One, two and three sources of the instruction's kind, element by element. -/
def int1 (i : Instr) (o : WForm IMod) (f : Nat → Int → Int) (s : State) : Result :=
  let k := IMod.kind o.m
  intInstr i o (wSrcs o (some k) none none) (iRegs o)
    (fun cx l => IMod.elems o.m (fun n x _ _ => f n x) (cx.srcA l o.a k) 0 0) s
def int2 (i : Instr) (o : WForm IMod) (f : Nat → Int → Int → Int) (s : State) : Result :=
  let k := IMod.kind o.m
  intInstr i o (wSrcs o (some k) (some k) none) (iRegs o)
    (fun cx l => IMod.elems o.m (fun n x y _ => f n x y) (cx.srcA l o.a k) (cx.srcB l o.b k) 0) s
def int3 (i : Instr) (o : WForm IMod) (f : Nat → Int → Int → Int → Int) (s : State) : Result :=
  let k := IMod.kind o.m
  intInstr i o (wSrcs o (some k) (some k) (some k)) (iRegs o)
    (fun cx l => IMod.elems o.m f (cx.srcA l o.a k) (cx.srcB l o.b k) (cx.srcC l o.c k)) s

/-- An element read without its sign. -/
def uns (n : Nat) (x : Int) : Nat := truncI n x

/-! ### Arithmetic (R132) -/

def execIadd (o : WForm IMod) (s : State) : Result := int2 (.iadd o) o (fun _ x y => x + y) s
def execIsub (o : WForm IMod) (s : State) : Result := int2 (.isub o) o (fun _ x y => x - y) s
def execIadd3 (o : WForm IMod) (s : State) : Result := int3 (.iadd3 o) o (fun _ x y z => x + y + z) s
def execIneg (o : WForm IMod) (s : State) : Result := int1 (.ineg o) o (fun _ x => -x) s
def execIabs (o : WForm IMod) (s : State) : Result := int1 (.iabs o) o (fun _ x => (x.natAbs : Int)) s
def execImul (o : WForm IMod) (s : State) : Result := int2 (.imul o) o (fun _ x y => x * y) s
def execImulh (o : WForm IMod) (s : State) : Result :=
  int2 (.imulh o) o (fun n x y => (x * y) / (2 ^ n : Nat)) s
def execImad (o : WForm IMod) (s : State) : Result := int3 (.imad o) o (fun _ x y z => x * y + z) s
def execImin (o : WForm IMod) (s : State) : Result := int2 (.imin o) o (fun _ x y => min x y) s
def execImax (o : WForm IMod) (s : State) : Result := int2 (.imax o) o (fun _ x y => max x y) s

/-- The 64-bit kind of the third source and the result of IMADW. -/
def imadwResult (m : IMod) (x y z : Nat) : Nat :=
  IMod.cut m 64 (iRead m.z 32 x * iRead m.z 32 y + iRead m.z 64 z)

def execImadw (o : WForm IMod) (s : State) : Result :=
  intInstr (.imadw o) o (wSrcs o (some .i32) (some .i32) (some .i64)) 2
    (fun cx l => imadwResult o.m (cx.srcA l o.a .i32) (cx.srcB l o.b .i32) (cx.srcC l o.c .i64)) s

/-! ### Bitwise (R133) -/

def bit2 (f : Nat → Nat → Nat → Nat) (n : Nat) (x y : Int) : Int := (f n (uns n x) (uns n y) : Nat)

def execAnd (o : WForm IMod) (s : State) : Result := int2 (.and o) o (bit2 fun _ x y => x &&& y) s
def execOr (o : WForm IMod) (s : State) : Result := int2 (.or o) o (bit2 fun _ x y => x ||| y) s
def execXor (o : WForm IMod) (s : State) : Result := int2 (.xor o) o (bit2 fun _ x y => x ^^^ y) s
def execNot (o : WForm IMod) (s : State) : Result :=
  int1 (.not o) o (fun n x => ((2 ^ n - 1 - uns n x : Nat) : Int)) s
def execAndn (o : WForm IMod) (s : State) : Result :=
  int2 (.andn o) o (bit2 fun n x y => x &&& (2 ^ n - 1 - y)) s
def execOrn (o : WForm IMod) (s : State) : Result :=
  int2 (.orn o) o (bit2 fun n x y => x ||| (2 ^ n - 1 - y)) s

/-! ### Shifts (R134) -/

/-- x rotated left by r within n bits. -/
def rotl (n x r : Nat) : Nat := (x * 2 ^ (r % n) + x / 2 ^ (n - r % n)) % 2 ^ n

/-- bits(concat(x, z) × 2^(y mod n), 2n − 1, n). -/
def fshl (n x z y : Nat) : Nat := (x * 2 ^ n + z) * 2 ^ (y % n) / 2 ^ n % 2 ^ n
def fshr (n x z y : Nat) : Nat := (z * 2 ^ n + x) / 2 ^ (y % n) % 2 ^ n

def execShl (o : WForm IMod) (s : State) : Result :=
  int2 (.shl o) o (fun n x y => x * (2 ^ min (uns n y) n : Nat)) s
def execShr (o : WForm IMod) (s : State) : Result :=
  int2 (.shr o) o (fun n x y => ((uns n x / 2 ^ min (uns n y) n : Nat) : Int)) s
def execSar (o : WForm IMod) (s : State) : Result :=
  int2 (.sar o) o (fun n x y => sextI n (uns n x) / (2 ^ min (uns n y) n : Nat)) s
def execRotl (o : WForm IMod) (s : State) : Result := int2 (.rotl o) o (bit2 fun n x y => rotl n x y) s
def execRotr (o : WForm IMod) (s : State) : Result :=
  int2 (.rotr o) o (bit2 fun n x y => rotl n x (n - y % n)) s
def execFshl (o : WForm IMod) (s : State) : Result :=
  int3 (.fshl o) o (fun n x y z => (fshl n (uns n x) (uns n z) (uns n y) : Nat)) s
def execFshr (o : WForm IMod) (s : State) : Result :=
  int3 (.fshr o) o (fun n x y z => (fshr n (uns n x) (uns n z) (uns n y) : Nat)) s

/-! ### Fields and counts (R135) -/

/-- The field control of BFE and BFI: pos and len. -/
def fieldPos (y : Nat) : Nat := bitsN y 7 0
def fieldLen (n y : Nat) : Nat := min (bitsN y 15 8) n

def bfe (z : Bool) (n x y : Nat) : Int :=
  let pos := fieldPos y
  let len := fieldLen n y
  if len = 0 ∨ n ≤ pos then 0
  else
    let h := min (pos + len) n - 1
    iRead z (h - pos + 1) (bitsN x h pos)

def bfi (n x y z : Nat) : Nat :=
  let pos := fieldPos y
  let len := fieldLen n y
  if len = 0 ∨ n ≤ pos then z
  else
    let h := min (pos + len) n - 1
    z - bitsN z h pos * 2 ^ pos + bitsN x (h - pos) 0 * 2 ^ pos

def popCount (n x : Nat) : Nat := (List.range n).foldl (fun c i => c + x / 2 ^ i % 2) 0
def bitRev (n x : Nat) : Nat := (List.range n).foldl (fun c i => c + x / 2 ^ i % 2 * 2 ^ (n - 1 - i)) 0
/-- The number of the lowest 1 bit of n bits; n when there is none. -/
def lowestOne (n x : Nat) : Nat := ((List.range n).find? fun i => x / 2 ^ i % 2 = 1).getD n

def bit1 (f : Nat → Nat → Nat) (n : Nat) (x : Int) : Int := (f n (uns n x) : Nat)

def execBfe (o : WForm IMod) (s : State) : Result :=
  int2 (.bfe o) o (fun n x y => bfe o.m.z n (uns n x) (uns n y)) s
def execBfi (o : WForm IMod) (s : State) : Result :=
  int3 (.bfi o) o (fun n x y z => (bfi n (uns n x) (uns n y) (uns n z) : Nat)) s
def execPopc (o : WForm IMod) (s : State) : Result := int1 (.popc o) o (bit1 popCount) s
def execClz (o : WForm IMod) (s : State) : Result := int1 (.clz o) o (bit1 fun n x => n - bitLen x) s
def execBrev (o : WForm IMod) (s : State) : Result := int1 (.brev o) o (bit1 bitRev) s
def execFfs (o : WForm IMod) (s : State) : Result := int1 (.ffs o) o (bit1 lowestOne) s

/-! ### Addresses (R136) -/

def execLea (o : WForm IMod) (s : State) : Result :=
  intInstr (.lea o) o (wSrcs o (some .i64) (some .i32) (some .i32)) 2
    (fun cx l => truncI 64 ((cx.srcA l o.a .i64 : Int) +
      iRead o.m.z 32 (cx.srcB l o.b .i32) * (2 ^ (cx.srcC l o.c .i32 % 64) : Nat))) s
/-- LEAW ignores Z (log entry 89). -/
def execLeaw (o : WForm IMod) (s : State) : Result :=
  intInstr (.leaw o) o (wSrcs o (some .i64) (some .i64) (some .i32)) 2
    (fun cx l => (cx.srcA l o.a .i64 + cx.srcB l o.b .i64 * 2 ^ (cx.srcC l o.c .i32 % 64)) % 2 ^ 64) s

/-! ### Comparison and choice (R137, R138) -/

def ICond.holds : ICond → Int → Int → Bool
  | .eq, x, y => x == y | .ne, x, y => x != y | .lt, x, y => decide (x < y)
  | .le, x, y => decide (x ≤ y) | .gt, x, y => decide (y < x) | .ge, x, y => decide (y ≤ x)

/-- A predicate per active lane. -/
def pWrite (d : BitVec 8) (f : RdCx → Nat → Bool) (x : Issue) (w : Warp) : Warp :=
  w.onLanes x.act fun l y => y.wP x.cx.front d.toNat (f x.cx l)

def execIcmp (cc : ICond) (o : WForm IMod) (s : State) : Result :=
  let k := IMod.kind o.m
  let n := k.elem.1
  runInstr (.icmp cc o) o.g o.lit o.perm (wSrcs o (some k) (some k) none) noDyn
    (onWarp (pWrite o.d fun cx l =>
      ICond.holds cc (iRead o.m.z n (cx.srcA l o.a k)) (iRead o.m.z n (cx.srcB l o.b k)))) s

def execSel (o : WForm IMod) (s : State) : Result :=
  let k := IMod.kind o.m
  intInstr (.sel o) o (wSrcs o (some k) (some k) (some .i32)) (iRegs o)
    (fun cx l => if cx.srcC l o.c .i32 = 1 then cx.srcA l o.a k else cx.srcB l o.b k) s

/-! ### Division (R176) -/

/-- The kind that field C names: width and sign. -/
def divKind (c : Src) : Kind := if 2 ≤ c.code.toNat then .i64 else .i32

/-- Quotient and remainder of R176, as n-bit values. -/
def divide (n : Nat) (signed : Bool) (x y : Nat) : Nat × Nat :=
  let a := iRead (!signed) n x
  let b := iRead (!signed) n y
  if b = 0 then (2 ^ n - 1, x % 2 ^ n) else (truncI n (a.tdiv b), truncI n (a.tmod b))

/-- IDIV and IREM as an implementation that has them executes them; on this part both take the
unimplemented-instruction trap, which the frame raises first (R119, R120). -/
def divInstr (i : Instr) (o : WForm NoMod) (f : Nat × Nat → Nat) (s : State) : Result :=
  let k := divKind o.c
  let signed := o.c.code.toNat % 2 == 0
  runInstr i o.g o.lit o.perm (wSrcs o (some k) (some k) none) noDyn
    (onWarp (iWrite false o.d k.regs fun cx l =>
      f (divide k.elem.1 signed (cx.srcA l o.a k) (cx.srcB l o.b k)))) s

def execIdiv (o : WForm NoMod) (s : State) : Result := divInstr (.idiv o) o (·.1) s
def execIrem (o : WForm NoMod) (s : State) : Result := divInstr (.irem o) o (·.2) s

/-! ### Compact forms (R116, R156) -/

def c16Guard (o : C16) : Guard := { sw := o.sw, pn := false, pi := 7 }
def c16Reg (r : BitVec 5) : Src := .v (r.setWidth 8)

/-- A compact operation on two registers with kind k. -/
def c16Kinds (o : C16) (k : Kind) : SrcKinds :=
  { a := some (c16Reg o.vd, k), b := some (c16Reg o.vs, k) }

/-- A compact integer operation: kind .s32, no SAT. -/
def intC16 (i : Instr) (o : C16) (f : Int → Int → Int) (s : State) : Result :=
  runInstr i (c16Guard o) none .none (c16Kinds o .i32) noDyn
    (onWarp (iWrite false (o.vd.setWidth 8) 1 fun cx l =>
      truncI 32 (f (sextI 32 (cx.srcA l (c16Reg o.vd) .i32)) (sextI 32 (cx.srcB l (c16Reg o.vs) .i32))))) s

def execIaddC16 (o : C16) (s : State) : Result := intC16 (.iaddC16 o) o (fun x y => x + y) s
def execIsubC16 (o : C16) (s : State) : Result := intC16 (.isubC16 o) o (fun x y => x - y) s
def execAndC16 (o : C16) (s : State) : Result := intC16 (.andC16 o) o (bit2 (fun _ x y => x &&& y) 32) s
def execOrC16 (o : C16) (s : State) : Result := intC16 (.orC16 o) o (bit2 (fun _ x y => x ||| y) 32) s
def execXorC16 (o : C16) (s : State) : Result := intC16 (.xorC16 o) o (bit2 (fun _ x y => x ^^^ y) 32) s
def execShlC16 (o : C16) (s : State) : Result :=
  intC16 (.shlC16 o) o (fun x y => x * (2 ^ min (uns 32 y) 32 : Nat)) s
def execShrC16 (o : C16) (s : State) : Result :=
  intC16 (.shrC16 o) o (fun x y => ((uns 32 x / 2 ^ min (uns 32 y) 32 : Nat) : Int)) s
def execSarC16 (o : C16) (s : State) : Result :=
  intC16 (.sarC16 o) o (fun x y => x / (2 ^ min (uns 32 y) 32 : Nat)) s
def execImulC16 (o : C16) (s : State) : Result := intC16 (.imulC16 o) o (fun x y => x * y) s
def execIminC16 (o : C16) (s : State) : Result := intC16 (.iminC16 o) o (fun x y => min x y) s
def execImaxC16 (o : C16) (s : State) : Result := intC16 (.imaxC16 o) o (fun x y => max x y) s

end Sys2Proof.Machine
end

