-- ==== Sys2Proof/Machine/Moves.lean ====
section
/-! DEFINITION. Predicate combinations and moves (R139–R141), and the compact MOV (R116). -/

namespace Sys2Proof.Machine

/-! ### Predicates (R139) -/

/-- A combination of one or two predicates, lane by lane. -/
def predInstr (i : Instr) (o : WForm NoMod) (b : Bool) (f : Bool → Bool → Bool) (s : State) : Result :=
  runInstr i o.g o.lit o.perm (wSrcs o (some .i32) (if b then some .i32 else none) none) noDyn
    (onWarp (pWrite o.d fun cx l => f (cx.srcA l o.a .i32 != 0) (b && cx.srcB l o.b .i32 != 0))) s

def execPand (o : WForm NoMod) (s : State) : Result := predInstr (.pand o) o true (fun x y => x && y) s
def execPor (o : WForm NoMod) (s : State) : Result := predInstr (.por o) o true (fun x y => x || y) s
def execPxor (o : WForm NoMod) (s : State) : Result := predInstr (.pxor o) o true (fun x y => x != y) s
def execPnot (o : WForm NoMod) (s : State) : Result := predInstr (.pnot o) o false (fun x _ => !x) s

/-! ### Moves (R140) -/

/-- V(D, l) := srcA(l, 32). -/
def moveV (d : BitVec 8) (a : Src) : Issue → State → Done :=
  onWarp (iWrite false d 1 fun cx l => cx.srcA l a .i32)

def execMov (o : WForm NoMod) (s : State) : Result :=
  runInstr (.mov o) o.g o.lit o.perm (wSrcs o (some .i32) none none) noDyn (moveV o.d o.a) s

def execMovN32 (o : N32) (s : State) : Result :=
  runInstr (.movN32 o) o.g none .none { a := some (o.a, .i32) } noDyn (moveV o.d o.a) s

/-- U(D) := srcA of the lowest-numbered active lane. -/
def execMovu (o : WForm NoMod) (s : State) : Result :=
  runInstr (.movu o) o.g o.lit o.perm (wSrcs o (some .i32) none none) noDyn
    (onWarp (iWrite true o.d 1 fun cx l => cx.srcA l o.a .i32)) s

def execMovp (o : WForm NoMod) (s : State) : Result :=
  runInstr (.movp o) o.g o.lit o.perm (wSrcs o (some .i32) none none) noDyn
    (onWarp (pWrite o.d fun cx l => cx.srcA l o.a .i32 != 0)) s

/-- The shadow register i of lane l (R54). -/
def RdCx.rX (cx : RdCx) (l i : Nat) : Word := (look zeroV (cx.w.lane l).x i).read cx.draw (choiceNo 3 l i)

def execXget (o : WForm NoMod) (s : State) : Result :=
  runInstr (.xget o) o.g o.lit o.perm {} noDyn
    (onWarp (iWrite false o.d 1 fun cx l => (cx.rX l o.a.code.toNat).toNat)) s

def execXput (o : WForm NoMod) (s : State) : Result :=
  runInstr (.xput o) o.g o.lit o.perm (wSrcs o (some .i32) none none) noDyn
    (onActive fun cx l y => y.wX cx.front o.d.toNat (BitVec.ofNat 32 (cx.srcA l o.a .i32))) s

/-- The compact MOV; OP 0 with VD = VS reads and writes nothing (R116). -/
def execMovC16 (o : C16) (s : State) : Result :=
  runInstr (.movC16 o) (c16Guard o) none .none
    (if o.vd = o.vs then {} else { a := some (c16Reg o.vs, .i32) }) noDyn
    (if o.vd = o.vs then fun x s => { s := s, adv := x.act } else moveV (o.vd.setWidth 8) (c16Reg o.vs)) s

/-! ### Descriptors through uniform registers (R141) -/

/-- The value of a tile or accumulator descriptor as this issue reads it (R29, R112). -/
def RdCx.rT (cx : RdCx) (i : Nat) : Desc128 := (look zeroD cx.w.t i).read cx.draw (choiceNo 4 0 i)
def RdCx.rA (cx : RdCx) (i : Nat) : Desc128 := (look zeroD cx.w.a i).read cx.draw (choiceNo 4 0 (16 + i))

/-- The quadruple that starts at a uniform code. -/
def RdCx.quad (cx : RdCx) (c : Src) : Desc128 := BitVec.ofNat 128 (cx.fetchN 0 0 0 c .i32 4)

/-- A write made once for the issue. -/
def onceInstr (i : Instr) (o : WForm NoMod) (k : SrcKinds) (f : RdCx → Warp → Warp) (s : State) : Result :=
  runInstr i o.g o.lit o.perm k noDyn (onceIf fun x w => f x.cx w) s

def execTget (o : WForm NoMod) (s : State) : Result :=
  onceInstr (.tget o) o {} (fun cx w => w.wSs cx.front o.d.toNat 4 (cx.rT o.a.code.toNat).toNat) s
def execTset (o : WForm NoMod) (s : State) : Result :=
  onceInstr (.tset o) o (wSrcs o (some .i32) none none) (fun cx w => w.wT cx.front o.d.toNat (cx.quad o.a)) s
def execAget (o : WForm NoMod) (s : State) : Result :=
  onceInstr (.aget o) o {} (fun cx w => w.wSs cx.front o.d.toNat 4 (cx.rA o.a.code.toNat).toNat) s
def execAset (o : WForm NoMod) (s : State) : Result :=
  onceInstr (.aset o) o (wSrcs o (some .i32) none none) (fun cx w => w.wA cx.front o.d.toNat (cx.quad o.a)) s

end Sys2Proof.Machine
end

