-- ==== Sys2Proof/Machine/Sfu.lean ====
section
/-! DEFINITION. The special functions of R164–R166: the special values, the exact cases, and elsewhere the
machine's own approximation, a free value held to the bound of R165. A reference value computed with more than
60 bits judges the bound and stands in where the free value breaks it (log entry 12). -/

namespace Sys2Proof.Machine

inductive SfuOp where | rcp | rsq | ex2 | lg2 | sin | cos | tanh
  deriving DecidableEq, Repr

def SfuOp.code : SfuOp → Nat
  | .rcp => 0 | .rsq => 1 | .ex2 => 3 | .lg2 => 4 | .sin => 5 | .cos => 6 | .tanh => 7

/-- 2^f for the fraction f ÷ 2^80, scaled by 2^80. -/
def pow2Frac (f : Nat) : Nat :=
  let step := fun (acc : Nat × Nat) (i : Nat) =>
    let c := isqrt (acc.2 * 2 ^ 80)
    (if f.testBit (79 - i) then acc.1 * c / 2 ^ 80 else acc.1, c)
  ((List.range 80).foldl step (2 ^ 80, 2 ^ 81)).1

/-- 2^(x ÷ 2^80) as a magnitude and an exponent; the exponent is held within ±400. -/
def pow2Fix (x : Int) : Nat × Int :=
  let i := x / (2 ^ 80 : Nat)
  let f := (x % (2 ^ 80 : Nat)).toNat
  (pow2Frac f, max (-400) (min 400 i) - 80)

/-- (−1)^n × m × 2^e as an integer scaled by 2^p, cut towards zero. -/
def fixAt (p : Int) (n : Bool) (m : Nat) (e : Int) : Int :=
  let k : Nat := if 0 ≤ e + p then m * 2 ^ (e + p).toNat else m / 2 ^ (-(e + p)).toNat
  if n then -(k : Int) else k

/-- log₂ of m × 2^e, scaled by 2^70. -/
def log2Fix (m : Nat) (e : Int) : Int :=
  let k := Nat.log2 m
  let y := m * 2 ^ 140 / 2 ^ k
  let step := fun (acc : Nat × Nat) (_ : Nat) =>
    let y := acc.1 * acc.1 / 2 ^ 140
    if 2 ^ 141 ≤ y then (y / 2, 2 * acc.2 + 1) else (y, 2 * acc.2)
  (e + k) * (2 ^ 70 : Nat) + (((List.range 70).foldl step (y, 0)).2 : Nat)

/-- π × 2^100 (the bits of π, not a choice). -/
def piFix : Nat := 3982441812995697363688351113952

/-- The Taylor series of sine (`odd`) or cosine at r ÷ 2^100. -/
def taylor (odd : Bool) (r : Int) : Int :=
  let s : Int := (2 ^ 100 : Nat)
  let r2 := r * r / s
  let step := fun (acc : Int × Int) (k : Nat) =>
    let d : Int := if odd then (2 * k + 2) * (2 * k + 3) else (2 * k + 1) * (2 * k + 2)
    (acc.1 + acc.2, -(acc.2 * r2 / s) / d)
  ((List.range 46).foldl step (0, if odd then r else s)).1

/-- log₂ e × 2^90. -/
def log2eFix : Nat := 1785969955594906662541213686

/-- tanh of a positive x = m × 2^e: a magnitude scaled by 2^80. -/
def tanhFix (m : Nat) (e : Int) : Nat :=
  let x := fixAt 100 false m (min e 30)
  let t := 2 * x * (log2eFix : Int) / (2 ^ 110 : Nat)
  let (p, q) := pow2Fix (min t (70 * (2 ^ 80 : Nat)))
  let big := p * 2 ^ (q + 80).toNat
  (big - 2 ^ 80) * 2 ^ 80 / (big + 2 ^ 80)

/-- The exact result to more than 60 bits, for a finite nonzero input: sign, magnitude, exponent. -/
def sfuRef (op : SfuOp) (n : Bool) (m : Nat) (e : Int) : Bool × Nat × Int :=
  match op with
  | .rcp => (n, 2 ^ 200 / m, -200 - e)
  | .rsq =>
    let sh : Nat := if e % 2 = 0 then 300 else 301
    (false, isqrt (2 ^ sh / m), (-e - sh) / 2)
  | .ex2 =>
    -- just below 1 for a negative x that the scale cuts to 0
    let x := fixAt 80 n m (min e 30)
    if n && x == 0 then (false, 2 ^ 80 - 1, -80) else let (r, q) := pow2Fix x; (false, r, q)
  | .lg2 => let t := log2Fix m e; (decide (t < 0), t.natAbs, -70)
  | .sin =>
    -- x itself below 2^−34: the next term is below one part in 2^68 of it
    if e + (Nat.log2 m : Nat) < -34 then (n, m, e) else
    let r := (fixAt 100 false m e) % (2 * piFix : Nat)
    let t := taylor true (if (piFix : Int) < r then r - (2 * piFix : Nat) else r)
    (decide (t < 0) != n, t.natAbs, -100)
  | .cos =>
    let r := (fixAt 100 false m e) % (2 * piFix : Nat)
    let t := taylor false (if (piFix : Int) < r then r - (2 * piFix : Nat) else r)
    (decide (t < 0), t.natAbs, -100)
  | .tanh => (n, tanhFix m e, -80)

/-- The exponent of one ulp of F at a magnitude: the spacing of F there (R165). -/
def FloatFmt.ulpExp (F : FloatFmt) (m : Nat) (e : Int) : Int :=
  max (e + (Nat.log2 m : Nat)) (1 - (F.bias : Int)) - F.fbits

/-- The bound of R165 for FP32 as k × 2^q, at input m × 2^e and reference r × 2^f. -/
def sfuBound (op : SfuOp) (m : Nat) (e : Int) (r : Nat) (f : Int) : Nat × Int :=
  match op with
  | .rcp | .rsq => (1, fp32.ulpExp r f)
  | .ex2 | .tanh => (2, fp32.ulpExp r f)
  | .lg2 =>
    if cmpFin (.fin false 1 (-1)) (.fin false m e) ≤ 0 && cmpFin (.fin false m e) (.fin false 2 0) ≤ 0 then
      (1, -22)
    else (2, fp32.ulpExp r f)
  | .sin | .cos => (1, -21)

/-- How far below the bound, as a part 2^−g of it, a candidate stays that is taken: more than the reference's own error,
and for RCP and RSQ less than any candidate's distance from the bound. -/
def SfuOp.guardBits : SfuOp → Nat | .rcp | .rsq => 100 | _ => 30

/-- A finite candidate x lies within k × 2^q of the exact value whose reference is y. -/
def within (g : Nat) (x y : FVal) (k : Nat) (q : Int) : Bool :=
  match x, y with
  | .fin n1 m1 e1, .fin n2 m2 e2 =>
    let b := min (min e1 e2) (q - g)
    decide ((scaleTo n1 m1 e1 b - scaleTo n2 m2 e2 b).natAbs ≤ k * (2 ^ g - 1) * 2 ^ (q - g - b).toNat)
  | _, _ => false

/-- An approximation p keeps the bounds of R165 in format F: that for FP32, and in a packed form 1 ulp of F once p is
rounded. -/
def keepsBound (op : SfuOp) (F : FloatFmt) (m : Nat) (e : Int) (p : FVal) (s : Bool) (r : Nat) (f : Int) : Bool :=
  let (k, q) := sfuBound op m e r f
  within op.guardBits p (.fin s r f) k q &&
    (F.width == 32 || within op.guardBits (F.value (F.wr .rne false p).1) (.fin s r f) 1 (F.ulpExp r f))

/-- The FP32 approximation p of R165 for a finite nonzero input that is no exact case: the free value where it
keeps the bound, else the reference rounded. -/
def sfuApprox (op : SfuOp) (F : FloatFmt) (n : Bool) (m : Nat) (e : Int) : FVal :=
  let inBits := (fp32.round .rne false n m e false).bits
  let cand := fp32.value (Config.sfu op.code (BitVec.ofNat 32 inBits)).toNat
  let far := (op == .sin || op == .cos) && decide ((256 * piFix : Nat) < fixAt 100 false m (min e 30))
  if far then
    match cand with
    | .fin s k q => if cmpFin (.fin false k q) (.fin false 1 0) ≤ 0 then .fin s k q else .fin false 0 0
    | _ => .fin false 0 0
  else
    let (s, r, f) := sfuRef op n m e
    if keepsBound op F m e cand s r f then cand else .fin s r f

/-- The input is m × 2^e with m a power of two: its exponent. -/
def powerOf2 (m : Nat) (e : Int) : Option Int :=
  if m = 2 ^ Nat.log2 m then some (e + (Nat.log2 m : Nat)) else none

/-- The exact cases of R165 at a finite nonzero input; RCP's result is judged in FP32 (log entry 92). -/
def sfuExactCase (op : SfuOp) (n : Bool) (m : Nat) (e : Int) : Option FVal :=
  match op with
  | .rcp => (powerOf2 m e).bind fun j => if -127 < -j ∧ -j < 128 then some (.fin n 1 (-j)) else none
  | .rsq => (powerOf2 m e).bind fun j => if j % 2 = 0 then some (.fin false 1 (-(j / 2))) else none
  | .ex2 =>
    let (k, ix) := roundInt .rtz n m (min e 30)
    if !ix && decide (-149 ≤ k) && decide (k ≤ 127) then some (.fin false 1 k) else none
  | .lg2 => (powerOf2 m e).map fun j => .fin (decide (j < 0)) j.natAbs 0
  | .tanh => if cmpFin (.fin false m e) (.fin false 1 (-12)) ≤ 0 then some (.fin n m e) else none
  | _ => none

/-- The special values of R166, and DZ and NV. -/
def sfuSpecial (op : SfuOp) (x : FVal) : Option (FVal × Flags) :=
  match x with
  | .nan s => some (.nan false, fIf s fNV)
  | .inf n => match op with
    | .rcp => some (.fin n 0 0, 0)
    | .rsq => some (if n then (.nan false, fNV) else (.fin false 0 0, 0))
    | .ex2 => some (if n then (.fin false 0 0, 0) else (.inf false, 0))
    | .lg2 => some (if n then (.nan false, fNV) else (.inf false, 0))
    | .sin | .cos => some (.nan false, fNV)
    | .tanh => some (.fin n 1 0, 0)
  | .fin n m _ =>
    if m = 0 then match op with
      | .rcp | .rsq => some (.inf n, fDZ)
      | .ex2 => some (.fin false 1 0, 0)
      | .lg2 => some (.inf true, fDZ)
      | .sin | .tanh => some (.fin n 0 0, 0)
      | .cos => some (.fin false 1 0, 0)
    else if n then match op with
      | .rsq | .lg2 => some (.nan false, fNV)
      | _ => none
    else none

/-- One element of a special function (R165, R166); the exact TANH raises NX alone (log entry 93). -/
def sfuElem (op : SfuOp) (F : FloatFmt) (c : FCap) (b : Nat) : Nat × Flags :=
  let x := F.rd c.daz b
  match sfuSpecial op x with
  | some (v, fl) => let (r, _) := F.wr .rne false v; (r, fl)
  | none =>
    match x with
    | .fin n m e =>
      match sfuExactCase op n m e with
      | some v =>
        let (r, fl) := F.wr .rne c.ftz v
        (r, fl ||| fIf (op == .tanh) fNX)
      | none =>
        let p := sfuApprox op F n m e
        let p32 := fp32.wr .rne false p
        let (r, fl) := F.wr .rne c.ftz (if F.width = 32 then p else fp32.value p32.1)
        let fl := fl ||| p32.2
        let tiny := match p with | .fin s k q => (F.round .rne false s k q false).tiny | _ => false
        -- EX2 raises OF and UF as its exact result does (R165)
        if op = .ex2 then
          let (s, k, q) := sfuRef .ex2 n m e
          (r, (F.round .rne false s k q true).fl ||| fNX ||| fIf (c.ftz && F.flushes && tiny) fUF)
        else (r, fl ||| fNX ||| fIf tiny fUF)
    | _ => (F.canon, 0)

end Sys2Proof.Machine
end

