-- ==== Sys2Proof/Machine/Float.lean ====
section
/-! DEFINITION. The floating-point, special-function, conversion and block instructions, and the compact float
forms (R116, R157–R175, R177, R178, R383). -/

namespace Sys2Proof.Machine

/-! ### The frame of the float family (R158, R383) -/

/-- Every element of a result, with the flags of all (R158). -/
def mapElemsF (n count : Nat) (f : Nat → Nat × Flags) : Nat × Flags :=
  (List.range count).foldl
    (fun acc e => (acc.1 + (f e).1 % 2 ^ n * 2 ^ (n * e), acc.2 ||| (f e).2)) (0, 0)

/-- The lanes whose flags meet ARITHEN take the arithmetic trap; the others write and raise (R383). -/
def floatBody (res : RdCx → FCap → Nat → Nat × Flags) (write : RdCx → Nat → Nat → Lane → Lane) (x : Issue)
    (s : State) : Done :=
  let en := (s.core s.cur.who.core).arithen
  let r := res x.cx (FCap.ofFmode x.cx.w.fmode)
  let bad := maskOf ((lanesOf x.act).filter fun l => (r l).2 &&& en != 0)
  let ok := x.act &&& ~~~bad
  let fl := (lanesOf ok).foldl (fun acc l => acc ||| (r l).2) 0
  let s := s.modWarp fun w => (w.onLanes ok fun l y => write x.cx l (r l).1 y).raise x.cx.front fl
  { s := s.trapMask bad (fun l => ⟨0x06, (r l).2.toNat⟩) (x.cx.tops x.kinds), adv := ok }

/-- n registers of D receive the value. -/
def writeVs (d : BitVec 8) (n : Nat) (cx : RdCx) (_l : Nat) (v : Nat) (y : Lane) : Lane :=
  y.wVs cx.front d.toNat n v

def floatInstr (i : Instr) (o : WForm FMod) (k : SrcKinds) (f : RdCx → FCap → Rm → Nat → Nat × Flags)
    (s : State) : Result :=
  runInstr i o.g o.lit o.perm k noDyn
    (floatBody (fun cx c l => f cx c (rndMode c o.m.rnd) l) (writeVs o.d (FMod.kind o.m).regs)) s

/-- One, two and three sources, element by element. -/
def flt1 (i : Instr) (o : WForm FMod) (f : FloatFmt → FCap → Rm → Nat → Nat × Flags) (s : State) : Result :=
  let k := FMod.kind o.m
  floatInstr i o (wSrcs o (some k) none none)
    (fun cx c rm l => mapElemsF k.elem.1 k.elem.2 fun e =>
      f (fmtOf o.m.fmt) c rm (elemOf k.elem.1 e (cx.srcA l o.a k))) s
def flt2 (i : Instr) (o : WForm FMod) (f : FloatFmt → FCap → Rm → Nat → Nat → Nat × Flags) (s : State) :
    Result :=
  let k := FMod.kind o.m
  floatInstr i o (wSrcs o (some k) (some k) none)
    (fun cx c rm l => mapElemsF k.elem.1 k.elem.2 fun e =>
      f (fmtOf o.m.fmt) c rm (elemOf k.elem.1 e (cx.srcA l o.a k)) (elemOf k.elem.1 e (cx.srcB l o.b k))) s
def flt3 (i : Instr) (o : WForm FMod) (f : FloatFmt → FCap → Rm → Nat → Nat → Nat → Nat × Flags) (s : State) :
    Result :=
  let k := FMod.kind o.m
  floatInstr i o (wSrcs o (some k) (some k) (some k))
    (fun cx c rm l => mapElemsF k.elem.1 k.elem.2 fun e =>
      f (fmtOf o.m.fmt) c rm (elemOf k.elem.1 e (cx.srcA l o.a k)) (elemOf k.elem.1 e (cx.srcB l o.b k))
        (elemOf k.elem.1 e (cx.srcC l o.c k))) s

/-! ### Arithmetic (R161) -/

def execFadd (o : WForm FMod) (s : State) : Result :=
  flt2 (.fadd o) o (fun F c rm x y => fElem .add F c rm x y 0) s
def execFsub (o : WForm FMod) (s : State) : Result :=
  flt2 (.fsub o) o (fun F c rm x y => fElem .sub F c rm x y 0) s
def execFmul (o : WForm FMod) (s : State) : Result :=
  flt2 (.fmul o) o (fun F c rm x y => fElem .mul F c rm x y 0) s
def execFfma (o : WForm FMod) (s : State) : Result := flt3 (.ffma o) o (fElem .fma) s
def execFfms (o : WForm FMod) (s : State) : Result := flt3 (.ffms o) o (fElem .fms) s
def execFnma (o : WForm FMod) (s : State) : Result := flt3 (.fnma o) o (fElem .nma) s

/-! ### Minimum, maximum, comparison (R162, R163) -/

def execFmin (o : WForm FMod) (s : State) : Result :=
  flt2 (.fmin o) o (fun F c _ x y => fMinMax false F c x y) s
def execFmax (o : WForm FMod) (s : State) : Result :=
  flt2 (.fmax o) o (fun F c _ x y => fMinMax true F c x y) s

def execFcmp (cc : FCond) (o : WForm FMod) (s : State) : Result :=
  let k := FMod.kind o.m
  runInstr (.fcmp cc o) o.g o.lit o.perm (wSrcs o (some k) (some k) none) noDyn
    (floatBody
      (fun cx c l =>
        let r := fCompare cc (fmtOf o.m.fmt) c (cx.srcA l o.a k) (cx.srcB l o.b k)
        (if r.1 then 1 else 0, r.2))
      (fun cx _ v y => y.wP cx.front o.d.toNat (v != 0))) s

/-! ### Special functions (R164–R166) -/

def execRcp (o : WForm FMod) (s : State) : Result := flt1 (.rcp o) o (fun F c _ x => sfuElem .rcp F c x) s
def execRsq (o : WForm FMod) (s : State) : Result := flt1 (.rsq o) o (fun F c _ x => sfuElem .rsq F c x) s
def execSqrt (o : WForm FMod) (s : State) : Result :=
  flt1 (.sqrt o) o (fun F c rm x => fElem .sqrt F c rm x 0 0) s
def execEx2 (o : WForm FMod) (s : State) : Result := flt1 (.ex2 o) o (fun F c _ x => sfuElem .ex2 F c x) s
def execLg2 (o : WForm FMod) (s : State) : Result := flt1 (.lg2 o) o (fun F c _ x => sfuElem .lg2 F c x) s
def execSin (o : WForm FMod) (s : State) : Result := flt1 (.sin o) o (fun F c _ x => sfuElem .sin F c x) s
def execCos (o : WForm FMod) (s : State) : Result := flt1 (.cos o) o (fun F c _ x => sfuElem .cos F c x) s
def execTanh (o : WForm FMod) (s : State) : Result := flt1 (.tanh o) o (fun F c _ x => sfuElem .tanh F c x) s

/-! ### Division (R177) -/

/-- The quotient of R177 with one rounding. -/
def fDivide (F : FloatFmt) (c : FCap) (rm : Rm) (a b : Nat) : Nat × Flags :=
  let x := F.rd c.daz a
  let y := F.rd c.daz b
  let neg := x.isNeg != y.isNeg
  match x, y with
  | .nan _, _ | _, .nan _ => (F.canon, sNaN2 x y)
  | .inf _, .inf _ => (F.canon, fNV)
  | .inf _, .fin _ _ _ => (F.infBits neg, 0)
  | .fin _ _ _, .inf _ => (F.zero neg, 0)
  | .fin _ m e, .fin _ m' e' =>
    if m' = 0 then (if m = 0 then (F.canon, fNV) else (F.infBits neg, fDZ))
    else
      let k := bitLen m' + 64
      F.wr rm c.ftz (.fin neg (m * 2 ^ k / m') (e - e' - k)) (m * 2 ^ k % m' != 0)

/-- FDIV as an implementation that has it executes it; on this part every form takes the
unimplemented-instruction trap, which the frame raises first (R177). -/
def execFdiv (o : WForm FMod) (s : State) : Result := flt2 (.fdiv o) o fDivide s

/-! ### Conversion (R168–R170) -/

/-- The word a CVT writes: the value, or V(D, l) with element DEL replaced (R169). -/
def cvtInsert (df : CvtFmt) (del : Nat) (old : Word) (t : Nat) : Nat :=
  let n := cvtWidth df
  if 32 ≤ n then t
  else
    let x := old.toNat
    x - elemOf n del x * 2 ^ (n * del) + t % 2 ^ n * 2 ^ (n * del)

def execCvt (o : CvtForm) (s : State) : Result :=
  let k := cvtKind o.sf
  let n := cvtWidth o.df
  runInstr (.cvt o) o.g none .none { a := some (o.a, k) } noDyn
    (floatBody
      (fun cx c l =>
        let b := elemOf (cvtWidth o.sf) o.sel.toNat (cx.srcA l o.a k)
        let r := cvtElem o.sf o.df c (rndMode c o.rnd) o.sat b
        (cvtInsert o.df o.del.toNat (if 32 ≤ n then 0 else cx.rV 3 l l o.d.toNat) r.1, r.2))
      (writeVs o.d (CvtFmt.regs o.df))) s

/-! ### Blocks (R77–R79, R171–R175) -/

def blkFmt (o : BlkForm) : FloatFmt :=
  match (o.blk.extractLsb' 0 4).toNat with
  | 1 => fp16 | 3 => e5m2 | 4 => e4m3 | _ => e2m1

/-- SUB 8 under a tile of fewer than 32 lanes (R171, R374). -/
def tileDyn : RdCx → State → List Nat := fun cx _ => if cx.w.tile < 32 then [8] else []

/-- A block: its scale exponent, none for the NaN scale, and its elements. -/
structure Block where
  e : Option Int
  el : List Nat
  deriving DecidableEq, Repr

/-- |x| ≤ max(F) × 2^E for the finite magnitude m × 2^e. -/
def fitsScale (F : FloatFmt) (m : Nat) (e E : Int) : Bool :=
  match F.value F.maxBits with
  | .fin _ k q => decide (cmpFin (.fin false m e) (.fin false k (q + E)) ≤ 0)
  | _ => false

/-- The least E in −511..511 whose block holds the magnitude m × 2^e. -/
def blockExp (F : FloatFmt) (m : Nat) (e : Int) : Int :=
  if m = 0 then -511
  else
    let top := match F.value F.maxBits with | .fin _ k q => (Nat.log2 k : Int) + q | _ => 0
    let g := e + (Nat.log2 m : Int) - top - 1
    if fitsScale F m e g then g else if fitsScale F m e (g + 1) then g + 1 else g + 2

/-- The greater of two finite magnitudes; others count as 0. -/
def maxMag (a b : FVal) : FVal :=
  match a, b with
  | .fin _ m e, .fin _ m' e' => if cmpFin (.fin false m e) (.fin false m' e') < 0 then .fin false m' e' else .fin false m e
  | .fin _ m e, _ => .fin false m e
  | _, .fin _ m e => .fin false m e
  | _, _ => .fin false 0 0

/-- BPACK's block of 32 values (R173). -/
def packBlock (F : FloatFmt) (xs : List FVal) : Block × Flags :=
  let sig := fIf (xs.any FVal.isSig) fNV
  if F.width = 4 ∧ xs.any FVal.isNan then (⟨none, List.replicate 32 0⟩, sig)
  else
    let (m, e) := match xs.foldl maxMag (.fin false 0 0) with | .fin _ m e => (m, e) | _ => (0, 0)
    let E := blockExp F m e
    let ys := xs.map fun x => match x with
      | .nan _ => (F.canon, 0)
      | .inf n => (F.maxOf n, fOF ||| fNX)
      | .fin n m e => let r := F.round .rne false n m (e - E) false; (r.bits, r.fl)
    (⟨some E, ys.map (·.1)⟩, ys.foldl (fun f y => f ||| y.2) sig)

/-- The MX export of R79: the byte X and the elements. -/
def exportMx (F : FloatFmt) (b : Block) : Nat × List Nat × Flags :=
  match b.e with
  | none => (0xFF, List.replicate 32 0, 0)
  | some E =>
    if 127 < E then (0xFF, List.replicate 32 0, fOF)
    else if -127 ≤ E then ((E + 127).toNat, b.el, 0)
    else
      let ys := b.el.map fun x => match F.value x with
        | .fin n m e => let r := F.round .rne false n m (e + E + 127) false; (r.bits, r.fl)
        | _ => (x, 0)
      (0, ys.map (·.1), ys.foldl (fun f y => f ||| y.2) 0)

/-- Element number e of width w packed into words of 32 bits. -/
def packWord (w : Nat) (el : List Nat) (j : Nat) : Nat :=
  (List.range (32 / w)).foldl (fun acc i => acc + el.getD (32 / w * j + i) 0 % 2 ^ w * 2 ^ (w * i)) 0

/-- The word of lane j in the layout of R172. -/
def blockWord (w : Nat) (scale : Nat) (el : List Nat) (j : Nat) : Nat :=
  if j < w then packWord w el j else if j = w then scale else 0

def bpackResult (o : BlkForm) (act : Mask) (cx : RdCx) : Nat × List Nat × Flags :=
  let F := blkFmt o
  let c := FCap.ofFmode cx.w.fmode
  let xs := (List.range 32).map fun l =>
    if act.getLsbD l then fp32.rd c.daz (cx.srcA l o.a .f32) else .fin false 0 0
  let (b, fl) := packBlock F xs
  if o.blk.getLsbD 4 then
    let (x, el, f) := exportMx F b
    (x, el, fl ||| f)
  else ((match b.e with | none => 0x200 | some E => truncI 10 E), b.el, fl)

def execBpack (o : BlkForm) (s : State) : Result :=
  runInstr (.bpack o) o.g none o.perm { a := some (o.a, .f32) } tileDyn
    (onWarp fun x w =>
      let (sc, el, fl) := bpackResult o x.act x.cx
      (w.onLanes x.act fun l y => y.wV x.cx.front o.d.toNat (BitVec.ofNat 32 (blockWord (blkFmt o).width sc el l))).raise
        x.cx.front (if x.act = 0 then 0 else fl)) s

/-- The scale exponent that BUNPACK reads: none for the NaN scale. -/
def importScale (mx : Bool) (x : Nat) : Option Int :=
  if mx then (if x % 256 = 0xFF then none else some ((x % 256 : Nat) - 127))
  else (if x % 1024 = 0x200 then none else some (sextI 10 x))

/-- V(a, l') as it stands, for BUNPACK in lane l; the supervisor lane reads its own register (R175). Any lane
of the warp is read (log entry 116). -/
def RdCx.laneWord (cx : RdCx) (sl : Bool) (l : Nat) (a : Src) (from_ : Nat) : Nat :=
  cx.fetchN 0 (l + 32 * from_) (if sl then 0 else from_) a .i32 1

def bunpackLane (o : BlkForm) (sl : Bool) (cx : RdCx) (l : Nat) : Nat × Flags :=
  let F := blkFmt o
  let w := F.width
  let c := FCap.ofFmode cx.w.fmode
  match importScale (o.blk.getLsbD 4) (cx.laneWord sl l o.a w) with
  | none => (fp32.canon, 0)
  | some E =>
    match F.value (elemOf w (l % (32 / w)) (cx.laneWord sl l o.a (l * w / 32))) with
    | .nan _ => (fp32.canon, 0)
    | .inf n => (fp32.infBits n, 0)
    | .fin n m e => fp32.wr .rne c.ftz (.fin n m (e + E))

def execBunpack (o : BlkForm) (s : State) : Result :=
  let sl := inSl s
  runInstr (.bunpack o) o.g none o.perm { a := some (o.a, .i32) } tileDyn
    (onWarp fun x w =>
      (w.onLanes x.act fun l y => y.wV x.cx.front o.d.toNat (BitVec.ofNat 32 (bunpackLane o sl x.cx l).1)).raise
        x.cx.front ((lanesOf x.act).foldl (fun f l => f ||| (bunpackLane o sl x.cx l).2) 0)) s

/-! ### Compact forms (R116, R156) -/

def fltC16 (i : Instr) (o : C16) (f : FCap → Nat → Nat → Nat × Flags) (s : State) : Result :=
  runInstr i (c16Guard o) none .none (c16Kinds o .f32) noDyn
    (floatBody (fun cx c l => f c (cx.srcA l (c16Reg o.vd) .f32) (cx.srcB l (c16Reg o.vs) .f32))
      (writeVs (o.vd.setWidth 8) 1)) s

def execFaddC16 (o : C16) (s : State) : Result := fltC16 (.faddC16 o) o (fun c x y => fElem .add fp32 c c.rm x y 0) s
def execFmulC16 (o : C16) (s : State) : Result := fltC16 (.fmulC16 o) o (fun c x y => fElem .mul fp32 c c.rm x y 0) s
def execFminC16 (o : C16) (s : State) : Result := fltC16 (.fminC16 o) o (fMinMax false fp32) s
def execFmaxC16 (o : C16) (s : State) : Result := fltC16 (.fmaxC16 o) o (fMinMax true fp32) s

end Sys2Proof.Machine
end

