-- ==== Sys2Proof/Machine/Cross.lean ====
section
/-! DEFINITION. The cross-lane instructions (R33, R151–R155). -/

namespace Sys2Proof.Machine

/-- T(l): the active lanes of the tile of lane l, ascending (R151). -/
def tileLanes (t : Nat) (act : Mask) (l : Nat) : List Nat := (lanesOf act).filter fun m => m / t = l / t

/-! ### SHFL (R152) -/

/-- The source lane of lane l for the value y. -/
def shflLane (m : ShflMode) (t l y : Nat) : Nat :=
  let base := l - l % t
  match m with
  | .abs => base + y % t
  | .rel =>
    let k := (l : Int) + sextI 6 (y % 64)
    if k < base ∨ (base + t : Nat) ≤ k then l else k.toNat
  | .bfly => let k := l ^^^ (y % 32); if k / t = l / t then k else l
  | .ring => base + (l % t + y) % t

def execShfl (m : ShflMode) (o : WForm NoMod) (s : State) : Result :=
  runInstr (.shfl m o) o.g o.lit o.perm (wSrcs o (some .i32) (some .i32) none) noDyn
    (onWarp (iWrite false o.d 1 fun cx l =>
      cx.fetchN 0 l (shflLane m cx.w.tile l (cx.srcB l o.b .i32)) o.a .i32 1)) s

/-! ### VOTE (R153) -/

def VoteOp.pred : VoteOp → Bool
  | .and | .or | .same => true | _ => false

/-- The result for lane l of tile size t, from the lanes of T(l) and those of them whose predicate is 1. -/
def voteResult (op : VoteOp) (t l : Nat) (all ones : List Nat) : Nat :=
  match op with
  | .and => if ones.length = all.length then 1 else 0
  | .or => if ones.isEmpty then 0 else 1
  | .same => if ones.isEmpty ∨ ones.length = all.length then 1 else 0
  | .mask => (maskOf ones).toNat
  | .count => ones.length
  | .lowest => match ones with | m :: _ => m - (l - l % t) | [] => t

def voteLane (op : VoteOp) (a : Src) (act : Mask) (cx : RdCx) (l : Nat) : Nat :=
  let t := cx.w.tile
  let all := tileLanes t act l
  voteResult op t l all (all.filter fun m => cx.srcA m a .i32 != 0)

def execVote (op : VoteOp) (o : WForm NoMod) (s : State) : Result :=
  runInstr (.vote op o) o.g o.lit o.perm (wSrcs o (some .i32) none none) noDyn
    (onWarp fun x w =>
      if VoteOp.pred op then pWrite o.d (fun cx l => voteLane op o.a x.act cx l != 0) x w
      else iWrite false o.d 1 (voteLane op o.a x.act) x w) s

/-! ### RDUX (R154, R155) -/

/-- The combination of one element over the lanes of T(l). -/
def rduxInt (op : RduxIOp) (n : Nat) (xs : List Int) : Int :=
  match op, xs with
  | .add, xs => xs.sum
  | .min, x :: xs => xs.foldl min x
  | .max, x :: xs => xs.foldl max x
  | .and, xs => (xs.foldl (fun a x => a &&& uns n x) (2 ^ n - 1) : Nat)
  | .or, xs => (xs.foldl (fun a x => a ||| uns n x) 0 : Nat)
  | .xor, xs => (xs.foldl (fun a x => a ^^^ uns n x) 0 : Nat)
  | _, [] => 0

def rduxIntLane (op : RduxIOp) (o : WForm IMod) (act : Mask) (cx : RdCx) (l : Nat) : Nat :=
  let k := IMod.kind o.m
  let (n, c) := k.elem
  mapElems n c fun e =>
    IMod.cut o.m n (rduxInt op n ((tileLanes cx.w.tile act l).map fun m =>
      iRead o.m.z n (elemOf n e (cx.srcA m o.a k))))

def rduxFltLane (op : RduxFOp) (o : WForm FMod) (act : Mask) (cx : RdCx) (l : Nat) : Nat × Flags :=
  let k := FMod.kind o.m
  let (n, c) := k.elem
  let cap := FCap.ofFmode cx.w.fmode
  mapElemsF n c fun e =>
    fRdux op (fmtOf o.m.fmt) cap (rndMode cap o.m.rnd) ((tileLanes cx.w.tile act l).map fun m =>
      elemOf n e (cx.srcA m o.a k))

def execRdux (r : Rdux) (s : State) : Result :=
  match r with
  | .int op o =>
    runInstr (.rdux (.int op o)) o.g o.lit o.perm (wSrcs o (some (IMod.kind o.m)) none none) noDyn
      (onWarp fun x w => iWrite false o.d (iRegs o) (rduxIntLane op o x.act) x w) s
  | .flt op o =>
    runInstr (.rdux (.flt op o)) o.g o.lit o.perm (wSrcs o (some (FMod.kind o.m)) none none) noDyn
      (onWarp fun x w =>
        (iWrite false o.d 1 (fun cx l => (rduxFltLane op o x.act cx l).1) x w).raise x.cx.front
          ((lanesOf x.act).foldl (fun f l => f ||| (rduxFltLane op o x.act x.cx l).2) 0)) s

end Sys2Proof.Machine
end

