-- ==== Sys2Proof/Machine/Control.lean ====
section
/-! DEFINITION. Control flow: branches, JOIN and its time-out, EXIT, YIELD, BRK, TRET (R142–R150, R262). -/

namespace Sys2Proof.Machine

/-! ### Branches (R142–R144) -/

/-- The lanes of the active set take their targets; a taken backward branch counts for the spin counter, which the
supervisor lane does not have (R42, R144). -/
def jumpBody (counts : Bool) (target : RdCx → Nat → BitVec 63) (x : Issue) (s : State) : Done :=
  let back := counts && !inSl s && (lanesOf x.act).any fun l => decide ((target x.cx l).toNat ≤ s.cur.pc.toNat)
  let s' := s.modWarp fun w =>
    let w := w.onLanes x.act fun l y => { y with pc := target x.cx l }
    if back then w.setFront s.cur.front ((w.front s.cur.front).countSpin s.cur.pc s.cur.cluster) else w
  { s := s', adv := 0 }

/-- The target of R99: the branch's own address plus twice the signed displacement. -/
def dispTarget (n : Nat) (disp : BitVec n) (cx : RdCx) (_l : Nat) : BitVec 63 := cx.pc + disp.signExtend 63

def execBra (o : J96) (s : State) : Result :=
  runInstr (.bra o) o.g none .none {} noDyn (jumpBody true (dispTarget 32 o.disp)) s
def execBraJ32 (o : J32) (s : State) : Result :=
  runInstr (.braJ32 o) o.g none .none {} noDyn (jumpBody true (dispTarget 17 o.disp)) s

/-- Bits 63–1 of the 64-bit source as a PC. -/
def regTarget (a : Src) (cx : RdCx) (l : Nat) : BitVec 63 := BitVec.ofNat 63 (cx.srcA l a .i64 / 2)

/-- A call: the targets are taken before the link is written (R143). -/
def callBody (d : BitVec 8) (len : Nat) (target : RdCx → Nat → BitVec 63) (x : Issue) (s : State) : Done :=
  let r := jumpBody false target x s
  { r with s := r.s.modWarp fun w => w.onLanes x.act fun _ y =>
      y.wVs x.cx.front d.toNat 2 ((2 * x.cx.pc.toNat + len) % 2 ^ 64) }

def execCall (o : WForm NoMod) (s : State) : Result :=
  runInstr (.call o) o.g o.lit o.perm {} noDyn (callBody o.d 12 (dispTarget 32 (o.lit.getD 0))) s
def execCallx (o : WForm NoMod) (s : State) : Result :=
  runInstr (.callx o) o.g o.lit o.perm (wSrcs o (some .i64) none none) noDyn (callBody o.d 8 (regTarget o.a)) s
def execJmpx (o : WForm NoMod) (s : State) : Result :=
  runInstr (.jmpx o) o.g o.lit o.perm (wSrcs o (some .i64) none none) noDyn (jumpBody true (regTarget o.a)) s
def execRet (o : WForm NoMod) (s : State) : Result :=
  runInstr (.ret o) o.g o.lit o.perm (wSrcs o (some .i64) none none) noDyn (jumpBody true (regTarget o.a)) s

/-! ### JOIN (R145–R147, R386) -/

/-- Lane l waits in the join record of address pc. -/
def Warp.waitsAt (w : Warp) (pc l : Nat) : Bool :=
  let y := w.lane l
  y.st == .waiting && y.wait.kind == 3 && y.pc.toNat == pc

/-- Every lane of M is exited, absent, or waits in the record (R146). -/
def Warp.joinDone (w : Warp) (pc : Nat) (r : JoinRec) : Bool :=
  (lanesOf r.mask).all fun l =>
    (w.lane l).st == .exited || (w.lane l).st == .absent || w.waitsAt pc l

/-- Every lane that waits in the record goes on with P(D, l) := x. `len` is the length of the JOIN. -/
def Warp.joinRelease (pc len : Nat) (x : Bool) (w : Warp) : Warp :=
  let w' := (lanesOf (BitVec.allOnes 32)).foldl (fun w l =>
    if w.waitsAt pc l then
      let y := w.lane l
      let d := match y.wait with | .join d => d | _ => 7
      w.joinFront l ({ y with pc := y.pc + BitVec.ofNat 63 (len / 2) }.wP (frontOf y.sv) d.toNat x)
    else w) w
  { w' with joins := del w'.joins pc }

/-- Release every record that is complete (R146, R148). -/
def Warp.joinCheck (w : Warp) : Warp :=
  w.joins.foldl (fun w e => if w.joinDone e.1 e.2 then w.joinRelease e.1 e.2.len true else w) w

/-- The lanes arrive in the record of this address, which opens where none is open (R146). -/
def joinBody (o : WForm NoMod) (len : Nat) (x : Issue) (s : State) : Done :=
  if x.act = 0 then { s := s, adv := 0 }
  else
    let l0 := lowLane x.act
    let m := BitVec.ofNat 32 (x.cx.srcA l0 o.a .i32)
    let t := x.cx.srcB l0 o.b .i32
    let fresh : JoinRec :=
      { mask := if m = 0 then BitVec.allOnes 32 else m, len := len,
        deadline := if t = 0 then none else some (s.time + BitVec.ofNat 64 t) }
    let pc := s.cur.pc.toNat
    let s := s.modWarp fun w =>
      let w : Warp := { w with joins := match find w.joins pc with | some _ => w.joins | none => ins w.joins pc fresh }
      (w.onLanes x.act fun _ y => { y with st := .waiting, wait := .join o.d }).joinCheck
    { s := s, adv := 0 }

/-- JOIN (R145); the timeout is read as 32 bits (log entry 90). -/
def execJoin (o : WForm NoMod) (s : State) : Result :=
  runInstr (.join o) o.g o.lit o.perm (wSrcs o (some .i32) (some .i32) none) noDyn
    (joinBody o (if o.lit.isSome then 12 else 8)) s

/-- A record times out: its lanes go on with P(D, l) := 0, unless it is complete (R146). -/
def Warp.joinExpire (w : Warp) (pc : Nat) (r : JoinRec) : Warp := w.joinRelease pc r.len (w.joinDone pc r)

/-- Every record whose deadline has come by the end of a tick: an arrival in that tick completes it first (R146). -/
def Warp.joinsExpire (w : Warp) (time : DWord) : Warp :=
  w.joins.foldl (fun w e => if e.2.deadline.any fun d => decide (d ≤ time) then w.joinExpire e.1 e.2 else w) w

/-- A record whose deadline came in an earlier tick times out. -/
def execJoinTimeout (w : Who) (addr : DWord) (s : State) : Result :=
  let pc := addr.toNat / 2
  .next (match find (s.warpOf w).joins pc with
    | some r => if r.deadline.any fun d => decide (d < s.time) then s.modWarpOf w fun x => x.joinExpire pc r else s
    | none => s)

/-! ### EXIT, YIELD, BRK, TRET (R148–R150, R262) -/

/-- The warp's lanes in m exit: join records are judged anew, and a warp without lanes frees its slot. -/
def State.exitLanes (s : State) (m : Mask) : State :=
  let s := s.modWarp fun w =>
    (w.onLanes m fun _ y => { y with st := .exited, wait := .none }).joinCheck
  match s.cur.who.ctx with
  | .slot k => if s.warp.dead then { s with backlog := s.backlog ++ [.warpSlotFree s.cur.who.core k] } else s
  | .sl => s

def exitBody (x : Issue) (s : State) : Done :=
  if x.act = 0 then { s := s, adv := 0 }
  else if inSl s then
    { s := s.modCore s.cur.who.core fun c => { c with sl := { c.sl with halt := true, exitHalt := true } },
      adv := x.act }
  else { s := s.exitLanes x.act, adv := 0 }

def execExit (o : N32) (s : State) : Result := runInstr (.exit o) o.g none .none {} noDyn exitBody s

/-- The front's next issue is a rotation issue above the new PC of the cluster (R149). -/
def yieldBody (x : Issue) (s : State) : Done :=
  let f := s.cur.front
  let s' := if x.act = 0 ∨ inSl s then s
    else s.modWarp fun w => w.setFront f { w.front f with due := some (s.cur.pc + BitVec.ofNat 63 (s.cur.len / 2)) }
  { s := s', adv := x.act }

def execYield (o : N32) (s : State) : Result := runInstr (.yield o) o.g none .none {} noDyn yieldBody s

def brkBody (x : Issue) (s : State) : Done :=
  { s := s.trapMask x.act (fun _ => ⟨0x05, 0⟩) fun _ => Tops.zero, adv := 0 }

def execBrk (o : N32) (s : State) : Result := runInstr (.brk o) o.g none .none {} noDyn brkBody s

def tretBody (x : Issue) (s : State) : Done :=
  if inSl s then (if x.act = 0 then { s := s, adv := 0 } else { s := s.tretSl s.cur.who.core, adv := 0 })
  else { s := s.modWarp fun w => (lanesOf x.act).foldl (fun w l => w.tretLane s.draw l) w, adv := 0 }

def execTret (o : N32) (s : State) : Result := runInstr (.tret o) o.g none .none {} noDyn tretBody s

end Sys2Proof.Machine
end

