-- ==== Sys2Proof/Machine/Memory.lean ====
section
/-! DEFINITION. Loads, stores, the stash instructions, hints, DRIFT and FENCE (R184–R200). -/

namespace Sys2Proof.Machine

/-! ### LD, ST, LDS, STS (R184, R185, R188) -/

/-- What a load of a format writes, from the number its bytes hold. -/
def ldValue (f : LdFmt) (x : Nat) : Nat :=
  match f with
  | .s8 => truncI 32 (sextI 8 x) | .s16 => truncI 32 (sextI 16 x) | _ => x

/-- The address of lane l: virtual, or a stash offset of 32 bits (R188). -/
def accAddr (stash : Bool) (cx : RdCx) (a : Src) (off : MOff) (l : Nat) : Nat :=
  let va := cx.va a (moffVal off) l
  if stash then va % 2 ^ 32 else va

/-- One lane of a load. -/
def loadLane (stash : Bool) (f : LdFmt) (o : MForm MMod) (cx : RdCx) (ax : Ax) (l : Nat) (s : State) : Option Stop × State :=
  match s.load ax stash (accAddr stash cx o.a o.off l) (LdFmt.size f) with
  | (.error e, s) => (some e, s)
  | (.ok bs, s) => (none, s.modLane l fun y => y.wVs cx.front o.d.toNat (LdFmt.regs f) (ldValue f (ofBytes bs)))

def loadBody (stash : Bool) (f : LdFmt) (o : MForm MMod) (x : Issue) (s : State) : Done :=
  (laneLoop x (loadLane stash f o x.cx (s.ax (ordAcq o.m.ord))) s).returns

def memSrcs (a : Src) : SrcKinds := { a := some (a, .i64) }

def execLd (f : LdFmt) (o : MForm MMod) (s : State) : Result :=
  runInstr (.ld f o) o.g none .none (memSrcs o.a) noDyn (loadBody false f o) s
def execLds (f : LdFmt) (o : MForm MMod) (s : State) : Result :=
  runInstr (.lds f o) o.g none .none (memSrcs o.a) noDyn (loadBody true f o) s

/-- The n bytes of source b; a short immediate is sign-extended (R185). -/
def storeData (cx : RdCx) (l : Nat) (b : Src) (regs n : Nat) : List Byte :=
  toBytes n (match b with
    | .imm i => truncI (8 * n) ((i.toNat : Int) - 64)
    | _ => cx.fetchN 1 l l b .i32 regs)

def storeKinds (o : MForm MMod) : SrcKinds := { a := some (o.a, .i64), b := some (o.b, .i32) }

/-- One lane of a store. -/
def storeLane (stash : Bool) (f : StFmt) (o : MForm MMod) (cx : RdCx) (ax : Ax) (l : Nat) (s : State) : Option Stop × State :=
  s.store ax stash (accAddr stash cx o.a o.off l) (storeData cx l o.b (StFmt.regs f) (StFmt.size f))

def storeBody (stash : Bool) (f : StFmt) (o : MForm MMod) (x : Issue) (s : State) : Done :=
  laneLoop x (storeLane stash f o x.cx (s.ax false)) s

def execSt (f : StFmt) (o : MForm MMod) (s : State) : Result :=
  runInstr (.st f o) o.g none .none (storeKinds o) noDyn
    (released false o.m.scope (ordRel o.m.ord) (storeBody false f o)) s
def execSts (f : StFmt) (o : MForm MMod) (s : State) : Result :=
  runInstr (.sts f o) o.g none .none (storeKinds o) noDyn
    (released false o.m.scope (ordRel o.m.ord) (storeBody true f o)) s

/-- An outstanding result returns (R111). -/
def execLoadDataReturn (w : Who) (r : Awaited) (s : State) : Result :=
  .next (if ((s.warpOf w).front r.front).loads.contains r.lanes then s.resultBack w r.front r.lanes else s)

/-! ### Tile descriptors and LDT (R55, R56, R193, R194) -/

structure TileD where
  v : Bool
  tr : Bool
  src : Nat
  pitch : Nat
  cols : Nat
  rows : Nat
  esz : Nat
  off : Nat
  deriving DecidableEq, Repr

def tileD (d : Desc128) : TileD :=
  let x := d.toNat
  { v := d.getLsbD 71, tr := d.getLsbD 70, src := bitsN x 69 68
    pitch := if bitsN x 63 48 = 0 then 65536 else bitsN x 63 48
    cols := bitsN x 47 36 + 1, rows := bitsN x 35 24 + 1, esz := bitsN x 23 21, off := bitsN x 20 0 }

/-- Element width in bits. -/
def TileD.width (t : TileD) : Nat := 4 * 2 ^ t.esz

/-- Bit offset of element (i, j) in the task's stash. -/
def TileD.bitAt (t : TileD) (i j : Nat) : Nat :=
  let (i, j) := if t.tr then (j, i) else (i, j)
  8 * (t.off + 16 * t.pitch * i) + t.width * j

/-- The reason of R374 for which a descriptor is invalid (R56); OFF is tested for every SRC (log entry 15). -/
def TileD.bad (t : TileD) (z : Nat) : Option Nat :=
  if !t.v then some 1
  else if 4 ≤ t.esz ∨ t.src = 3 then some 2
  else if t.off % 16 ≠ 0 then some 3
  else if t.src = 0 ∧ 8 * z < t.bitAt (t.rows - 1) (t.cols - 1) + t.width then some 4
  else none

/-- The element at row i and column j of a tile in the stash; 0 outside the tile. -/
def State.tileElem (s : State) (a : Ax) (t : TileD) (i j : Nat) : Except Stop Nat × State :=
  if t.rows ≤ i ∨ t.cols ≤ j then (.ok 0, s)
  else
    let b := t.bitAt i j
    match s.load a true (b / 8) ((t.width + 7) / 8) with
    | (.error e, s) => (.error e, s)
    | (.ok bs, s) => (.ok (ofBytes bs / 2 ^ (b % 8) % 2 ^ t.width), s)

/-- Elements of a register from the n-th downwards to 0, the first in the low bits. -/
def State.tileReg (s : State) (a : Ax) (t : TileD) (at_ : Nat → Nat × Nat) : Nat → Except Stop Nat × State
  | 0 => (.ok 0, s)
  | k + 1 =>
    match s.tileReg a t at_ k with
    | (.error e, s) => (.error e, s)
    | (.ok x, s) =>
      match s.tileElem a t (at_ k).1 (at_ k).2 with
      | (.error e, s) => (.error e, s)
      | (.ok y, s) => (.ok (x + y * 2 ^ (t.width * k)), s)

/-- Row and column of element k of a lane of LDT (R193). -/
def ldtPos (o : LdtForm) (b l k : Nat) : Nat × Nat :=
  if o.trn then (b % 65536 + k, b / 65536 + l) else (b % 65536 + l, b / 65536 + k)

/-- The reason for which LDT does not take a tile (R56, R194). -/
def State.ldtBad (s : State) (t : TileD) : Option Nat :=
  match t.bad ((s.core s.cur.who.core).run s.warp.task).size with
  | some r => some r
  | none => if t.src ≠ 0 then some 5 else none

/-- One lane of LDT. -/
def ldtLane (o : LdtForm) (t : TileD) (cx : RdCx) (ax : Ax) (l : Nat) (s : State) : Option Stop × State :=
  let r := 2 ^ o.rc.toNat
  match s.tileReg ax t (ldtPos o (cx.srcB l o.b .i32) l) (r * (32 / t.width)) with
  | (.error e, s) => (some e, s)
  | (.ok v, s) => (none, s.modLane l fun y => y.wVs cx.front o.d.toNat r v)

def ldtBody (o : LdtForm) (x : Issue) (s : State) : Done :=
  let t := tileD (x.cx.rT o.ti.toNat)
  if x.act = 0 then { s := s, adv := 0 }
  else
    match s.ldtBad t with
    | some r => stopAll x (.trap ⟨0x08, r * 16 + o.ti.toNat⟩) s
    | none => (laneLoop x (ldtLane o t x.cx (s.ax false)) s).returns

def execLdt (o : LdtForm) (s : State) : Result :=
  runInstr (.ldt o) o.g none o.perm { b := some (o.b, .i32) } noDyn (ldtBody o) s

/-! ### STMAP and STUNMAP (R189, R192) -/

/-- The window that the operands describe, or the SUB of the first condition that fails, in the order of R397. -/
def Core.windowFor (c : Core) (w : Warp) (wva ctl len : Nat) : Except Nat Window :=
  let z := (c.run w.task).size
  let sws := bitsN ctl 31 27
  let sww := bitsN ctl 26 24
  let soff := bitsN ctl 20 0
  let g := bitsN ctl 22 21
  let grouped := decide (bitsN ctl 23 23 = 1)
  if wva % 128 ≠ 0 then .error 1
  else if len % 4096 ≠ 0 ∨ len < 4096 then .error 2
  else if soff % 4096 ≠ 0 ∨ z < soff + len then .error 3
  else if 4 < sww ∨ (sww ≠ 0 ∧ (sws < 8 ∨ 21 < sws + sww)) then .error 4
  else if grouped && !w.groupOk g then .error 5
  else .ok
    { task := w.task, asid := w.asid, ptroot := w.ptroot, soff := soff, wva := wva, len := len, ctl := BitVec.ofNat 32 ctl, sws := sws, sww := sww,
      grp := if grouped then some (w.groupId g) else none, entries := [] }

def Window.overlaps (x y : Window) : Bool :=
  x.task == y.task &&
    ((decide (x.soff < y.soff + y.len) && decide (y.soff < x.soff + x.len)) ||
      (decide (x.wva < y.wva + y.len) && decide (y.wva < x.wva + x.len)))

/-- Install a window after unmapping those it overlaps; a seventeenth changes nothing. -/
def State.mapWindow (s : State) (n : Nat) (x : Window) : Option Stop × State :=
  let mine := (s.core n).windows.filter fun y => y.task == x.task
  let old := mine.filter fun y => y.overlaps x
  if 16 ≤ mine.length - old.length then (some (.trap ⟨0x12, 6⟩), s)
  else if s.backCut n old then (some .held, s)
  else
    let s := old.foldl (fun s y => s.unmap n y) s
    (none, s.modCore n fun c => { c with windows := c.windows ++ [x] })

def execStmap (o : WForm NoMod) (s : State) : Result :=
  runInstr (.stmap o) o.g o.lit o.perm { a := some (o.a, .i64), b := some (o.b, .i32), c := some (o.c, .i32) } noDyn
    (onceAct fun x s =>
      let l := lowLane x.act
      let n := s.cur.who.core
      match (s.core n).windowFor s.warp (x.cx.srcA l o.a .i64) (x.cx.srcB l o.b .i32) (x.cx.srcC l o.c .i32) with
      | .error k => (some (.trap ⟨0x12, k⟩), s)
      | .ok w => s.mapWindow n w) s

def execStunmap (o : WForm NoMod) (s : State) : Result :=
  runInstr (.stunmap o) o.g o.lit o.perm { b := some (o.b, .i32) } noDyn
    (onceAct fun x s =>
      let n := s.cur.who.core
      match (s.core n).window s.warp.task (bitsN (x.cx.srcB (lowLane x.act) o.b .i32) 20 0) with
      | some w => if s.backCut n [w] then (some .held, s) else (none, s.unmap n w)
      | none => (none, s)) s

/-! ### PREF and DISCARD (R195, R196) -/

/-- Bring the line of one lane in; nothing where the address does not serve. -/
def State.prefetch (s : State) (ax : Ax) (l1 : Bool) (va : Nat) : State :=
  match s.translate ax.x .read va with
  | (.error _, t) => { s with draw := t.draw }
  | (.ok x, s) =>
    let s := s.peerNews x.pa
    if !(s.place x.pa).isDram ∨ x.mt = 2 ∨ (s.barred x.pa 1).isSome ∨ s.wayCut ax.n x.pa false then s
    else
      let pa := s.fwd x.pa
      let s := s.carry x.lcl
      let s :=
        if !l1 then s.fillSlice (pa / 128)
        else match (s.core ax.n).windowAt ax.w va with
          | some w => s.readyEntry ax.n false w ((va - w.wva) / 128) (x.pa / 128)
          | none => if (s.core ax.n).cachesType x.mt then s.fillL1 ax.n (pa / 128) else s
      s.carry 0

def prefBody (lv : PrefLevel) (o : MForm NoMod) (x : Issue) (s : State) : Done :=
  let ax := s.ax false
  { s := (lanesOf x.act).foldl (fun s l => s.prefetch ax (lv = .l1) (x.cx.va o.a (moffVal o.off) l)) s, adv := x.act }

def execPref (lv : PrefLevel) (o : MForm NoMod) (s : State) : Result :=
  runInstr (.pref lv o) o.g none .none (memSrcs o.a) noDyn (prefBody lv o) s

/-- Whether granule g of a line keeps the last value written: a free choice (R196). -/
def State.keepsGranule (s : State) (l g : Nat) : Bool := decide (Config.choice s.draw (770000 + l * 8 + g) % 2 = 1)

/-- A byte of a line as memory holds it; of a peer's line, as this device knows it. -/
def State.memByte (s : State) (pa : Nat) (dflt : Byte) : Byte :=
  if devOf pa = s.devnum then look 0 s.mem (localOf pa) else (look none s.peer pa).getD dflt

/-- The line under DISCARD: a store of no chosen byte, each granule keeping its last value or returning to what memory
held, as `keep` has it. -/
def State.discardLine (s : State) (n pa : Nat) (keep : Nat → Bool) : State :=
  let pl := s.fwd pa / 128
  let s := s.coreStore n pl []
  let y := s.l2 pl
  let back (i : Nat) : Byte :=
    let last := look 0 y.data i
    if keep (i / 16) then last else s.memByte (pl * 128 + i) last
  (s.setL2 pl { y with data := (List.range 128).foldl (fun t i => put 0 t i (back i)) [] }).dropL1 n pl

/-- The entry under DISCARD: the granules that keep their last value go home, the others return to what memory held, and
the entry loses its dirty bytes and its fill. -/
def State.discardEntry (s : State) (n : Nat) (w : Window) (k line : Nat) (keep : Nat → Bool) : State :=
  let s := s.modCore n fun c => c.modWindow w.task w.soff fun x =>
    { x with entries := match find x.entries k with
      | some e => ins x.entries k { e with dirty := e.dirty.filter fun d => keep (d.1 / 16) }
      | none => x.entries }
  let s := match (s.core n).window w.task w.soff with
    | some x => s.backEntry n x k
    | none => s
  let s := s.discardLine n (line * 128) keep
  s.modCore n fun c => c.modWindow w.task w.soff fun x => { x with entries := del x.entries k }

def State.discard (s : State) (ax : Ax) (l va : Nat) : Option Stop × State :=
  match s.spotVa ax .write false 1 ⟨va, 0, 1⟩ with
  | (.error e, s) => (some e, s)
  | (.ok (.entry soff r), s) =>
    match (s.core ax.n).window ax.w.task soff with
    | some w =>
      match find w.entries (r / 128) with
      | some e => (none, s.discardEntry ax.n w (r / 128) e.line (s.keepsGranule l))
      | none => (none, s)
    | none => (none, s)
  | (.ok (.mem x), s) =>
    if (s.place x.pa).isDram ∧ x.mt ≠ 2 then (none, ((s.carry x.lcl).discardLine ax.n x.pa (s.keepsGranule l)).carry 0) else (none, s)
  | (.ok (.raw _), s) => (none, s)

/-- One lane of DISCARD. -/
def discardLane (o : MForm MMod) (cx : RdCx) (ax : Ax) (l : Nat) (s : State) : Option Stop × State :=
  s.discard ax l (cx.va o.a (moffVal o.off) l)

def discardBody (o : MForm MMod) (x : Issue) (s : State) : Done :=
  laneLoop x (discardLane o x.cx (s.ax false)) s

def execDiscard (o : MForm MMod) (s : State) : Result :=
  runInstr (.discard o) o.g none .none (memSrcs o.a) noDyn
    (released false o.m.scope (ordRel o.m.ord) (discardBody o)) s

/-! ### DRIFT (R197–R199) -/

/-- The statuses, or the bits 6–0 of the words, that a controller may give for a local address of a peer or for one that
holds no row, on a page of a latency class (R197, R198). -/
def driftAnswers (minor lcl a : Nat) : List Nat :=
  let pinned := decide (0x00B400000000 ≤ a)
  match minor with
  | 0 => if pinned then [1] else if 2 ≤ lcl then [1, 3] else [0, 1, 2]
  | 1 => if pinned then [1] else [0, 1]
  | _ => if pinned then [3 * 2 ^ 5 + 2] else 0 :: (List.range 16).map fun k => (1 + k / 8) * 2 ^ 5 + k % 8 * 2 ^ 2 + 1

/-- One of them: free. -/
def State.driftFree (s : State) (l minor lcl a : Nat) : Nat :=
  let xs := driftAnswers minor lcl a
  xs.getD (Config.choice s.draw (780000 + l) % xs.length) 0

/-- One lane of DRIFT: minor 0 .p, 1 .d, 2 .q. -/
def State.drift (s : State) (ax : Ax) (minor l va : Nat) : Except Stop Word × State :=
  match s.translate ax.x .read va with
  | (.error e, s) => (.error (e.stop .read va), s)
  | (.ok x, s) =>
    let s := s.peerNews x.pa
    match s.barred x.pa 1 with
    | some k => (.error (.trap ⟨0x14, k⟩), s)
    | none =>
      -- on a page that migrates it acts at the new home (R417)
      if s.cutOff ax .rmw x || s.blocked x.pa then (.error .held, s)
      else if ax.x.user && minor != 2 && !x.db then (.ok 4, s)
      else
        let pa := s.fwd x.pa
        if s.place pa ≠ .dram then
          let n := s.driftFree l minor x.lcl (localOf pa)
          let s := if devOf pa = s.devnum then s else (s.invalidateParcel (pa / 2048)).toHome pa (.drift minor)
          (.ok (BitVec.ofNat 32 (if minor = 2 then (if x.db then 2 ^ 9 else 0) + x.lcl * 2 ^ 7 + n else n)), s)
        else
          let s := s.claim pa true
          match minor with
          | 0 => let (k, s) := s.driftP (localOf pa) x.lcl; (.ok (BitVec.ofNat 32 k), s)
          | 1 => let (k, s) := s.driftD (localOf pa); (.ok (BitVec.ofNat 32 k), s)
          | _ => (.ok (s.driftWord (localOf pa) x.db x.lcl), s)

/-- One lane of DRIFT and its status or word. -/
def driftLane (minor : Nat) (o : MForm NoMod) (cx : RdCx) (ax : Ax) (l : Nat) (s : State) : Option Stop × State :=
  match s.drift ax minor l (cx.va o.a (moffVal o.off) l) with
  | (.error e, s) => (some e, s)
  | (.ok v, s) => (none, s.modLane l fun y => y.wV cx.front o.d.toNat v)

def driftBody (minor : Nat) (o : MForm NoMod) (x : Issue) (s : State) : Done :=
  (laneLoop x (driftLane minor o x.cx (s.ax false)) s).returns

def driftInstr (i : Instr) (minor : Nat) (o : MForm NoMod) (s : State) : Result :=
  runInstr i o.g none .none (memSrcs o.a) noDyn (driftBody minor o) s

def execDriftP (o : MForm NoMod) (s : State) : Result := driftInstr (.driftP o) 0 o s
def execDriftD (o : MForm NoMod) (s : State) : Result := driftInstr (.driftD o) 1 o s
def execDriftQ (o : MForm NoMod) (s : State) : Result := driftInstr (.driftQ o) 2 o s

/-! ### FENCE (R200) -/

/-- Accesses are performed in the order of issue; what a release fence adds is the write-back of R306. An acquire fence sends
window entries home too: what a read before it returned, every agent can see after it (R302). -/
def execFence (o : FenceForm) (s : State) : Result :=
  runInstr (.fence o) o.g none .none {} noDyn
    (released false o.m.scope (ordRel o.m.ord || ordAcq o.m.ord) fun x s => { s := s, adv := x.act }) s

end Sys2Proof.Machine
end

