-- ==== Sys2Proof/Machine/Atomics.lean ====
section
/-! DEFINITION. Atomics, queues and the Gazetteer's instructions (R201–R215, R281, R282, R311, R312, R350, R351). -/

namespace Sys2Proof.Machine

/-! ### Access at the home -/

/-- The dirty bytes of the entry that holds an address go home, ahead of an access performed there. -/
def State.pushEntry (s : State) (a : Ax) (va : Nat) : State :=
  match (s.core a.n).windowAt a.w va with
  | some w => s.backEntry a.n w ((va - w.wva) / 128)
  | none => s

/-- The clock of core n takes the write time of the line it read at the home. -/
def State.sawLine (s : State) (n pa : Nat) : State :=
  s.modCore n fun c => { c with ct := max c.ct (s.l2 (pa / 128)).wts }

/-- n bytes read at their home by core k for an access that acts there: every other holder of the parcel has given
it up (R311). What a core reads over UALink is no earlier than FF (R310). The request carries `lcl`; `counts` as in
recallLease. -/
def State.homeBytes (s : State) (k lcl pa n : Nat) (counts : Bool := false) : List Byte × State :=
  let pa := s.fwd pa
  if devOf pa ≠ s.devnum then
    let (bs, s) := (s.invalidateParcel (pa / 2048)).peerBytes pa n
    (bs, s.acquire k (s.peerWts (pa / 128)))
  else
    let (bs, s) := (((s.recallLease k (pa / 128) counts).claim pa true).carry lcl).homeRead pa n
    (bs, (s.sawLine k pa).carry 0)

/-- Bytes written at their home for core k, after homeBytes of their parcel. A peer's home has them from the request. -/
def State.homePut (s : State) (k lcl pa : Nat) (bs : List Byte) (counts : Bool := false) : State :=
  let pa := s.fwd pa
  if devOf pa ≠ s.devnum then s.peerPut k pa bs
  else ((s.carry lcl).homeStore k pa bs counts).carry 0

/-- A request that a peer's home performs leaves the device (R358). -/
def State.askHome (s : State) (pa : Nat) (m : PeerMsg) : State :=
  let pa := s.fwd pa
  if devOf pa = s.devnum then s else s.toHome pa m

/-- What an access that acts at the home meets: no indivisible kind in the control space, reason 8 on type 10
(R282). -/
def State.homeSpot (s : State) (a : Ax) (acc : Acc) (va n : Nat) (read : Bool) : Except Stop Xlat × State :=
  match s.translate a.x acc va with
  | (.error f, s) => (.error (f.stop acc va), s)
  | (.ok x, s) =>
    let s := s.peerNews x.pa
    if (s.place x.pa).isControl then (.error (.trap ⟨0x15, 3⟩), s)
    else if x.mt = 2 then (.error (.fault acc ⟨x.level, 8⟩ (BitVec.ofNat 64 va)), s)
    else if s.cutOff a .rmw x then (.error .held, s)
    else
      let s := s.pushEntry a va
      match (if read then s.badData x.pa n else s.barred x.pa n) with
      | some k => (.error (.trap ⟨0x14, k⟩), s)
      | none => (.ok x, s)

/-! ### ATOM (R201–R203, R282) -/

/-- new of R202, from x, y and z; none where nothing is written. -/
def atomNew (op : AtomOp) (ty : Ty) (x y z : Nat) : Option Nat :=
  let n := 32 * Ty.regs ty
  let signed := ty = .s32 ∨ ty = .s64
  let less (p q : Nat) : Bool := if signed then decide (sextI n p < sextI n q) else decide (p < q)
  match op with
  | .add => some ((x + y) % 2 ^ n)
  | .min => some (if less y x then y else x)
  | .max => some (if less x y then y else x)
  | .and => some (x &&& y) | .or => some (x ||| y) | .xor => some (x ^^^ y)
  | .exch => some y
  | .cas => if x = y then some z else none
  | .fadd => some (fElem .add Machine.fp32 ⟨.rne, false, false⟩ .rne x y 0).1

/-- An atomic of core n reaches the home slice, unless the core has an exclusive lease on the line that it may have: a lease
that another core holds is recalled, another core's atomic may wait there (free), and the counter decides between a lease and the
slice (R281), read between its own two increments (log entry 118). -/
def State.leaseLine (s : State) (n pl : Nat) (may : Bool) : State :=
  let h := s.homeSlice pl
  let own := decide (find (s.slice h).leases pl = some n)
  if own && may then s
  else
    let s := if own then s.modSlice h fun x => { x with leases := del x.leases pl } else s.recallLease n pl
    let waits := decide (Config.choice s.draw (805000 + h) % 2 = 1)
    let grant := may && decide (look 0 (s.slice h).pred (predOf pl) < 2)
    { s.modSlice h fun x =>
        let x := if waits then x.raise pl else x
        { x with leases := if grant then ins x.leases pl n else x.leases } with draw := s.draw + 1 }

/-- One read-modify-write of k bytes at a translated address by core n. -/
def State.rmw (s : State) (n : Nat) (x : Xlat) (k : Nat) (f : Nat → Option Nat) : Nat × State :=
  let (bs, s) := s.homeBytes n x.lcl x.pa k true
  let old := ofBytes bs
  match f old with
  | some v => (old, s.homePut n x.lcl x.pa (toBytes k v) true)
  | none => (old, s)

/-- The line of the entry of a window at offset r. -/
def Core.entryLine (c : Core) (task : Word) (soff r : Nat) : Nat :=
  match (c.window task soff).bind fun w => find w.entries (r / 128) with | some e => e.line | none => 0

/-- One read-modify-write of k bytes at offset r of a window by core n, on the entry under an exclusive lease: what the
core had written goes home, every other holder of the parcel gives it up (R311), the entry takes the line as it stands, and
the new bytes go home with it (R191, R203). -/
def State.rmwEntry (s : State) (n : Nat) (task : Word) (soff r k : Nat) (f : Nat → Option Nat) : Nat × State :=
  let on (s : State) (g : Window → State) : State := match (s.core n).window task soff with | some w => g w | none => s
  let line := (s.core n).entryLine task soff r
  let s := on s fun w => s.backEntry n w (r / 128)
  let s := s.claim (s.fwd (line * 128)) true
  let s := s.leaseLine n (s.fwd (line * 128) / 128) true
  let s := on s fun w => s.fillEntry n w (r / 128) line
  let old := match (s.core n).window task soff with
    | some w => ofBytes (getBytes (s.core n).stash (((s.core n).run task).base + w.place r) k)
    | none => 0
  match f old with
  | some v =>
    let s := on s fun w => s.modCore n fun c => c.writeEntry w r (toBytes k v)
    (old, on s fun w => s.backEntry n w (r / 128))
  | none => (old, s)

/-- ATOM minors that type 10 takes (R282). -/
def atomOnDevice : AtomOp → Bool
  | .add | .exch | .cas => true | _ => false

/-- One lane of ATOM. -/
def State.atomic (s : State) (a : Ax) (op : AtomOp) (ty : Ty) (va y z : Nat) : Except Stop Nat × State :=
  let k := 4 * Ty.regs ty
  if va % k ≠ 0 then (.error (.trap ⟨0x09, if k = 4 then 2 else 3⟩), s)
  else
    match s.spotVa a .rmw true k ⟨va, 0, k⟩ (!atomOnDevice op) with
    | (.error e, s) => (.error e, s)
    | (.ok (.mem x), s) =>
      let ask := PeerMsg.atomic op k y z
      if x.mt = 2 then
        match s.place x.pa with
        | .port =>
          let (bs, s) := (s.devGave a.n).portAsk x.pa k [.tlpAtomic (portOf x.pa) (BitVec.ofNat 64 (localOf x.pa)) k op y z]
          (.ok (ofBytes bs), s.devSaw a.n)
        | .peerPort =>
          (.ok (ofBytes ((List.range k).map fun i => Config.peerByte (x.pa + i) s.draw)),
            (((s.devGave a.n).toHome x.pa ask).drawn).devSaw a.n)
        | _ =>
          let evict (s : State) : State := ((s.carry x.lcl).evictSlice (s.fwd x.pa / 128)).carry 0
          let (old, s) := (evict (s.askHome x.pa ask)).rmw a.n x k fun old => atomNew op ty old y z
          (.ok old, evict s)
      else
        let s := s.askHome x.pa ask
        let pl := s.fwd x.pa / 128
        let s := if devOf (s.fwd x.pa) = s.devnum then s.leaseLine a.n pl ((s.core a.n).cachesType x.mt) else s
        let s := if find (s.slice (s.homeSlice pl)).leases pl = some a.n then ((s.carry x.lcl).fillL1 a.n pl).carry 0 else s
        let (old, s) := s.rmw a.n x k fun old => atomNew op ty old y z
        (.ok old, s)
    | (.ok (.entry soff r), s) =>
      let line := (s.core a.n).entryLine a.w.task soff r
      let pa := s.fwd (line * 128) + r % 128
      if devOf pa ≠ s.devnum then
        -- the home of a peer's line performs it (R311)
        let s := (s.pushEntry a va).askHome pa (.atomic op k y z)
        let (old, s) := s.rmw a.n { pa := pa, mt := 1, lcl := 0, db := false, level := 0 } k fun old => atomNew op ty old y z
        (.ok old, s)
      else
        let (old, s) := s.rmwEntry a.n a.w.task soff r k fun old => atomNew op ty old y z
        (.ok old, s)
    | (.ok (.raw _), s) => (.ok 0, s)

/-- One lane of ATOM and the old value. -/
def atomLane (op : AtomOp) (o : AForm) (cx : RdCx) (ax : Ax) (l : Nat) (s : State) : Option Stop × State :=
  let k := Ty.kind o.ty
  match s.atomic ax op o.ty (cx.srcA l o.a .i64) (cx.srcB l o.b k) (if op = .cas then cx.srcC l o.c k else 0) with
  | (.error e, s) => (some e, s)
  | (.ok v, s) => (none, s.modLane l fun y => y.wVs cx.front o.d.toNat (Ty.regs o.ty) v)

def atomBody (op : AtomOp) (o : AForm) (x : Issue) (s : State) : Done :=
  (laneLoop x (atomLane op o x.cx (s.ax (ordAcq o.m.ord))) s).returns

def execAtom (op : AtomOp) (o : AForm) (s : State) : Result :=
  let k := Ty.kind o.ty
  runInstr (.atom op o) o.g none .none
    { a := some (o.a, .i64), b := some (o.b, k), c := if op = .cas then some (o.c, k) else none } noDyn
    (released true o.m.scope (ordRel o.m.ord) (atomBody op o)) s

/-! ### ENQ and DEQ (R207–R210) -/

structure Rcb where
  base : Nat
  head : Nat
  tail : Nat
  log : Nat
  we : Bool
  wf : Bool
  ok : Bool
  deriving DecidableEq, Repr

def rcbOf (bs : List Byte) : Rcb :=
  let x := ofBytes bs
  let cap := bitsN x 159 128
  let fl := bitsN x 191 160
  let r : Rcb := { base := bitsN x 63 0, head := bitsN x 95 64, tail := bitsN x 127 96, log := cap % 32,
                   we := decide (fl % 2 = 1), wf := decide (fl / 2 % 2 = 1), ok := true }
  { r with ok := decide (r.base % 8 = 0) && decide (r.log ≤ 24) && decide (cap / 32 = 0) && decide (fl / 4 = 0) &&
      decide (bitsN x 255 192 = 0) && decide ((r.tail + 2 ^ 32 - r.head) % 2 ^ 32 ≤ 2 ^ r.log) }

/-- What one lane of ENQ or DEQ answers: the status and the item. -/
structure RingOut where
  st : Nat
  item : Nat
  deriving DecidableEq, Repr

/-- Slots filled and not taken. -/
def Rcb.used (r : Rcb) : Nat := (r.tail + 2 ^ 32 - r.head) % 2 ^ 32

/-- The address of the slot of a count. -/
def Rcb.slot (r : Rcb) (count : Nat) : Nat := (r.base + 8 * (count % 2 ^ r.log)) % 2 ^ 64

/-- The home of an RCB at `ring` writes a slot: one on a peer, from this device's memory, is a write of this device (R311). -/
def State.slotPut (s : State) (k : Nat) (ring : Nat) (y : Xlat) (bs : List Byte) : State :=
  if devOf (s.fwd ring) = s.devnum then ((s.carry y.lcl).homeStore k y.pa bs false).carry 0
  else (s.invalidateParcel (s.fwd y.pa / 2048)).homePut k y.lcl y.pa bs

/-- The same for a slot read. -/
def State.slotGet (s : State) (k : Nat) (ring : Nat) (y : Xlat) (n : Nat) : List Byte × State :=
  if devOf (s.fwd ring) = s.devnum ∧ devOf (s.fwd y.pa) ≠ s.devnum then
    let (bs, s) := (s.carry y.lcl).homeRead y.pa n
    (bs, (s.sawLine k (s.fwd y.pa)).carry 0)
  else s.homeBytes k y.lcl y.pa n

/-- One lane's step on the RCB at va: `item` is none for DEQ (R209, R210). -/
def State.ring (s : State) (a : Ax) (rel : Bool) (va : Nat) (item : Option Nat) : Except Stop RingOut × State :=
  if va % 32 ≠ 0 then (.error (.trap ⟨0x09, 5⟩), s)
  else
    match s.homeSpot a .rmw va 32 true with
    | (.error e, s) => (.error e, s)
    | (.ok x, s) =>
      let s := s.askHome x.pa (match item with | some v => .enq v | none => .deq)
      let (bs, s) := s.homeBytes a.n x.lcl x.pa 32
      let r := rcbOf bs
      if !r.ok then (.ok ⟨3, 0⟩, s)
      else
        let wake (s : State) (va pa : Nat) : State :=
          (s.wakeAt a.x.asid (BitVec.ofNat 64 va) (s.fwd pa) 0 (if rel then (s.core a.n).ct else 0)).2
        match item with
        | none =>
          if r.used = 0 then (.ok ⟨2, 0⟩, s)
          else
            let va' := r.slot r.head
            match s.homeSpot a .take va' 8 true with
            | (.error e, s) => (.error e, s)
            | (.ok y, s) =>
              let (d, s) := s.slotGet a.n x.pa y 8
              let s := s.homePut a.n x.lcl (x.pa + 8) (toBytes 4 (r.head + 1))
              let s := if r.wf && r.used == 2 ^ r.log then wake s (va + 8) (x.pa + 8) else s
              (.ok ⟨0, ofBytes d⟩, s)
        | some v =>
          if r.used = 2 ^ r.log then (.ok ⟨1, 0⟩, s)
          else
            let va' := r.slot r.tail
            match s.homeSpot a .write va' 8 false with
            | (.error e, s) => (.error e, s)
            | (.ok y, s) =>
              let s := s.slotPut a.n x.pa y (toBytes 8 v)
              let s := s.homePut a.n x.lcl (x.pa + 12) (toBytes 4 (r.tail + 1))
              let s := if r.we && r.used == 0 then wake s (va + 12) (x.pa + 12) else s
              (.ok ⟨0, 0⟩, s)

/-- One lane of ENQ or DEQ, its status and its item. -/
def ringLane (o : MForm MMod) (enq : Bool) (cx : RdCx) (ax : Ax) (l : Nat) (s : State) : Option Stop × State :=
  let item := if enq then some (ofBytes (storeData cx l o.b 2 8)) else none
  match s.ring ax (ordRel o.m.ord) (cx.va o.a (moffVal o.off) l) item with
  | (.error e, s) => (some e, s)
  | (.ok r, s) =>
    (none, s.modLane l fun y =>
      if enq then y.wV cx.front o.d.toNat (BitVec.ofNat 32 r.st)
      else (y.wVs cx.front o.d.toNat 2 r.item).wV cx.front (o.d.toNat + 2) (BitVec.ofNat 32 r.st))

def ringBody (o : MForm MMod) (enq : Bool) (x : Issue) (s : State) : Done :=
  (laneLoop x (ringLane o enq x.cx (s.ax (ordAcq o.m.ord))) s).returns

def execEnq (o : MForm MMod) (s : State) : Result :=
  runInstr (.enq o) o.g none .none { a := some (o.a, .i64), b := some (o.b, .i64) } noDyn
    (released true o.m.scope (ordRel o.m.ord) (ringBody o true)) s
def execDeq (o : MForm MMod) (s : State) : Result :=
  runInstr (.deq o) o.g none .none (memSrcs o.a) noDyn
    (released true o.m.scope (ordRel o.m.ord) (ringBody o false)) s

/-! ### WAITV (R211–R215) -/

/-- Whose entry a lane of the issuing warp joins. -/
def State.gazOwner (s : State) : GazOwner :=
  .warp s.cur.who s.warp.task s.warp.wid s.warp.ctxbase

/-- The entry of a key that the issuing warp has: the lanes of one warp share it (R213). -/
def State.gazMine (s : State) (asid : Word) (va : Nat) (e : GazEntry) : Bool :=
  (match e.owner with
    | .warp who task wid _ => task == s.warp.task && wid == s.warp.wid && (!inSl s || who == s.cur.who)
    | _ => false) && e.asid == asid && e.va == BitVec.ofNat 64 va && e.msi.isNone

/-- The number of the warp's entry on a key, or of the one it would take. -/
def State.gazId (s : State) (asid : Word) (va : Nat) : Nat :=
  match s.gaz.find? (s.gazMine asid va) with
  | some e => e.id
  | none => s.gaz.foldl (fun m e => max m (e.id + 1)) 0

/-- A peer's home has no entry to give (R351): free. -/
def State.peerFull (s : State) (pa l : Nat) : Bool :=
  decide (devOf pa ≠ s.devnum) && decide (Config.choice s.draw (790000 + l) % 2 = 1)

/-- Record a lane in the entry of its key and warp, or in a new one (R213); none where no entry is free, at the home of
a peer's word too. -/
def State.gazJoin (s : State) (asid : Word) (va pa die : Nat) (g : GazLane) : Option State :=
  if s.gaz.any (s.gazMine asid va) then
    some { s with gaz := s.gaz.map fun e => if s.gazMine asid va e then { e with lanes := e.lanes ++ [g] } else e }
  else if s.gazFree die && !s.peerFull pa g.lane then
    some { s with gaz := s.gaz ++ [{ die := die, asid := asid, va := BitVec.ofNat 64 va, pa := pa, owner := s.gazOwner, lanes := [g]
                                     id := s.gazId asid va }] }
  else none

/-- One lane of WAITV: its status, or none where it waits. -/
def State.waitv (s : State) (a : Ax) (o : AForm) (l va y : Nat) (deadline : DWord) : Except Stop (Option Nat) × State :=
  let k := 4 * Ty.regs o.ty
  if va % k ≠ 0 then (.error (.trap ⟨0x09, if k = 4 then 2 else 3⟩), s)
  else
    match s.homeSpot a .read va k true with
    | (.error e, s) => (.error e, s)
    | (.ok x, s) =>
      let s := s.askHome x.pa (.compare k y (s.gazId a.x.asid va))
      let (bs, s) := s.homeBytes a.n x.lcl x.pa k
      if ofBytes bs ≠ y then (.ok (some 1), s)
      else if deadline ≠ 0 ∧ deadline ≤ s.time then (.ok (some 2), s)
      else
        match s.gazJoin a.x.asid va (s.fwd x.pa) (s.gazDie x.pa a.n) ⟨l, o.d, deadline⟩ with
        | none => (.ok (some 4), s)
        | some s =>
          (.ok none, s.modLane l fun z => { z with st := .waiting, wait := .gaz deadline o.d })

/-- One lane of WAITV: its status, or its wait. -/
def waitvLane (o : AForm) (cx : RdCx) (ax : Ax) (l : Nat) (s : State) : Option Stop × State :=
  match s.waitv ax o l (cx.srcA l o.a .i64) (cx.srcB l o.b (Ty.kind o.ty)) (BitVec.ofNat 64 (cx.srcC l o.c .i64)) with
  | (.error e, s) => (some e, s)
  | (.ok (some st), s) => (none, s.modLane l fun y => y.wV cx.front o.d.toNat (BitVec.ofNat 32 st))
  | (.ok none, s) => (none, s)

/-- The lanes of m that run on in a state. -/
def State.stillRun (s : State) (m : Mask) : Mask := maskOf ((lanesOf m).filter fun l => (s.warp.lane l).st = .runnable)

def waitvBody (o : AForm) (x : Issue) (s : State) : Done :=
  let d := laneLoop x (waitvLane o x.cx (s.ax (ordAcq o.m.ord))) s
  Done.returns { s := d.s, adv := d.s.stillRun d.adv }

def execWaitv (o : AForm) (s : State) : Result :=
  let k := Ty.kind o.ty
  runInstr (.waitv o) o.g none .none { a := some (o.a, .i64), b := some (o.b, k), c := some (o.c, .i64) } noDyn (waitvBody o) s

/-- The entries of a die in order of creation, with their positions in the list. -/
def State.dieEntry (s : State) (die k : Nat) : Option GazEntry := (s.gaz.filter fun e => e.die == die)[k]?

/-- The lanes of an entry whose deadline fell in an earlier tick leave it with status 2 (R350). -/
def execWaitvDeadline (die k : Nat) (s : State) : Result :=
  .next (match s.dieEntry die k with
    | none => s
    | some e => s.expireEntry true e)

/-! ### WAKEV (R214, R351) -/

def State.wakev (s : State) (a : Ax) (rel : Bool) (va n : Nat) : Except Stop Nat × State :=
  if va % 4 ≠ 0 then (.error (.trap ⟨0x09, 2⟩), s)
  else
    match s.homeSpot a .wake va 4 false with
    | (.error e, s) => (.error e, s)
    | (.ok x, s) =>
      let t := if rel then (s.core a.n).ct else 0
      let s := if s.place (s.fwd x.pa) = .dram then s.claim (s.fwd x.pa) true else s
      let (k, s) := s.wakeAt a.x.asid (BitVec.ofNat 64 va) (s.fwd x.pa) n t
      (.ok k, s)

/-- One lane of WAKEV and its count. -/
def wakevLane (o : MForm MMod) (cx : RdCx) (ax : Ax) (l : Nat) (s : State) : Option Stop × State :=
  match s.wakev ax (ordRel o.m.ord) (cx.va o.a (moffVal o.off) l) (cx.srcB l o.b .i32) with
  | (.error e, s) => (some e, s)
  | (.ok k, s) => (none, s.modLane l fun y => y.wV cx.front o.d.toNat (BitVec.ofNat 32 k))

def wakevBody (o : MForm MMod) (x : Issue) (s : State) : Done :=
  (laneLoop x (wakevLane o x.cx (s.ax false)) s).returns

def execWakev (o : MForm MMod) (s : State) : Result :=
  runInstr (.wakev o) o.g none .none { a := some (o.a, .i64), b := some (o.b, .i32) } noDyn
    (released true o.m.scope (ordRel o.m.ord) (wakevBody o)) s

/-- The home of a peer's word releases the entry of this device that its proxy names, with status 0 (R351); the lanes
acquire no less than FF (R310). -/
def execProxyWake (die k : Nat) (s : State) : Result :=
  .next (match s.gaz.find? fun e => e.die == die && e.id == k && devOf e.pa != s.devnum with
    | some e => { s.wakeEntry e 0 s.ff with gaz := s.gaz.filter fun x => x ≠ e }
    | none => s)

/-- A waiting device reports that its entry has emptied: the proxy of it is free (R351). -/
def execProxyEntryEmptied (die k : Nat) (s : State) : Result :=
  match s.dieEntry die k with
  | some e =>
    match e.owner with
    | .proxy _ _ _ => .next { s with gaz := s.gaz.filter fun x => x ≠ e }
    | _ => .next s
  | none => .next s

end Sys2Proof.Machine
end

