-- ==== Sys2Proof/Machine/Barrier.lean ====
section
/-! DEFINITION. Barrier objects and group votes (R216–R221), and tags (R222, R223). -/

namespace Sys2Proof.Machine

/-! ### Barrier objects (R216) -/

def BarObj.init : BarObj :=
  { phase := 0, nmem := 0, arr := 0, pend := 0, any := false, all := true, anyLast := false, allLast := false }

def bit (b : Bool) : Nat := if b then 1 else 0

/-- The 16 bytes of an object. -/
def BarObj.bytes (b : BarObj) : List Byte :=
  toBytes 2 b.nmem ++ toBytes 2 b.arr ++ toBytes 4 0 ++ toBytes 2 b.phase.toNat ++
    [BitVec.ofNat 8 (bit b.all + 2 * bit b.any + 4 * bit b.anyLast + 8 * bit b.allLast)] ++ toBytes 5 (truncI 40 b.pend)

def barOf (bs : List Byte) : BarObj :=
  let x := ofBytes bs
  { nmem := bitsN x 15 0, arr := bitsN x 31 16, phase := BitVec.ofNat 16 (bitsN x 79 64)
    all := decide (bitsN x 80 80 = 1), any := decide (bitsN x 81 81 = 1), anyLast := decide (bitsN x 82 82 = 1)
    allLast := decide (bitsN x 83 83 = 1), pend := sextI 40 (bitsN x 127 88) }

/-- Where the object of a group lies: in its core, or at BOA in the task's address space (R40, R41). -/
inductive BarRef where
  | core (n key : Nat)
  | mem (x : XCx) (boa : Nat)
  deriving DecidableEq, Repr

/-- Key of a core-local object. -/
def barKey (task : Word) (g : Nat) : Nat := task.toNat * 256 + g

/-- The object of group g of a warp's task, for a warp on core n. -/
def State.barRef (s : State) (n : Nat) (w : Warp) (user : Bool) (g : Nat) : BarRef :=
  match find s.disp.tasks w.task.toNat with
  | some t =>
    if t.localGroups.contains g then .core n (barKey w.task g)
    else .mem { core := n, ptroot := w.ptroot, asid := w.asid, user := user } ((t.bobase.toNat + 16 * g) % 2 ^ 64)
  | none => .mem { core := n, ptroot := w.ptroot, asid := w.asid, user := user } (16 * g)

/-- The object, and where it lies; an object in memory is translated as a store needs it. -/
def State.barGet (s : State) (n : Nat) (r : BarRef) (agent : Bool := false) : Except Stop (BarObj × Nat) × State :=
  match r with
  | .core n k => (.ok (look BarObj.init (s.core n).bars k, 0), s)
  | .mem cx boa =>
    match s.homeSpot { x := cx, w := Warp.empty, acq := true, agent := agent } .write boa 16 true with
    | (.error e, s) => (.error e, s)
    | (.ok x, s) =>
      let (bs, s) := s.homeBytes n x.lcl x.pa 16
      (.ok (barOf bs, x.pa), s)

def State.barPut (s : State) (n : Nat) (r : BarRef) (pa : Nat) (b : BarObj) : State :=
  match r with
  | .core n k => s.modCore n fun c => { c with bars := put BarObj.init c.bars k b }
  | .mem _ _ => s.homePut n 0 pa b.bytes

/-- The one test for completion (R218): the object after it, and the phase that it completed. -/
def BarObj.test (b : BarObj) : BarObj × Option (BitVec 16) :=
  if b.arr = b.nmem ∧ b.pend = 0 then
    ({ b with allLast := b.all, anyLast := b.any, all := true, any := false, arr := 0, phase := b.phase + 1 },
      some b.phase)
  else (b, none)

/-- What a wait with a vote writes (R219). -/
def voteOut (b : BarObj) (vop : BitVec 2) : Bool :=
  match vop.toNat with
  | 0 => b.allLast | 1 => b.anyLast | _ => b.allLast || !b.anyLast

/-- Lane l of a warp that waits on %grp(k) for a phase that completed: past the BAR with its vote, or at the BAR
again where its arrival waited. -/
def Warp.barLane (b : BarObj) (k : Nat) (l : Nat) (w : Warp) : Warp :=
  let y := w.lane l
  match y.wait with
  | .barrier k' vote again =>
    if k'.toNat ≠ k then w
    else if again then w.joinFront l y
    else
      let y := { y with pc := y.pc + 4 }
      w.joinFront l (match vote with
        | some (vop, vout) => y.wP (frontOf y.sv) vout.toNat (voteOut b vop)
        | none => y)
  | _ => w

/-- Release the clusters of a warp that wait on the completed phase of group g. -/
def Warp.barRelease (b : BarObj) (g : Nat) (ph : BitVec 16) (w : Warp) : Warp :=
  (List.range 4).foldl (fun w k =>
    if w.groupOk k && (w.groupId k).toNat == g then
      match find w.phases k with
      | some r =>
        if r.phase = ph then
          let waits := (lanesOf (BitVec.allOnes 32)).filter fun l => match (w.lane l).wait with
            | .barrier k' _ again => k'.toNat == k && !again | _ => false
          let w := (lanesOf (BitVec.allOnes 32)).foldl (fun w l => w.barLane b k l) w
          if waits = [] then w else { w with phases := ins w.phases k { r with pw := false } }
        else w
      | none => w
    else w) w

/-- Release every cluster of a task that waits on the completed phase; t is the time its wait acquires. -/
def State.barRelease (s : State) (task : Word) (g : Nat) (b : BarObj) (ph : BitVec 16) (t : Nat) : State :=
  s.cores.foldl (fun s e =>
    (s.core e.1).slots.foldl (fun s p =>
      if p.2.task = task then
        let w := (s.core e.1).warp (.slot p.1)
        let w' := w.barRelease b g ph
        if w' = w then s else (s.modCore e.1 fun c => c.setWarp (.slot p.1) w').acquire e.1 t
      else s) s) s

/-- An object that has changed to b: it is tested once, written, and what a completion releases is released (R218). -/
def State.barSet (s : State) (n : Nat) (task : Word) (g : Nat) (r : BarRef) (pa : Nat) (b : BarObj) : State :=
  let (b, done) := b.test
  let s := s.barPut n r pa b
  match done with
  | some ph => s.barRelease task g b ph (s.core n).ct
  | none => s

/-- Change an object; why it could not be changed. -/
def State.barChange (s : State) (n : Nat) (task : Word) (g : Nat) (r : BarRef) (f : BarObj → BarObj)
    (agent : Bool := false) : Option Stop × State :=
  match s.barGet n r agent with
  | (.error e, s) => (some e, s)
  | (.ok (b, pa), s) => (none, s.barSet n task g r pa (f b))

/-! ### BAR (R217–R221) -/

def barVote (o : BarForm) : Option (BitVec 2 × BitVec 3) := if o.ve then some (o.vop, o.vout) else none

/-- BAR where there is no group: the issuing cluster is the only contributor (R221). A wait that does not
arrive writes the vote of none (log entry 94). -/
def barAlone (arrives waits : Bool) (o : BarForm) (x : Issue) (s : State) : Done :=
  let votes := (lanesOf x.act).map fun l => x.cx.rP 5 l o.vin.toNat
  let b : BarObj := if arrives then { BarObj.init with allLast := votes.all id, anyLast := votes.any id }
    else { BarObj.init with allLast := true }
  if waits && o.ve then
    { s := s.modWarp fun w => w.onLanes x.act fun _ y => y.wP x.cx.front o.vout.toNat (voteOut b o.vop), adv := x.act }
  else { s := s, adv := x.act }

/-- The lanes of the cluster wait on %grp(k). -/
def State.barWaits (s : State) (o : BarForm) (again : Bool) (m : Mask) : State :=
  s.modWarp fun w => w.onLanes m fun _ y =>
    { y with st := .waiting, wait := .barrier o.k (barVote o) again }

/-- BAR.ARRIVE, .WAIT and .SYNC. -/
def barBody (arrives waits : Bool) (o : BarForm) (x : Issue) (s : State) : Done :=
  if x.act = 0 then { s := s, adv := 0 }
  else if inSl s || !s.warp.groupOk o.k.toNat then barAlone arrives waits o x s
  else
    let n := s.cur.who.core
    let k := o.k.toNat
    let g := (s.warp.groupId k).toNat
    let r := s.barRef n s.warp (s.cur.front == .user) g
    let (stop, s) := if arrives then s.release true .group true x.act else (none, s)
    match stop with
    | some e => stopAll x e s
    | none =>
    match s.barGet n r with
    | (.error e, s) => stopAll x e s
    | (.ok (b, pa), s) =>
      let rec_ := find s.warp.phases k
      if arrives && (rec_.map (·.phase)) == some b.phase then { s := s.barWaits o true x.act, adv := 0 }
      else if arrives then
        let votes := (lanesOf x.act).map fun l => x.cx.rP 5 l o.vin.toNat
        let s := s.modWarp fun w => { w with phases := ins w.phases k ⟨b.phase, true⟩ }
        let s := if waits then s.barWaits o false x.act else s
        let vote (b : BarObj) : BarObj :=
          if o.ve then { b with all := b.all && votes.all id, any := b.any || votes.any id } else b
        { s := s.barSet n s.warp.task g r pa (vote { b with arr := b.arr + 1 }), adv := if waits then 0 else x.act }
      else
        match rec_ with
        | some p =>
          if p.pw && p.phase == b.phase then { s := s.barWaits o false x.act, adv := 0 }
          else
            let s := s.modWarp fun w =>
              let w : Warp := { w with phases := ins w.phases k { p with pw := false } }
              if o.ve then w.onLanes x.act fun _ y => y.wP x.cx.front o.vout.toNat (voteOut b o.vop) else w
            { s := s, adv := x.act }
        | none =>
          { s := if o.ve then s.modWarp fun w => w.onLanes x.act fun _ y => y.wP x.cx.front o.vout.toNat (voteOut b o.vop)
              else s
            adv := x.act }

def execBarArrive (o : BarForm) (s : State) : Result :=
  runInstr (.barArrive o) o.g none o.perm {} noDyn (barBody true false o) s
def execBarWait (o : BarForm) (s : State) : Result :=
  runInstr (.barWait o) o.g none o.perm {} noDyn (barBody false true o) s
def execBarSync (o : BarForm) (s : State) : Result :=
  runInstr (.barSync o) o.g none o.perm {} noDyn (barBody true true o) s

/-- .pend: PEND := PEND + sext(srcB, 40) (R220). -/
def execBarPend (o : BarForm) (s : State) : Result :=
  runInstr (.barPend o) o.g none o.perm { b := some (o.b, .i32) } noDyn
    (onceAct fun x s =>
      if inSl s || !s.warp.groupOk o.k.toNat then (none, s)
      else
        let n := s.cur.who.core
        let g := (s.warp.groupId o.k.toNat).toNat
        let v := sextI 32 (x.cx.srcB (lowLane x.act) o.b .i32)
        s.barChange n s.warp.task g (s.barRef n s.warp (s.cur.front == .user) g)
          fun b => { b with pend := sextI 40 (truncI 40 (b.pend + v)) }) s

/-- A warp leaves its groups (R221): the Dispatcher's change at the exit of the warp, recorded where it cannot be
made (R216). A field of 0 stays 0 (log entry 95). -/
def State.leaveGroups (s : State) (n : Nat) (w : Warp) : State :=
  (List.range 4).foldl (fun s k =>
    if !w.groupOk k then s
    else
      let g := (w.groupId k).toNat
      let ph := find w.phases k
      match s.barChange n w.task g (s.barRef n w false g) (fun b =>
          { b with nmem := b.nmem - 1
                   arr := if (ph.map (·.phase)) == some b.phase then b.arr - 1 else b.arr }) true with
      | (some _, s) => s.append { sev := .contained, src := 4, cause := 0x2E, sub := 4, unit := 0, task := w.task }
      | (none, s) => s) s

/-! ### Tags (R222, R223) -/

/-- The lanes of a warp whose TWAIT the tag bits meet go on. -/
def Warp.wakeTwait (b : BitVec 64) (w : Warp) : Warp :=
  let met (m : DWord) (all : Bool) : Bool := if all then b &&& m == m else (b &&& m) != 0 || m == 0
  (lanesOf (BitVec.allOnes 32)).foldl (fun w l =>
    let y := w.lane l
    match y.wait with
    | .twait m all => if met m all then w.joinFront l { y with pc := y.pc + 4 } else w
    | _ => w) w

def Core.wakeTwait (c : Core) : Core :=
  { c with slots := c.slots.map fun e => (e.1, e.2.wakeTwait c.tagbits)
           sl := { c.sl with warp := c.sl.warp.wakeTwait c.tagbits } }

def bitOf (n : Nat) : BitVec 64 := BitVec.ofNat 64 (2 ^ n)

/-- The tag is free: no warp of the core holds it. -/
def Core.freeTag (c : Core) (n : Nat) : Core :=
  let off (w : Warp) : Warp := if w.town.getLsbD n then { w with town := w.town &&& ~~~bitOf n } else w
  { c with tagUsed := c.tagUsed &&& ~~~bitOf n, tagbits := c.tagbits &&& ~~~bitOf n, tagDrop := c.tagDrop &&& ~~~bitOf n
           slots := c.slots.map fun e => (e.1, off e.2)
           sl := { c.sl with warp := off c.sl.warp } }

/-- The engine of tag n completes: its bit is set, or the tag is free where TCLR or an exit gave it up. -/
def State.tagDone (s : State) (core n : Nat) : State :=
  s.modCore core fun c =>
    let c : Core := { c with runs := del c.runs n }
    if c.tagDrop.getLsbD n then c.freeTag n else { c with tagbits := c.tagbits ||| bitOf n }.wakeTwait

/-- TWAIT: the cluster waits until the bits of the mask are set. -/
def twaitBody (all : Bool) (a : Src) (x : Issue) (s : State) : Done :=
  if x.act = 0 then { s := s, adv := 0 }
  else
    let m : DWord := BitVec.ofNat 64 (x.cx.srcA (lowLane x.act) a .i64)
    let b := (s.core s.cur.who.core).tagbits
    let met := if all then b &&& m == m else (b &&& m) != 0 || m == 0
    if met then { s := s, adv := x.act }
    else { s := s.modWarp fun w => w.onLanes x.act fun _ y => { y with st := .waiting, wait := .twait m all }, adv := 0 }

def tagSrcs (o : WForm NoMod) : SrcKinds := { a := some (o.a, .i64) }

def execTwaitAny (o : WForm NoMod) (s : State) : Result :=
  runInstr (.twaitAny o) o.g o.lit o.perm (tagSrcs o) noDyn (twaitBody false o.a) s
def execTwaitAll (o : WForm NoMod) (s : State) : Result :=
  runInstr (.twaitAll o) o.g o.lit o.perm (tagSrcs o) noDyn (twaitBody true o.a) s

/-- The lowest n with bit n set, or 64. -/
def lowTag (m : BitVec 64) : Nat := ((List.range 64).find? fun n => m.getLsbD n).getD 64

def execTffr (o : WForm NoMod) (s : State) : Result :=
  let b := (s.core s.cur.who.core).tagbits
  runInstr (.tffr o) o.g o.lit o.perm (tagSrcs o) noDyn
    (onWarp (iWrite true o.d 1 fun cx l => lowTag (b &&& BitVec.ofNat 64 (cx.srcA l o.a .i64)))) s

def execTclr (o : WForm NoMod) (s : State) : Result :=
  runInstr (.tclr o) o.g o.lit o.perm (tagSrcs o) noDyn
    (onceAct fun x s =>
      let m : BitVec 64 := BitVec.ofNat 64 (x.cx.srcA (lowLane x.act) o.a .i64)
      let mine := m &&& s.warp.town
      (none, s.modCore s.cur.who.core fun c =>
        ((List.range 64).filter fun n => mine.getLsbD n).foldl (fun c n =>
          if c.tagbits.getLsbD n then c.freeTag n else { c with tagDrop := c.tagDrop ||| bitOf n }) c)) s

/-- The tags of a warp whose slot is freed (R223). -/
def Core.dropTags (c : Core) (town : BitVec 64) : Core :=
  ((List.range 64).filter fun n => town.getLsbD n).foldl (fun c n =>
    if c.tagbits.getLsbD n then c.freeTag n else { c with tagDrop := c.tagDrop ||| bitOf n }) c

end Sys2Proof.Machine
end

