-- ==== Sys2Proof/Machine/Regions.lean ====
section
/-! DEFINITION. Accumulator regions, tokens and contributions (R57–R59, R80, R81, R87–R92, R204–R206, R225–R232,
R241–R245, R411–R413). -/

namespace Sys2Proof.Machine

/-! ### Descriptors and regions (R57, R58, R225) -/

structure AccD where
  key : BitVec 16
  hcore : Nat
  v : Bool
  q : Int
  fixed : Bool
  rows : Nat
  cols : Nat
  line : Nat
  deriving DecidableEq, Repr

def accD (d : Desc128) : AccD :=
  let x := d.toNat
  { key := d.extractLsb' 112 16, hcore := bitsN x 102 96, v := d.getLsbD 30, q := sextI 9 (bitsN x 29 21)
    fixed := d.getLsbD 20, cols := 8 * 2 ^ bitsN x 19 17, rows := 8 * 2 ^ bitsN x 16 14, line := bitsN x 13 0 }

/-- Bytes of an element, lines of the region. -/
def elemBytes (fixed : Bool) : Nat := if fixed then 16 else 4
def AccD.lines (a : AccD) : Nat := a.rows * a.cols * elemBytes a.fixed / 128

def Region.size (r : Region) : Nat := r.rows * r.cols
def Region.at_ (r : Region) (e : Nat) : BitVec 128 := look 0 r.elems e
/-- The sector of an element (R413). -/
def Region.sector (r : Region) (e : Nat) : Nat := e * elemBytes r.fixed / 32
def Region.bad (r : Region) (e : Nat) : Bool := r.poison.contains (r.sector e)

/-- The check of R206 without the element: the region, or the SUB of R397. -/
def Slice.match_ (x : Slice) (a : AccD) : Except Nat Region :=
  if !a.v then .error 1
  else match find x.regions a.line with
    | none => .error 4
    | some r => if r.key = a.key then .ok r else .error 2

/-- The check of R411 step 1: shape as well. -/
def Slice.matchShape (x : Slice) (a : AccD) : Option Region :=
  match x.match_ a with
  | .ok r => if r.rows = a.rows ∧ r.cols = a.cols then some r else none
  | .error _ => none

def State.modRegion (s : State) (h line : Nat) (f : Region → Region) : State :=
  s.modSlice h fun x => match find x.regions line with
    | some r => { x with regions := ins x.regions line (f r) } | none => x

/-- The issuing warp as a slice knows it (R225). -/
def State.source (s : State) : Source :=
  { task := s.warp.task, wid := s.warp.wid, core := if inSl s then some s.cur.who.core else none }

/-! ### Elements (R80, R81, R87, R88) -/

/-- Round-to-nearest sum in FP32 with subnormals honoured. -/
def add32 (x y : Word) : Word := BitVec.ofNat 32 (fElem .add Machine.fp32 ⟨.rne, false, false⟩ .rne x.toNat y.toNat 0).1

/-- fw_add of R81 on a region's element. -/
def Region.fwAdd (r : Region) (e : Nat) (v : Word) : Region :=
  match Machine.fp32.value v.toNat with
  | .nan _ => { r with nvf := true }
  | .inf _ => { r with ovf := true }
  | .fin neg m x =>
    let (c, _) := roundInt .rne neg m (x - r.q)
    let t := (r.at_ e).toInt + c
    let out (i : Int) : Bool := decide (i < -(2 ^ 127 : Nat)) || decide (((2 ^ 127 : Nat) : Int) ≤ i)
    { r with ovf := r.ovf || out c || out t, elems := put 0 r.elems e (BitVec.ofInt 128 t) }

/-- One contribution to an element that is not poisoned (R87, R88, R413). -/
def Region.add (r : Region) (e : Nat) (v : Word) : Region :=
  if r.bad e then r
  else if r.fixed then r.fwAdd e v
  else { r with elems := put 0 r.elems e ((add32 ((r.at_ e).setWidth 32) v).setWidth 128) }

/-- fw_read: n × 2^q rounded to FP32, with the flags of that rounding (R81, R84). -/
def fwRead (n : Int) (q : Int) : Nat × Flags :=
  let x := FloatFmt.round Machine.fp32 .rne false (decide (n < 0)) n.natAbs q false
  (x.bits, x.fl)

/-- n × 2^q rounded to FP32 (R81). -/
def fwRound (n : Int) (q : Int) : Nat := (fwRead n q).1

/-- The FP32 value of an element, and the flags that reading it raises (R84, R241; log entry 124). -/
def Region.readF (r : Region) (e : Nat) : Nat × Flags :=
  if r.fixed then fwRead (r.at_ e).toInt r.q else ((r.at_ e).toNat % 2 ^ 32, 0)

/-- The FP32 value of an element (R241). -/
def Region.read (r : Region) (e : Nat) : Nat := (r.readF e).1

/-! ### Accumulator errors (R397, R412) -/

/-- Slice h records an accumulator error: in the registers of the core that sent the request, and as its own record (R395,
R397, R412, R426). -/
def State.accError (s : State) (h core : Nat) (src : Source) (sub unit lane : Nat) : State :=
  (s.modCore core (Core.recordErr { cause := 0x25, sub := sub, sev := .contained, unit := unit, lane := lane, wid := src.wid,
                                    task := src.task, addr := 0 })).append
    { sev := .contained, src := 1, cause := 0x25, sub := sub, unit := h, task := src.task
      detail0 := BitVec.ofNat 32 (src.wid.toNat % 65536 * 65536 + lane % 32) }

/-! ### Grants and disarming (R228–R230) -/

/-- A step taken as the issue c: traps outside an issue name its instruction. -/
def State.asIssue (s : State) (c : Cur) (f : State → State) : State :=
  let old := s.cur
  { f { s with cur := c } with cur := old }

def MacqReq.cur (q : MacqReq) : Cur :=
  { who := q.who, front := q.front, cluster := q.lanes, pc := q.addr, words := q.words, len := q.len }

/-- The front of a MACQ goes on. -/
def State.unhold (s : State) (q : MacqReq) : State :=
  s.modWarpOf q.who fun w => w.setFront q.front { w.front q.front with hold := .none }

/-- A waiting MACQ fails: its lanes, still at the MACQ, take the token fault (R228). -/
def State.failMacq (s : State) (q : MacqReq) : State :=
  (s.unhold q).asIssue q.cur fun s =>
    (s.trapMask q.lanes (fun _ => ⟨0x13, 2⟩) fun _ => Tops.zero).modWarp fun w => w.left q.front

/-- Something that the warp of a MACQ sent to the region at a line before it is still on its way (R228). -/
def Slice.sends (x : Slice) (line : Nat) (q : MacqReq) : Bool :=
  x.inq.any fun r => r.src == q.src && decide (r.no < q.upTo) && ((r.op.handle.map fun h => (accD h).line == line).getD true)

/-- The first waiting MACQ that may be granted (R228). -/
def Slice.grantable (x : Slice) (line : Nat) (r : Region) : Option MacqReq :=
  if r.rel < r.exp then none
  else r.waiting.find? fun q => (r.holder.isNone || r.holder == some q.src) && !x.sends line q

/-- A grant that has become possible comes about next. -/
def State.tryGrant (s : State) (h line : Nat) : State :=
  match find (s.slice h).regions line with
  | some r => if ((s.slice h).grantable line r).isSome then s.push (.macqGrant h line) else s
  | none => s

/-- Grants that have become possible in a slice come about next. -/
def State.tryGrants (s : State) (h : Nat) : State := (s.slice h).regions.foldl (fun s e => s.tryGrant h e.1) s

/-- Disarm a region: its lines rejoin the cache and its waiting MACQs fail (R229, R230). -/
def State.disarm (s : State) (h line : Nat) : State :=
  match find (s.slice h).regions line with
  | some r =>
    let s := s.modSlice h fun x => { x with regions := del x.regions line }
    r.waiting.foldl (fun s q => s.failMacq q) s
  | none => s

/-- The first grant that the region allows (R228). -/
def execMacqGrant (slice line : Nat) (s : State) : Result :=
  match find (s.slice slice).regions line with
  | none => .next s
  | some r =>
    match (s.slice slice).grantable line r with
    | none => .next s
    | some q =>
      let s := s.modRegion slice line fun r =>
        { r with holder := some q.src, rel := if r.holder.isNone then r.rel - r.exp else r.rel
                 waiting := r.waiting.filter fun p => p ≠ q }
      let s := (s.unhold q).modWarpOf q.who fun w => w.advance q.lanes q.len
      .next ((s.acquire q.who.core r.time).tryGrant slice line)

/-! ### Requests at the slice (R205, R206, R229) -/

/-- Apply the first n contributions of a request, or all of it where they stand or fall together. -/
def State.applySome (s : State) (h : Nat) (q : SliceReq) (hd : Desc128) (whole : Option Nat)
    (bad marks : Bool) (n : Nat) (es : List (Nat × Nat × Word)) : State × Option SliceReq :=
  let a := accD hd
  match (s.slice h).match_ a with
  | .error k => (if bad then s else s.accError h q.core q.src k (if whole.isSome then 1 else 0) ((es.head?.map (·.1)).getD 0), none)
  | .ok r =>
    if whole.isSome && es.any fun e => decide (r.size ≤ e.2.1) then (s.accError h q.core q.src 3 1 0, none)
    else
      let (now, later) := (es.take n, es.drop n)
      let s := s.modRegion h a.line fun r => now.foldl (fun r e =>
        if r.size ≤ e.2.1 then r
        else if marks then { r with poison := if r.bad e.2.1 then r.poison else r.sector e.2.1 :: r.poison }
        else r.add e.2.1 e.2.2) r
      let firstBad := now.find? fun e => decide (r.size ≤ e.2.1)
      let s := match firstBad with
        | some e => if bad then s else s.accError h q.core q.src 3 0 e.1
        | none => s
      (s, if later = [] then none
        else some { q with op := .contribute hd whole (bad || firstBad.isSome) marks later })

/-- Perform a release (R229). -/
def State.applyRelease (s : State) (h : Nat) (q : SliceReq) (hd : Desc128) (exp : Nat) (fin : Bool) (t : Nat) : State :=
  let a := accD hd
  match (s.slice h).match_ a with
  | .error k => s.accError h q.core q.src k 0 0
  | .ok r =>
    if r.holder = some q.src then
      if fin then s.disarm h a.line
      else (s.modRegion h a.line fun r => { r with holder := none, exp := exp % 65536, time := max r.time t }).tryGrant h a.line
    else if fin then s.accError h q.core q.src 5 0 0
    else (s.modRegion h a.line fun r => { r with rel := min 65535 (r.rel + 1), time := max r.time t }).tryGrant h a.line

/-- A freed warp returns its tokens with EXP unchanged, as a release (R229, R305). -/
def State.applyGiveUp (s : State) (h : Nat) (src : Source) (t : Nat) : State :=
  (s.slice h).regions.foldl (fun s e =>
    if e.2.holder = some src then
      (s.modRegion h e.1 fun r => { r with holder := none, time := max r.time t }).tryGrant h e.1
    else s) s

/-- The slice has accepted all of an MLOOP's contributions: its tag may complete (R239). -/
def State.accepted (s : State) (q : SliceReq) : State :=
  match q.op with
  | .contribute _ (some tag) _ _ _ => s.push (.mloopComplete q.core tag)
  | _ => s

/-- Perform a request whole. -/
def State.applyReq (s : State) (h : Nat) (q : SliceReq) : State :=
  match q.op with
  | .contribute hd whole bad marks es => (s.applySome h q hd whole bad marks es.length es).1.accepted q
  | .release hd exp fin t => s.applyRelease h q hd exp fin t
  | .giveUp t => s.applyGiveUp h q.src t
  | .mloop _ _ => s

/-- Requests that nothing of their source precedes, with their positions. -/
def firsts : List SliceReq → List Source → List SliceReq
  | [], _ => []
  | q :: qs, seen => if seen.contains q.src then firsts qs seen else q :: firsts qs (q.src :: seen)

/-- A release or the return of a freed warp's tokens. -/
def isRelease (q : SliceReq) : Bool := match q.op with | .release _ _ _ _ | .giveUp _ => true | _ => false

def isContribution (q : SliceReq) : Bool := match q.op with | .contribute _ _ _ _ _ => true | _ => false

/-- Remove the first occurrence. -/
def dropFirst [DecidableEq α] (x : α) : List α → List α
  | [] => []
  | y :: ys => if y = x then ys else y :: dropFirst x ys

/-- Replace the first occurrence. -/
def replaceFirst [DecidableEq α] (x z : α) : List α → List α
  | [] => []
  | y :: ys => if y = x then z :: ys else y :: replaceFirst x z ys

/-- What of a slice's requests may come about next, comes about: requests that had to wait are tried again. -/
def State.kick (s : State) (h : Nat) : State :=
  let fs := firsts (s.slice h).inq []
  let s := if fs.any isContribution then s.push (.contributionApply h 0) else s
  if fs.any isRelease then s.push (.countedRelease h 0) else s

/-- Contributions of the k-th warp that has some at the front of its requests are applied, a free number of them:
those of other warps may fall between (R87, R205). -/
def execContributionApply (slice k : Nat) (s : State) : Result :=
  match ((firsts (s.slice slice).inq []).filter isContribution)[k]? with
  | none => .next s
  | some q =>
    match q.op with
    | .contribute hd whole bad marks es =>
      let n := 1 + Config.choice s.draw 810000 % es.length
      let s : State := { s with draw := s.draw + 1 }
      match s.applySome slice q hd whole bad marks n es with
      | (s, none) =>
        let s := s.modSlice slice fun x => { x with inq := dropFirst q x.inq }
        .next (((s.accepted q).kick slice).tryGrants slice)
      | (s, some q') =>
        .next ((s.modSlice slice fun x => { x with inq := replaceFirst q q' x.inq }).push (.contributionApply slice 0))
    | _ => .next s

/-- The k-th release that nothing of its warp precedes is performed (R229). -/
def execCountedRelease (slice k : Nat) (s : State) : Result :=
  match ((firsts (s.slice slice).inq []).filter isRelease)[k]? with
  | none => .next s
  | some q =>
    let s := s.modSlice slice fun x => { x with inq := dropFirst q x.inq }
    .next (((s.applyReq slice q).kick slice).tryGrants slice)

/-- A request joins those on their way to a slice. -/
def Slice.take (x : Slice) (q : SliceReq) : Slice :=
  { x with inq := x.inq ++ [{ q with no := x.sentNo }], sentNo := x.sentNo + 1 }

/-- A request is on its way to a slice. -/
def State.sendReq (s : State) (h : Nat) (q : SliceReq) : State :=
  let s := (s.wakeWay q.core (128 + h)).modSlice h fun x => x.take q
  s.push (if isContribution q then .contributionApply h 0 else .countedRelease h 0)

/-- Every request for a region that the slice has accepted is performed, then the region is disarmed (R230). -/
def State.drainRegion (s : State) (h line : Nat) : State :=
  let mine (q : SliceReq) : Bool := match q.op with
    | .contribute hd _ _ _ _ => (accD hd).line == line
    | .release hd _ _ _ => (accD hd).line == line
    | .giveUp _ | .mloop _ _ => false
  let qs := (s.slice h).inq.filter mine
  let s := s.modSlice h fun x => { x with inq := x.inq.filter fun q => !mine q }
  (qs.foldl (fun s q => s.applyReq h q) s).disarm h line

/-- REGDIS (R230). -/
def execRegdis (slice : Nat) (v : Word) (s : State) : Result :=
  let line := v.toNat % 16384
  let hit := (find (s.slice slice).regions line).isSome
  let s := if hit then s.drainRegion slice line else s
  .next (s.modSlice slice fun x => { x with disBusy := false, disMiss := !hit })

/-- The regions of a task that is Done (R230). -/
def State.endRegions (s : State) (task : Word) : State :=
  s.slices.foldl (fun s e =>
    (s.slice e.1).regions.foldl (fun s r => if r.2.owntask = task then s.drainRegion e.1 r.1 else s) s) s

/-! ### REDF (R204) -/

/-- The contributions of one lane. -/
def redfLane (f : RedfFmt) (cx : RdCx) (o : RegForm) (l : Nat) : List (Nat × Nat × Word) :=
  let e := cx.srcB l o.b .i32
  let widen (F : FloatFmt) (j : Nat) (x : Nat) : Nat × Nat × Word :=
    (l, e + j, BitVec.ofNat 32 (FloatFmt.convert Machine.fp32 .rne false false (F.value (elemOf 16 j x))).1)
  match f with
  | .f32 => [(l, e, BitVec.ofNat 32 (cx.srcA l o.a .f32))]
  | .f16 => let x := cx.srcA l o.a .f16; [widen Machine.fp16 0 x, widen Machine.fp16 1 x]
  | .bf16 => let x := cx.srcA l o.a .bf16; [widen Machine.bf16 0 x, widen Machine.bf16 1 x]

def redfKind : RedfFmt → Kind
  | .f32 => .f32 | .f16 => .f16 | .bf16 => .bf16

def execRedf (f : RedfFmt) (o : RegForm) (s : State) : Result :=
  runInstr (.redf f o) o.g none o.perm { a := some (o.a, redfKind f), b := some (o.b, .i32) } noDyn (fun x s =>
    if x.act = 0 then { s := s, adv := 0 }
    else
      let hd := x.cx.rA o.ai.toNat
      let es := ((lanesOf x.act).map fun l => redfLane f x.cx o l).flatten
      { s := s.sendReq (accD hd).hcore
          { src := s.source, core := s.cur.who.core, op := .contribute hd none false false es }
        adv := x.act }) s

/-! ### MZERO (R226) -/

/-- The status of MZERO for descriptor a, an EXP and a warp. -/
def Slice.armStatus (x : Slice) (a : AccD) (exp : Nat) (src : Source) : Nat :=
  let overlap := x.regions.filter fun e => decide (e.1 < a.line + a.lines) && decide (a.line < e.1 + e.2.lines)
  if 16384 < a.line + a.lines then 1
  else if overlap.any fun e => e.2.holder ≠ some src then 2
  else if 65535 < exp then 3
  else if 64 ≤ x.regions.length - overlap.length then 4
  else 0

/-- The next value of the key counter, which skips 0. -/
def nextKey (h at_ : Nat) (ctr : BitVec 16) : BitVec 16 :=
  if Config.keySeed h at_ + ctr + 1 = 0 then ctr + 2 else ctr + 1

/-- Arm the region of descriptor a in slice h. -/
def State.arm (s : State) (h : Nat) (a : AccD) (exp : Nat) (task : Word) : BitVec 16 × State :=
  let overlap := (s.slice h).regions.filter fun e => decide (e.1 < a.line + a.lines) && decide (a.line < e.1 + e.2.lines)
  let s := overlap.foldl (fun s e => s.disarm h e.1) s
  let ctr := nextKey h s.bornAt (s.slice h).keyCtr
  let key := Config.keySeed h s.bornAt + ctr
  let r : Region :=
    { lines := a.lines, key := key, fixed := a.fixed, q := a.q, rows := a.rows, cols := a.cols, exp := exp, rel := 0,
      holder := none, ovf := false, nvf := false, owntask := task, elems := [], waiting := [], poison := [], time := 0 }
  (key, s.modSlice h fun x => { x with regions := ins x.regions a.line r, keyCtr := ctr })

/-- The descriptor that MZERO writes. -/
def mzeroDesc (d : Desc128) (n : Nat) (v : Bool) (key : BitVec 16) : Desc128 :=
  let keep : Desc128 := d &&& 0x0000FF80FFFFFFFFFFFFFFFFBFFFFFFF
  keep ||| (key.setWidth 128 <<< (112 : Nat)) ||| (BitVec.ofNat 128 n <<< (96 : Nat)) |||
    (if v then 1#128 <<< (30 : Nat) else 0)

def execMzero (o : WForm NoMod) (s : State) : Result :=
  runInstr (.mzero o) o.g o.lit o.perm { a := some (o.a, .i32) } noDyn (fun x s =>
    if x.act = 0 then { s := s, adv := 0 }
    else
      let n := s.cur.who.core
      let i := o.d.toNat
      let d := x.cx.rA i
      let a := accD d
      let exp := x.cx.srcA (lowLane x.act) o.a .i32
      let st := (s.slice n).armStatus a exp s.source
      let (key, s) := if st = 0 then s.arm n a exp (if inSl s then 0 else s.warp.task) else (BitVec.ofNat 16 st, s)
      Done.returns { s := s.modWarp fun w => w.wA x.cx.front i (mzeroDesc d n (st = 0) key), adv := x.act }) s

/-! ### MACQ, MREL, MREL.FIN (R227–R229) -/

def execMacq (o : RegForm) (s : State) : Result :=
  runInstr (.macq o) o.g none o.perm {} noDyn (fun x s =>
    if x.act = 0 then { s := s, adv := 0 }
    else
      let a := accD (x.cx.rA o.ai.toNat)
      let h := a.hcore
      match (s.slice h).matchShape a with
      | none => stopAll x (.trap ⟨0x13, 2⟩) s
      | some _ =>
        let q : MacqReq := { src := s.source, who := s.cur.who, front := s.cur.front, lanes := x.act, addr := s.cur.pc,
                             words := s.cur.words, len := s.cur.len, key := a.key, upTo := (s.slice h).sentNo }
        let s := s.modRegion h a.line fun r => { r with waiting := r.waiting ++ [q] }
        let s := s.modWarp fun w => w.setFront s.cur.front { w.front s.cur.front with hold := .macq h a.line }
        { s := s.tryGrant h a.line, adv := 0 }) s

/-- MREL and MREL.FIN: a release at device scope on its way to the slice (R305). -/
def relBody (fin : Bool) (o : RegForm) (x : Issue) (s : State) : Done :=
  if x.act = 0 then { s := s, adv := 0 }
  else
    let hd := x.cx.rA o.ai.toNat
    let exp := if fin then 0 else x.cx.srcA (lowLane x.act) o.a .i32
    let n := s.cur.who.core
    { s := s.sendReq (accD hd).hcore { src := s.source, core := n, op := .release hd exp fin (s.core n).ct }
      adv := x.act }

def execMrel (o : RegForm) (s : State) : Result :=
  runInstr (.mrel o) o.g none o.perm { a := some (o.a, .i32) } noDyn
    (released true .dev true (relBody false o)) s
def execMrelFin (o : RegForm) (s : State) : Result :=
  runInstr (.mrelFin o) o.g none o.perm {} noDyn
    (released true .dev true (relBody true o)) s

/-! ### Readers (R231, R241–R243, R411) -/

/-- The region a reader names, for its holder alone; the token fault in every active lane otherwise. -/
def State.heldRegion (s : State) (a : AccD) : Except Nat Region :=
  match (s.slice a.hcore).matchShape a with
  | none => .error 2
  | some r => if r.holder = some s.source then .ok r else .error 1

/-- What a lane of a reader receives: registers and flags, out of range, or poison. -/
inductive RegRead where | value (x : Nat) (fl : Flags) | range | poison
  deriving DecidableEq, Repr

/-- One lane of a reader. -/
def readerLane (d : BitVec 8) (n : Nat) (f : Nat → RegRead) (cx : RdCx) (l : Nat) (s : State) : Option Stop × State :=
  match f l with
  | .value v fl => (none, (s.modLane l fun y => y.wVs cx.front d.toNat n v).modWarp fun w => w.raise cx.front fl)
  | .range => (none, s.modLane l fun y => y.wVs cx.front d.toNat n 0)
  | .poison => (some (.trap ⟨0x14, 4⟩), s)

/-- A reader of n registers per lane: one record for all lanes out of range. -/
def readerBody (ai : BitVec 4) (d : BitVec 8) (n : Nat) (f : AccD → Region → Nat → RegRead) (x : Issue) (s : State) :
    Done :=
  if x.act = 0 then { s := s, adv := 0 }
  else
    let a := accD (x.cx.rA ai.toNat)
    match s.heldRegion a with
    | .error k => stopAll x (.trap ⟨0x13, k⟩) s
    | .ok r =>
      let out := (lanesOf x.act).filter fun l => f a r l = .range
      let s := match out with
        | l :: _ => s.accError a.hcore s.cur.who.core s.source 3 0 l
        | [] => s
      (laneLoop x (readerLane d n (f a r) x.cx) s).returns

/-- .raw in arrival-rounded mode is illegal; the descriptor gives the mode (R241). -/
def rawDyn (m : MreadMode) (ai : BitVec 4) : RdCx → State → List Nat := fun cx _ =>
  if m = .raw ∧ !(accD (cx.rA ai.toNat)).fixed then [8] else []

def execMread (m : MreadMode) (o : RegForm) (s : State) : Result :=
  runInstr (.mread m o) o.g none o.perm { b := if m = .st then none else some (o.b, .i32) } (rawDyn m o.ai) (fun x s =>
    readerBody o.ai o.d (if m = .raw then 4 else 1) (fun _ r l =>
      if m = .st then
        .value ((if r.ovf then 1 else 0) + (if r.nvf then 2 else 0) + (if r.fixed then 4 else 0)) 0
      else
        let e := x.cx.srcB l o.b .i32
        if r.size ≤ e then .range
        else if r.bad e then .poison
        else if m = .raw then .value (r.at_ e).toNat 0
        else .value (r.readF e).1 (r.readF e).2) x s) s

def mcvtFmt : McvtFmt → FloatFmt
  | .f16 => Machine.fp16 | .bf16 => Machine.bf16 | .e5m2 => Machine.e5m2 | .e4m3 => Machine.e4m3 | .e2m1 => Machine.e2m1

/-- MCVT (R242): 32 ÷ w consecutive elements. -/
def execMcvt (df : McvtFmt) (sat : Bool) (o : RegForm) (s : State) : Result :=
  let F := mcvtFmt df
  let n := 32 / F.width
  runInstr (.mcvt df sat o) o.g none o.perm { b := some (o.b, .i32) } noDyn (fun x s =>
    readerBody o.ai o.d 1 (fun _ r l =>
      let e := x.cx.srcB l o.b .i32
      if r.size < e + n then .range
      else if (List.range n).any fun j => r.bad (e + j) then .poison
      else
        let (v, fl) := mapElemsF F.width n fun j =>
          let (x, f1) := r.readF (e + j)
          let (y, f2) := F.convert .rne sat false (Machine.fp32.value x)
          (y, f1 ||| f2)
        .value v fl) x s) s

/-- maximum of R91 in FP32: NaN if either is NaN; +0 above −0. -/
def max32 (x y : Nat) : Nat := (fMinMax true Machine.fp32 ⟨.rne, false, false⟩ x y).1

def nan32 (x : Nat) : Bool := (Machine.fp32.value x).isNan

/-- The three results of a row (R91). -/
def rowStats (r : Region) (i : Nat) : Nat × Nat × Nat :=
  let es := (List.range r.cols).map fun j => r.at_ (i * r.cols + j)
  if r.fixed then
    let ns := es.map BitVec.toInt
    let top := ns.foldl max (-((2 ^ 127 : Nat) : Int))
    (fwRound top r.q, fwRound ns.sum r.q, fwRound ((ns.map fun n => n * n).sum) (2 * r.q))
  else
    es.foldl (fun (acc : Nat × Nat × Nat) e =>
      let x := e.toNat % 2 ^ 32
      (if nan32 acc.1 || nan32 x then 0x7FC00000 else max32 acc.1 x,
       (add32 (BitVec.ofNat 32 acc.2.1) (BitVec.ofNat 32 x)).toNat,
       (fElem .fma Machine.fp32 ⟨.rne, false, false⟩ .rne x x acc.2.2).1)) (0xFF800000, 0, 0)

def execRowstat (o : RegForm) (s : State) : Result :=
  runInstr (.rowstat o) o.g none o.perm { b := some (o.b, .i32) } noDyn (fun x s =>
    readerBody o.ai o.d 4 (fun _ r l =>
      let i := x.cx.srcB l o.b .i32
      if r.rows ≤ i then .range
      else if (List.range r.cols).any fun j => r.bad (i * r.cols + j) then .poison
      else
        let (mx, sm, sq) := rowStats r i
        .value (mx + sm * 2 ^ 32 + sq * 2 ^ 64 + ((if r.ovf then 1 else 0) + (if r.nvf then 2 else 0)) * 2 ^ 96) 0) x s) s

/-! ### MSPILL and MFILL (R244, R413) -/

/-- The image of a region: its lines in order, then the trailer. -/
def Region.image (r : Region) : List Byte :=
  ((List.range r.size).map fun e => toBytes (elemBytes r.fixed) (r.at_ e).toNat).flatten ++
    toBytes 16 ((if r.ovf then 1 else 0) + (if r.nvf then 2 else 0) + (if r.fixed then 4 else 0))

def spillSrcs (o : SpillForm) : SrcKinds := { a := some (o.a, .i64) }

/-- The spots of an image of n bytes, 16 bytes apart. -/
def State.imageSpots (s : State) (a : Ax) (acc : Acc) (va n : Nat) : Except Stop (List (Part × Spot)) × State :=
  resolve (fun s p => s.spotVa a acc false 16 p) ((List.range (n / 16)).map fun j => ⟨(va + 16 * j) % 2 ^ 64, 16 * j, 16⟩) s

/-- The plain address and size of the sector of each poisoned spot. -/
def State.poisonSpot (s : State) (a : Ax) : Spot → State
  | .mem x => { s with poison := markPoison s.poison (s.fwd x.pa / 32) }
  | .raw q => s.modCore a.n fun c => { c with stashPoison := markPoison c.stashPoison (q / 32) }
  | .entry soff r =>
    match (s.core a.n).window a.w.task soff with
    | some w => s.modCore a.n fun c =>
        { c with stashPoison := markPoison c.stashPoison (((c.run a.w.task).base + w.place r) / 32) }
    | none => s

/-- What the warp sent to the slice before is performed, up to an MLOOP of its own that still runs: the slice takes a spill
or a fill in order with the contributions that it has accepted (R205, R244). -/
def State.ownFirst (s : State) (h : Nat) (src : Source) : State :=
  let own := ((s.slice h).inq.filter fun q => q.src == src).takeWhile fun q => match q.op with | .mloop _ _ => false | _ => true
  own.foldl (fun s q => (s.modSlice h fun x => { x with inq := dropFirst q x.inq }).applyReq h q) s

/-- Alignment, address and token checks of the two, then the transfer. -/
def spillBody (fill : Bool) (o : SpillForm) (x : Issue) (s : State) : Done :=
  if x.act = 0 then { s := s, adv := 0 }
  else
    let va := x.cx.va o.a (moffVal o.off) (lowLane x.act)
    let a := accD (x.cx.rA o.ai.toNat)
    let ax := s.ax false
    if va % 128 ≠ 0 then stopAll x (.trap ⟨0x09, 7⟩) s
    else
      let s := s.ownFirst a.hcore s.source
      match s.heldRegion a with
      | .error k => stopAll x (.trap ⟨0x13, k⟩) s
      | .ok r =>
        let n := 128 * r.lines + 16
        match s.imageSpots ax (if fill then .read else .write) va n with
        | (.error e, s) => stopAll x e s
        | (.ok ps, s) =>
          if fill then
            let (bs, s) := s.readSpots ax ps
            let k := elemBytes r.fixed
            let trail := ofBytes (bs.drop (128 * r.lines))
            let elems := (List.range r.size).foldl (fun t e =>
              put 0 t e (BitVec.ofNat 128 (ofBytes ((bs.drop (k * e)).take k)))) []
            { s := s.modRegion a.hcore a.line fun r =>
                { r with elems := elems, ovf := decide (trail % 2 = 1), nvf := decide (trail / 2 % 2 = 1), poison := [] }
              adv := x.act }
          else
            let s := s.writeSpots ax r.image ps
            let bad := ps.filter fun e => r.poison.contains (e.1.at_ / 32) && decide (e.1.at_ < 128 * r.lines)
            { s := bad.foldl (fun s e => s.poisonSpot ax e.2) s, adv := x.act }

def execMspill (o : SpillForm) (s : State) : Result :=
  runInstr (.mspill o) o.g none .none (spillSrcs o) noDyn (spillBody false o) s
def execMfill (o : SpillForm) (s : State) : Result :=
  runInstr (.mfill o) o.g none .none (spillSrcs o) noDyn (spillBody true o) s

end Sys2Proof.Machine
end

