-- ==== Sys2Proof/Machine/Engines.lean ====
section
/-! DEFINITION. The engines: MLOOP, COPY, MCAST, their runs, and REDQ (R86, R90, R224, R233–R240, R245–R248, R304, R337–R339,
R370, R404, R408). -/

namespace Sys2Proof.Machine

/-! ### Runs -/

def Core.modRun (c : Core) (tag : Nat) (f : Run → Run) : Core :=
  { c with runs := match find c.runs tag with | some r => ins c.runs tag (f r) | none => c.runs }

def State.modRun (s : State) (n tag : Nat) (f : Run → Run) : State := s.modCore n fun c => c.modRun tag f

def Run.isMloop (r : Run) : Bool := match r.kind with | .mloop _ => true | _ => false

/-- The warp a run belongs to, as an access sees it: its groups as they were at issue once it has left (R370). -/
def State.runWarp (s : State) (n : Nat) (r : Run) : Warp :=
  let w := s.warpOf ⟨n, .slot r.slot⟩
  if w.task = r.task ∧ w.wid = r.wid then w else { Warp.empty with task := r.task, wid := r.wid, grp := r.grp }

/-- The access context of a run (R246, R304). -/
def State.runAx (s : State) (n : Nat) (r : Run) : Ax :=
  { x := { core := n, ptroot := r.ptroot, asid := r.asid, user := r.user }, w := s.runWarp n r, acq := false }

/-- An action of a run of task on core n: of the task's windows it meets those alone that were mapped at its issue
(R370). -/
def State.underWins (s : State) (n : Nat) (task : Word) (wins : List Nat) (f : State → α × State) : α × State :=
  let hidden (x : Window) : Bool := x.task == task && !wins.contains x.soff
  let later := (s.core n).windows.filter hidden
  let (x, s) := f (s.modCore n fun c => { c with windows := c.windows.filter fun w => !hidden w })
  (x, s.modCore n fun c => { c with windows := c.windows ++ later })

def Run.source (r : Run) : Source := { task := r.task, wid := r.wid, core := none }

/-- The place that an MLOOP holds among its warp's requests is taken by q, or given up (R205, R238). -/
def State.fillPlace (s : State) (h : Nat) (r : Run) (tag : Nat) (q : Option SliceOp) : State :=
  let mine (x : SliceReq) : Bool := x.src == r.source && x.op.isMloop tag
  let s := s.modSlice h fun x =>
    { x with inq := x.inq.filterMap fun y => if mine y then q.map fun op => { y with op := op } else some y }
  s.kick h

/-- The bus that an MCAST uses, by quadrant, direction and row or column (R337). -/
def busKey (o : McastForm) : Nat :=
  o.quad.toNat * 8 + (if o.col then 4 else 0) + (busMasks o.col).findIdx fun m => m = o.cmask

/-- A bus MCAST leaves its bus; the next one begins (R338). -/
def State.leaveBus (s : State) (n tag : Nat) (r : Run) : State :=
  match r.kind with
  | .mcast o =>
    if o.bus then
      let k := busKey o
      let s : State := { s with buses := upd [] s.buses k fun q => q.filter fun e => e ≠ (n, tag) }
      match look [] s.buses k with
      | (m, t) :: _ => s.push (.engineBytesDelivered m t)
      | [] => s
    else s
  | _ => s

/-- The MLOOP that its quarter had waiting longest may begin (R321, R391). -/
def State.freeQuarter (s : State) (n : Nat) (r : Run) : State :=
  let mine := (s.core n).runs.filter fun e => e.2.isMloop && e.2.quarter == r.quarter
  match mine.find? fun e => mine.all fun f => decide (e.2.seq ≤ f.2.seq) with
  | some (t, _) => s.push (.mloopStepEnd n t)
  | none => s

/-- A write of %waymask that waits is tried again (R63). -/
def State.kickWays (s : State) : State :=
  s.cores.foldl (fun s e => if e.2.wayPend.isSome then s.push (.waymaskTakeEffect e.1) else s) s

/-- A run ends: its tag completes (R222). -/
def State.endRun (s : State) (n tag : Nat) (r : Run) : State :=
  let s := ((s.tagDone n tag).leaveBus n tag r).kickWays
  if r.isMloop then s.freeQuarter n r else s

/-- A run is abandoned (R404). -/
def State.abandon (s : State) (n tag : Nat) (va : DWord) : State :=
  match find (s.core n).runs tag with
  | none => s
  | some r =>
    let s := if r.isMloop then s.fillPlace (accD r.ai).hcore r tag none else s
    let s := s.recordErr n
      { cause := 0x26, sub := tag, sev := .contained, unit := if r.isMloop then 1 else 2, lane := 0, wid := r.wid,
        task := r.task, addr := va }
    s.endRun n tag r

/-- What stops a run: a translation fault goes to the fault queue, or abandons it when the queue is off (R399, R404);
data it may not have abandons it (R419). Where no route is open it waits (R430). -/
def State.stopRun (s : State) (n tag : Nat) (va : DWord) (e : Stop) : State :=
  match find (s.core n).runs tag with
  | none => s
  | some r =>
    match e with
    | .trap _ => s.abandon n tag va
    | .held => s
    | .fault acc x va =>
      if (s.core n).fqen then
        let before := (s.core n).fqCount
        let s := s.modRun n tag fun r => { r with held := true }
        let (_, s) := s.enterFault n
          { who := .run tag r.task r.wid, sub := x.sub, kinds := acc.kindBit, va := va, asid := r.asid, words := 0,
            tops := (0, 0, 0) }
        s.fqFlush n before
      else s.abandon n tag va

/-- What stops a run, with the address at which it met it (R404). -/
abbrev RunStop := Stop × DWord

/-- The address of the first part that stops. -/
def stopsAt (f : State → Part → Except Stop Spot × State) : List Part → State → Nat
  | [], _ => 0
  | p :: ps, s => match f s p with
    | (.error _, _) => p.addr
    | (.ok _, s) => stopsAt f ps s

/-- The COPY of receiver x is at offset q of its bytes. -/
def Run.reached (r : Run) (x q : Nat) : Run :=
  let next := r.next.set x q
  match r.kind with
  | .mcast o => { r with
      next := next, started := true
      prog := (((List.range 16).filter fun y => o.cmask.getLsbD y).map fun y => next.getD y 0).foldl min r.c.toNat }
  | .mloop _ | .copy _ => { r with next := next }

/-- The COPY that a resumed MCAST makes on core m for receiver x is abandoned there (R393, R404). -/
def State.abandonPart (s : State) (n tag x m : Nat) (va : DWord) : State :=
  match find (s.core n).runs tag with
  | none => s
  | some r =>
    let s := s.recordErr m
      { cause := 0x26, sub := tag, sev := .contained, unit := 2, lane := 0, wid := r.wid, task := r.task, addr := va }
    (s.modRun n tag fun r => { r.reached x r.c.toNat with
      heldAt := r.heldAt.filter fun y => y ≠ x, dues := del r.dues x }).push (.engineBytesDelivered n tag)

/-- What stops that COPY: the fault queue and the error registers are those of its own core. -/
def State.stopPart (s : State) (n tag x m : Nat) (va : DWord) (e : Stop) : State :=
  match find (s.core n).runs tag with
  | none => s
  | some r =>
    match e with
    | .trap _ => s.abandonPart n tag x m va
    | .held => s
    | .fault acc f va =>
      if (s.core m).fqen then
        let before := (s.core m).fqCount
        let s := s.modRun n tag fun r => { r with heldAt := x :: r.heldAt }
        let (_, s) := s.enterFault m
          { who := .part n tag x r.task r.wid, sub := f.sub, kinds := acc.kindBit, va := va, asid := r.asid, words := 0,
            tops := (0, 0, 0) }
        (s.fqFlush m before).push (.engineBytesDelivered n tag)
      else s.abandonPart n tag x m va

/-! ### Issue (R224) -/

/-- The instruction would start, and another warp holds its tag or its quarter is full: the front does not issue it
(R224, R321). -/
def State.notNow (s : State) (i : Instr) (g : Guard) (tag : Nat) (mloop : Bool) : Bool :=
  let cx := s.rdCx 0 .none
  let c := s.core s.cur.who.core
  let mine := s.warp.town.getLsbD tag
  let full := mloop && match s.cur.who.ctx with
    | .slot k => decide (5 ≤ (c.runs.filter fun e => e.2.isMloop && e.2.quarter == k / 64 % 4).length)
    | .sl => false
  (illegalSub { v := cx.w.vAlloc, s := cx.w.sAlloc, sl := inSl s } i).isNone && cx.active g s.cur.cluster != 0 &&
    !mine && (c.tagUsed.getLsbD tag || full)

/-- An engine instruction that its front holds (R224, R321). -/
def State.engineHeld (s : State) : Instr → Bool
  | .mloop o => s.notNow (.mloop o) o.g o.tag.toNat true
  | .copy o => s.notNow (.copy o) o.g o.tag.toNat false
  | .mcast o => s.notNow (.mcast o) o.g o.tag.toNat false
  | _ => false

/-- An engine instruction: not issued while its tag or quarter is taken, the tag-in-use trap on a tag of the warp's
own, else once for the cluster (R224, R375, R384). -/
def engineInstr (i : Instr) (g : Guard) (tag : Nat) (kinds : SrcKinds) (dyn : RdCx → State → List Nat)
    (body : Issue → State → Option Stop × State) (s : State) : Result :=
  if s.engineHeld i then .next { s with draw := s.draw + 1 }
  else
    runInstr i g none .none kinds dyn
      (onceAct fun x s => if s.warp.town.getLsbD tag then (some (.trap ⟨0x07, tag⟩), s) else body x s) s

/-- The run that an instruction starts: what every engine reads at issue. -/
def State.newRun (s : State) (kind : RunKind) (a b c : Nat) : Run :=
  let n := s.cur.who.core
  let core := s.core n
  let w := s.warp
  let slot := match s.cur.who.ctx with | .slot k => k | .sl => 0
  { kind := kind, slot := slot, task := w.task, wid := w.wid, asid := w.asid, ptroot := w.ptroot,
    user := s.cur.front == .user, addr := s.cur.pc ++ 0#1, words := s.cur.words, a := BitVec.ofNat 64 a,
    b := BitVec.ofNat 64 b, c := BitVec.ofNat 64 c, ti := 0, ti1 := 0, ai := 0, bar := none,
    wins := (core.windows.filter fun x => x.task == w.task).map (·.soff), frag := [], snap := none, ents := [],
    prog := 0, next := [], recv := [], drop := false, acc := [], bad := false, quarter := slot / 64 % 4, base := (core.run w.task).base, started := false, rv := false, seq := s.draw, held := false,
    owed := 0, old := [], grp := w.grp, ahead := [] }

/-- The warp takes the tag, and the run begins. -/
def State.startRun (s : State) (tag : Nat) (r : Run) : State :=
  let n := s.cur.who.core
  let s := s.modCore n fun c =>
    { c with tagUsed := c.tagUsed ||| bitOf tag, tagbits := c.tagbits &&& ~~~bitOf tag, runs := ins c.runs tag r }
  (s.modWarp fun w => { w with town := w.town ||| bitOf tag }).push (r.goOn n tag)

/-! ### MLOOP (R86, R233–R240) -/

def mloopFmtA (t : Fin 9) : Option FloatFmt :=
  match t.val with
  | 0 | 1 => some e4m3 | 2 | 3 => some e5m2 | 4 => some fp16 | 5 => some bf16 | 8 => some e2m1 | _ => none
def mloopFmtB (t : Fin 9) : Option FloatFmt :=
  match t.val with
  | 0 | 2 => some e4m3 | 1 | 3 => some e5m2 | 4 => some fp16 | 5 => some bf16 | 8 => some e2m1 | _ => none

def intVal (i : Int) : FVal := .fin (decide (i < 0)) i.natAbs 0

/-- A pattern of A or of B as a number. -/
def mloopA (t : Fin 9) (x : Nat) : FVal :=
  match mloopFmtA t with
  | some F => F.value x
  | none => if t.val = 6 then intVal (sextI 8 x) else intVal (x % 256 : Nat)
def mloopB (t : Fin 9) (x : Nat) : FVal :=
  match mloopFmtB t with
  | some F => F.value x
  | none => intVal (sextI 8 x)

/-- An element under its block's scale; none is the NaN scale (R78). -/
def scaled (e : Option Int) (x : FVal) : FVal :=
  match e, x with
  | none, _ => .nan false
  | some k, .fin n m q => .fin n m (q + k)
  | _, x => x

/-- The exact sum of the products of a row of A and a column of B, rounded to FP32 (R86). -/
def dot32 (xs ys : List FVal) : Word :=
  let t := match List.zipWith (fun x y => (mulExact x y).v) xs ys with
    | [] => FVal.fin false 0 0
    | p :: ps => ps.foldl (fun t p => (addExact .rne t p).v) p
  BitVec.ofNat 32 (FloatFmt.convert fp32 .rne false false t).1

/-- The words of register r of the fragments, lane by lane: those at issue, or those that stand now, for each register
freely where they differ (R235, R239). -/
def State.fragReg (s : State) (n : Nat) (r : Run) (base i : Nat) : List Word :=
  let old := r.frag.getD i (List.replicate 32 0)
  let w := s.warpOf ⟨n, .slot r.slot⟩
  let now := (List.range 32).map fun l => (look zeroV (w.lane l).v (base + i)).read s.draw (820000 + 32 * i + l)
  if w.task = r.task ∧ w.wid = r.wid ∧ (r.frag = [] ∨ Config.choice s.draw (830000 + i) % 2 = 1) then now else old

/-- Row i of A in a step (R235): the registers from `off` above ABASE. -/
def mloopRow (o : MloopForm) (regs : Nat → List Word) (i : Nat) : List FVal :=
  let w := mloopWidth o.typ
  let e := 32 / w
  (List.range (mloopK o.typ)).map fun m =>
    mloopA o.typ (elemOf w (m % e) ((regs (8 * (i / 32) + m / e)).getD (i % 32) 0).toNat)

/-- The scale of block b of row i of A (R236). -/
def mloopScaleA (o : MloopForm) (regs : Nat → List Word) (i b : Nat) : Option Int :=
  let c := i / 32 * (mloopK o.typ / 32) + b
  importScale false (elemOf 16 (c % 2) ((regs (mloopG o.shape + c / 2)).getD (i % 32) 0).toNat)

/-- Parts of at most 16 bytes, none across a granule. -/
def granules : Nat → Nat → Nat → Nat → List Part
  | 0, _, _, _ => []
  | _, _, _, 0 => []
  | fuel + 1, a, o, n =>
    let k := min n (16 - a % 16)
    ⟨a, o, k⟩ :: granules fuel (a + k) (o + k) (n - k)

def granulesOf (a n : Nat) : List Part := granules (n / 16 + 2) a 0 n

/-- One granule of stash that a step reads: as at issue or as it stands, freely where they differ (R239). -/
def State.stepGranule (s : State) (a : Ax) (r : Run) (p : Part) (q : Spot) : List Byte × State :=
  let (now, s) := s.readSpot a p.n q
  let c := s.core a.n
  let at_ : Option Nat := match q with
    | .raw x => some x
    | .entry soff k =>
      if r.ents.contains (soff, k / 128) then
        (c.window a.w.task soff).map fun x => (c.run a.w.task).base + x.place k
      else none
    | .mem _ => none
  match at_, r.snap with
  | none, _ | _, none => (now, s)
  | some x, some t =>
    let was := getBytes t x p.n
    (if was ≠ now ∧ Config.choice s.draw (840000 + p.addr / 16) % 2 = 1 then was else now, s)

/-- The address that a stash offset of a task stands for, or the offset where it lies in no window. -/
def State.offVa (s : State) (a : Ax) (o : Nat) : DWord :=
  match (s.core a.n).windows.find? fun x => x.task == a.w.task && x.hasOff o with
  | some w => BitVec.ofNat 64 (w.wva + (o - w.soff))
  | none => BitVec.ofNat 64 o

/-- n stash bytes from offset o for a step. Stash that the task no longer has holds free bytes. -/
def State.stepBytes (s : State) (a : Ax) (r : Run) (o n : Nat) : Except RunStop (List Byte) × State :=
  if ((s.core a.n).run a.w.task).size < o + n then
    (.ok ((List.range n).map fun i => BitVec.ofNat 8 (Config.choice s.draw (850000 + o + i))), s)
  else
    match resolve (fun s p => s.spotOff a .read p) (granulesOf o n) s with
    | (.error e, t) => (.error (e, s.offVa a (stopsAt (fun s p => s.spotOff a .read p) (granulesOf o n) s)), t)
    | (.ok ps, s) =>
      let (bs, s) := ps.foldl (fun (acc : List Byte × State) e =>
        let (b, s) := acc.2.stepGranule a r e.1 e.2
        (acc.1 ++ b, s)) ([], s)
      (.ok bs, s)

/-- Elements of w bits packed into bytes. -/
def unpackElems (w n : Nat) (bs : List Byte) : List Nat :=
  let x := ofBytes bs
  (List.range n).map fun j => elemOf w j x

/-- Lines of a tile, rows for TR = 0 and columns for TR = 1, from line `from_`: `cnt` lines of `len` elements. -/
def State.tileLines (s : State) (a : Ax) (r : Run) (t : TileD) (off len from_ : Nat) :
    Nat → Except RunStop (List (List Nat)) × State
  | 0 => (.ok [], s)
  | k + 1 =>
    match s.tileLines a r t off len from_ k with
    | (.error e, s) => (.error e, s)
    | (.ok xs, s) =>
      match s.stepBytes a r (off + 16 * t.pitch * (from_ + k)) ((len * t.width + 7) / 8) with
      | (.error e, s) => (.error e, s)
      | (.ok bs, s) => (.ok (xs ++ [unpackElems t.width len bs]), s)

/-- Rows from_ to from_ + rows − 1 of a tile at a byte offset: `cols` elements each, by column (R55). -/
def State.tileCols (s : State) (a : Ax) (r : Run) (t : TileD) (off from_ rows cols : Nat) :
    Except RunStop (Nat → List Nat) × State :=
  if t.tr then
    match s.tileLines a r t off (from_ + rows) 0 cols with
    | (.error e, s) => (.error e, s)
    | (.ok xs, s) => (.ok fun j => (xs.getD j []).drop from_, s)
  else
    match s.tileLines a r t off cols from_ rows with
    | (.error e, s) => (.error e, s)
    | (.ok xs, s) => (.ok fun j => xs.map fun x => x.getD j 0, s)

/-- What a step takes for B: its columns, and whether they are poisoned; none while a bus buffer has too little. -/
structure StepB where
  cols : List (List Nat)
  bad : Bool
  deriving DecidableEq, Repr

/-- One past the last stash byte of rows × cols elements of a tile at a byte offset. -/
def TileD.endAt (t : TileD) (off rows cols : Nat) : Nat :=
  if t.tr then off + 16 * t.pitch * (cols - 1) + (rows * t.width + 7) / 8
  else off + 16 * t.pitch * (rows - 1) + (cols * t.width + 7) / 8

/-- One past the last byte of the core's stash that the operands of an MLOOP hold; 0 where none is in the stash (R63). -/
def Run.stashEnd (r : Run) (o : MloopForm) : Nat :=
  let t := tileD r.ti
  let k := mloopK o.typ
  let m := mloopN o.shape
  let steps := o.km1.toNat + 1
  max (if t.src = 0 then r.base + t.endAt (t.off + (steps - 1) * (r.b.toNat % 2 ^ 32)) k m else 0)
    (if o.bsc then r.base + (tileD r.ti1).endAt (tileD r.ti1).off (steps * (k / 32)) m else 0)

/-- B of a step from the front of a bus buffer (R248). -/
def State.busB (s : State) (n : Nat) (col : Bool) (w k m : Nat) : Option StepB × State :=
  let c := s.core n
  let buf := if col then c.colBus else c.rowBus
  let len := k * m * w / 8
  if buf.length < len then (none, s)
  else
    let bs := buf.take len
    let xs := unpackElems w (k * m) (bs.map (·.1))
    let s := s.modCore n fun c =>
      if col then { c with colBus := c.colBus.drop len } else { c with rowBus := c.rowBus.drop len }
    (some { cols := (List.range m).map fun j => (List.range k).map fun i => xs.getD (i * m + j) 0
            bad := bs.any (·.2) }, s)

/-- The buses that may go on when core n has taken bytes from a buffer. -/
def State.kickBuses (s : State) (n : Nat) : State :=
  s.buses.foldl (fun s e =>
    match e.2 with
    | (m, t) :: _ => if e.1 / 8 = n / 16 then s.push (.engineBytesDelivered m t) else s
    | [] => s) s

/-- B of step r.prog, and its scales by column, with what stops the step. -/
def State.stepB (s : State) (n : Nat) (r : Run) (o : MloopForm) : Except RunStop (Option (StepB × List (List Nat))) × State :=
  let t := tileD r.ti
  let a := s.runAx n r
  let k := mloopK o.typ
  let m := mloopN o.shape
  let kb := k / 32
  let scales (s : State) : Except RunStop (Nat → List Nat) × State :=
    if o.bsc then
      let t1 := tileD r.ti1
      s.tileCols a r t1 t1.off (r.prog * kb) kb m
    else (.ok fun _ => [], s)
  match scales s with
  | (.error e, s) => (.error e, s)
  | (.ok sc, s) =>
    let sc := (List.range m).map sc
    if t.src ≠ 0 then
      match s.busB n (t.src = 2) t.width k m with
      | (none, s) => (.ok none, s)
      | (some b, s) => (.ok (some (b, sc)), s.kickBuses n)
    else
      match s.tileCols a r t (t.off + r.prog * (r.b.toNat % 2 ^ 32)) 0 k m with
      | (.error e, s) => (.error e, s)
      | (.ok b, s) => (.ok (some ({ cols := (List.range m).map b, bad := false }, sc)), s)

/-- The run values after a step (R86). -/
def State.stepAcc (s : State) (n : Nat) (r : Run) (o : MloopForm) (b : StepB) (sc : List (List Nat)) : List Word :=
  let regs (i : Nat) : List Word := s.fragReg n r o.abase.toNat (r.prog * o.astep.toNat + i)
  let m := mloopN o.shape
  let put (E : Nat → Option Int) (xs : List FVal) : List FVal :=
    if o.bsc then xs.zipIdx.map fun e => scaled (E (e.2 / 32)) e.1 else xs
  let cols := b.cols.zipIdx.map fun e =>
    put (fun k => importScale false ((sc.getD e.2 []).getD k 0)) (e.1.map (mloopB o.typ))
  let rows := (List.range (mloopM o.shape)).map fun i => put (mloopScaleA o regs i) (mloopRow o regs i)
  (rows.zipIdx.map fun e => cols.zipIdx.map fun f => add32 (r.acc.getD (e.2 * m + f.2) 0) (dot32 e.1 f.1)).flatten

/-- The contributions of a finished MLOOP in row-major order; a target outside the shape has no element (R238). -/
def mloopElems (r : Run) (o : MloopForm) : List (Nat × Nat × Word) :=
  let a := accD r.ai
  let row0 := r.a.toNat % 65536
  let col0 := r.a.toNat / 65536 % 65536
  let m := mloopN o.shape
  (List.range (mloopM o.shape * m)).map fun e =>
    let i := row0 + e / m
    let j := col0 + e % m
    (0, if i < a.rows ∧ j < a.cols then i * a.cols + j else 2 ^ 40, r.acc.getD e 0)

/-- A step of an MLOOP; after the last, its contributions or poison marks go to the slice (R408). Its quarter runs one
MLOOP at a time (R391). -/
def State.mloopStep (s : State) (n tag : Nat) (r : Run) (o : MloopForm) : State :=
  let busy := (s.core n).runs.any fun e => e.2.isMloop && e.1 != tag && e.2.quarter == r.quarter &&
    (e.2.started || decide (e.2.seq < r.seq))
  if r.held || (busy && !r.started) then s
  else
    let next (s : State) (acc : List Word) (bad : Bool) : State :=
      let r : Run := { r with started := true, rv := true, prog := r.prog + 1, acc := acc, bad := r.bad || bad }
      let s := s.modRun n tag fun _ => r
      if r.prog ≤ o.km1.toNat then s.push (.mloopStepEnd n tag)
      else s.fillPlace (accD r.ai).hcore r tag (some (.contribute r.ai (some tag) false r.bad (mloopElems r o)))
    match s.underWins n r.task r.wins fun s => s.stepB n r o with
    | (.ok none, s) => s.modRun n tag fun r => { r with started := true, rv := true }
    | (.ok (some (b, sc)), s) => next s (s.stepAcc n r o b sc) b.bad
    | (.error (.trap ⟨0x14, k⟩, va), s) => if k ≤ 5 then next s r.acc true else s.abandon n tag va
    | (.error (e, va), s) => (s.modRun n tag fun r => { r with started := true, rv := true }).stopRun n tag va e

def execMloopStepEnd (core tag : Nat) (s : State) : Result :=
  match find (s.core core).runs tag with
  | some r =>
    match r.kind with
    | .mloop o =>
      if r.prog ≤ o.km1.toNat then
        let s := s.mloopStep core tag r o
        .next { s with draw := s.draw + 1 }
      else .next s
    | _ => .next s
  | none => .next s

/-- The slice still has contributions of an MLOOP to take, or will have. -/
def Slice.awaits (x : Slice) (r : Run) (tag : Nat) : Bool :=
  x.inq.any fun q => q.src == r.source && match q.op with
    | .contribute _ (some t) _ _ _ => t == tag
    | .mloop t _ => t == tag
    | _ => false

/-- Every step has read its operands and the slice has accepted every contribution, or poison mark: the tag completes
(R239, R408). -/
def execMloopComplete (core tag : Nat) (s : State) : Result :=
  match find (s.core core).runs tag with
  | some r =>
    match r.kind with
    | .mloop o =>
      .next (if o.km1.toNat < r.prog ∧ !(s.slice (accD r.ai).hcore).awaits r tag then s.endRun core tag r else s)
    | _ => .next s
  | none => .next s

/-- The reason of R374 for which a tile does not serve B (R56, R237): for the last step as well. -/
def mloopTileBad (t : TileD) (z w k m steps binc : Nat) : Option Nat :=
  match t.bad z with
  | some r => some r
  | none =>
    if t.width ≠ w ∨ t.rows < k ∨ t.cols < m then some 5
    else if t.src ≠ 0 then none
    else { t with off := t.off + (steps - 1) * binc }.bad z

/-- The same for the scale tile of a block-scaled MLOOP (R236). -/
def mloopScaleBad (t : TileD) (z rows m : Nat) : Option Nat :=
  match t.bad z with
  | some r => some r
  | none => if t.width ≠ 16 ∨ t.rows < rows ∨ t.cols < m ∨ t.src ≠ 0 then some 5 else none

def uniformLane (cx : RdCx) (s : State) (c : Src) (k : Kind) : Nat := cx.srcB (lowLane s.cur.cluster) c k

/-- BINC is a multiple of 16 (R240). -/
def bincDyn (o : MloopForm) : RdCx → State → List Nat := fun cx s =>
  if uniformLane cx s o.b .i32 % 16 ≠ 0 then [8] else []

def mloopBody (o : MloopForm) (x : Issue) (s : State) : Option Stop × State :=
  let n := s.cur.who.core
  let l := lowLane x.act
  let z := ((s.core n).run s.warp.task).size
  let ti := x.cx.rT o.ti.toNat
  let ti1 := if o.bsc then x.cx.rT (o.ti.toNat + 1) else 0
  let steps := o.km1.toNat + 1
  let binc := x.cx.srcB l o.b .i32
  let k := mloopK o.typ
  let m := mloopN o.shape
  match mloopTileBad (tileD ti) z (mloopWidth o.typ) k m steps binc with
  | some r => (some (.trap ⟨0x08, r * 16 + o.ti.toNat⟩), s)
  | none =>
    match (if o.bsc then mloopScaleBad (tileD ti1) z (steps * (k / 32)) m else none) with
    | some r => (some (.trap ⟨0x08, r * 16 + o.ti.toNat + 1⟩), s)
    | none =>
      let top := o.km1.toNat * o.astep.toNat + mloopG o.shape + mloopSR o
      let c := s.core n
      let sr := c.run s.warp.task
      let r := s.newRun (.mloop o) (x.cx.srcA l o.a .i32) binc 0
      let r : Run := { r with
        ti := ti, ti1 := ti1, ai := x.cx.rA o.ai.toNat, acc := List.replicate (mloopM o.shape * m) 0
        frag := (List.range top).map fun i => (List.range 32).map fun j => x.cx.rV 4 j j (o.abase.toNat + i)
        snap := some (c.stash.filter fun e => decide (sr.base ≤ e.1) && decide (e.1 < sr.base + sr.size))
        ents := ((c.windows.filter fun w => w.task == s.warp.task).map fun w => w.entries.map fun e => (w.soff, e.1)).flatten }
      let s := s.startRun o.tag.toNat r
      (none, s.modSlice (accD r.ai).hcore fun q => q.take { src := r.source, core := n, op := .mloop o.tag.toNat r.ai })

def execMloop (o : MloopForm) (s : State) : Result :=
  engineInstr (.mloop o) o.g o.tag.toNat { a := some (o.a, .i32), b := some (o.b, .i32) } (bincDyn o) (mloopBody o) s

/-! ### Bytes moved by COPY and MCAST -/

/-- What a run read: bytes, and whether they are poisoned and how (R408). -/
structure Got where
  bs : List Byte
  bad : Option Nat
  deriving DecidableEq, Repr

/-- A part of the source, of at most 16 bytes in one granule; poison gives bytes that no one sees. -/
def State.runRead (s : State) (a : Ax) (va n : Nat) : Except RunStop Got × State :=
  let at_ : DWord := BitVec.ofNat 64 va
  match s.load a false va n with
  | (.ok bs, s) => (.ok ⟨bs, none⟩, s)
  | (.error (.trap ⟨0x14, k⟩), s) =>
    if k ≤ 5 then (.ok ⟨List.replicate n 0, some k⟩, s) else (.error (.trap ⟨0x14, k⟩, at_), s)
  | (.error e, s) => (.error (e, at_), s)

/-- A whole entry of a window, written without a fill; it keeps the line that its first access translated (R191). -/
def State.storeEntry (s : State) (n : Nat) (w : Window) (k line lcl : Nat) (bs : List Byte) : State :=
  s.modCore n fun c =>
    let c := c.modWindow w.task w.soff fun x =>
      { x with entries := match find x.entries k with
        | some _ => x.entries
        | none => ins x.entries k { line := line, dirty := [], cwts := 0, crts := c.ct, lcl := lcl, full := [] } }
    match c.window w.task w.soff with
    | some x => (List.range 8).foldl (fun c g => c.writeEntry x (128 * k + 16 * g) ((bs.drop (16 * g)).take 16)) c
    | none => c

/-- Bytes of one line stored by a run. -/
def State.runStore (s : State) (a : Ax) (va : Nat) (bs : List Byte) : Option RunStop × State :=
  let at_ : DWord := BitVec.ofNat 64 va
  let spot (s : State) (p : Part) : Except Stop Spot × State := s.spotVa a .write false (if p.addr % p.n = 0 then p.n else 0) p
  let parts (s : State) : Option RunStop × State :=
    match resolve spot (granulesOf va bs.length) s with
    | (.error e, t) => (some (e, BitVec.ofNat 64 (stopsAt spot (granulesOf va bs.length) s)), t)
    | (.ok ps, s) => (none, s.writeSpots a bs ps)
  match (s.core a.n).windowAt a.w va with
  | some w =>
    if bs.length = 128 ∧ va % 128 = 0 then
      match s.translate a.x .write va with
      | (.error f, s) => (some (f.stop .write va, at_), s)
      | (.ok x, s) =>
        let s := s.peerNews x.pa
        match s.spotStop a false .write 16 x 128 with
        | some t => (some (.trap t, at_), s)
        | none =>
          if s.cutOff a .write x then (some (.held, at_), s)
          else if x.mt = 2 then parts s else (none, s.storeEntry a.n w ((va - w.wva) / 128) (x.pa / 128) x.lcl bs)
    else parts s
  | none => parts s

/-- The 32-byte sectors of n bytes at va, each as one part. -/
def sectorParts (va : Nat) (bad : List Nat) : List Part :=
  bad.map fun i => ⟨va + i, 0, 1⟩

/-- The destination of poisoned source bytes is poisoned, and the event recorded (R408). -/
def State.runPoison (s : State) (a : Ax) (r : Run) (va sub : Nat) (bad : List Nat) : State :=
  match resolve (fun s p => s.spotVa a .write false 0 p) (sectorParts va bad) s with
  | (.error _, s) => s
  | (.ok ps, s) =>
    let s := ps.foldl (fun s e => s.poisonSpot a e.2) s
    s.recordErr a.n { cause := 0x2A, sub := sub, sev := .contained, unit := 3, lane := 0, wid := r.wid, task := r.task,
                      addr := BitVec.ofNat 64 va }

/-- A source whose home is lost: the sectors of the destination that its bytes were for, at these offsets, are poisoned
(R419). -/
def State.runLost (s : State) (a : Ax) (va : Nat) (offs : List Nat) (e : Stop) : State :=
  match e with
  | .trap ⟨0x14, 6⟩ =>
    match resolve (fun s p => s.spotVa a .write false 0 p) (sectorParts va offs) s with
    | (.error _, s) => s
    | (.ok ps, s) => ps.foldl (fun s e => s.poisonSpot a e.2) s
  | _ => s

/-- Written entries go home, where every lane of the core, too, finds the bytes that the tag stands for (R223, R246). -/
def State.runBack (s : State) (a : Ax) (va : Nat) : State :=
  match (s.core a.n).windowAt a.w va with
  | some w => s.backEntry a.n w ((va - w.wva) / 128)
  | none => s

/-- PEND of the run's group falls by k bytes (R220). -/
def State.lowerPend (s : State) (n : Nat) (r : Run) (k : Nat) : Option RunStop × State :=
  match r.bar with
  | none => (none, s)
  | some g =>
    let ref := s.barRef n { s.runWarp n r with ptroot := r.ptroot, asid := r.asid } r.user g
    match s.barChange n r.task g ref fun b => { b with pend := sextI 40 (truncI 40 (b.pend - k)) } with
    | (none, s) => (none, s)
    | (some e, s) => (some (e, match ref with | .mem _ boa => BitVec.ofNat 64 boa | .core _ _ => 0), s)

/-- Delivered bytes are counted on PEND, or owed until they can be (R220). -/
def State.countPend (s : State) (n tag : Nat) (r : Run) (k : Nat) : State :=
  match s.lowerPend n r k with
  | (none, s) => s.modRun n tag fun r => { r with owed := 0 }
  | (some (e, va), s) => (s.modRun n tag fun r => { r with owed := k }).stopRun n tag va e

/-- The same for the COPY of receiver x on core m, with what it owes already (R393). -/
def State.countPart (s : State) (n tag : Nat) (r : Run) (x m k : Nat) : State :=
  let k := k + look 0 r.dues x
  match s.lowerPend n r k with
  | (none, s) => s.modRun n tag fun r => { r with dues := del r.dues x }
  | (some (e, va), s) => (s.modRun n tag fun r => { r with dues := ins r.dues x k }).stopPart n tag x m va e

/-! ### COPY (R246) -/

structure CopyPlan where
  dva : Nat
  sva : Nat
  rowb : Nat
  rows : Nat
  pitch : Nat
  deriving DecidableEq, Repr

def copyPlan (o : CopyForm) (r : Run) : CopyPlan :=
  let c := r.c.toNat
  let rowb := bitsN c 31 12
  { dva := r.a.toNat, sva := r.b.toNat, rowb := rowb, rows := bitsN c 11 0 + 1
    pitch := if o.spitch = 0 then rowb else o.spitch.toNat }

def CopyPlan.total (p : CopyPlan) : Nat := p.rowb * p.rows
/-- The source address of destination offset q. -/
def CopyPlan.src (p : CopyPlan) (q : Nat) : Nat := (p.sva + q / p.rowb * p.pitch + q % p.rowb) % 2 ^ 64
/-- The destination offset of an address, if it lies in the destination. -/
def CopyPlan.dstOf (p : CopyPlan) (va : Nat) : Option Nat :=
  if (va + 2 ^ 64 - p.dva) % 2 ^ 64 < p.total then some ((va + 2 ^ 64 - p.dva) % 2 ^ 64) else none
def CopyPlan.overlaps (p : CopyPlan) : Bool :=
  (List.range p.rows).any fun i =>
    let a := (p.sva + i * p.pitch + 2 ^ 64 - p.dva) % 2 ^ 64
    decide (a < p.total) || decide (2 ^ 64 < a + p.rowb)

/-- Where a byte may come from: its source, or what the run writes there, and so on (R246). -/
def CopyPlan.chain (p : CopyPlan) : Nat → Nat → Nat
  | 0, va => va
  | n + 1, va => match p.dstOf va with | some q => p.chain n (p.src q) | none => va

/-- Source bytes of a part of the destination. Where source and destination overlap each byte is old or new. -/
def State.copyRead (s : State) (a : Ax) (r : Run) (p : CopyPlan) (q n : Nat) : Except RunStop Got × State :=
  if !p.overlaps then s.runRead a (p.src q) n
  else
    (List.range n).foldl (fun (acc : Except RunStop Got × State) i =>
      match acc with
      | (.error e, s) => (.error e, s)
      | (.ok g, s) =>
        let va := p.chain (Config.choice s.draw (860000 + q + i)) (p.src (q + i))
        match s.runRead a va 1 with
        | (.error e, s) => (.error e, s)
        | (.ok h, s) =>
          let bs := match find r.old va with | some b => [b] | none => h.bs
          (.ok ⟨g.bs ++ bs, if h.bad.isSome then h.bad else g.bad⟩, s)) (.ok ⟨[], none⟩, s)

/-- Parts of the destination offsets q to q + n − 1 whose source is contiguous within a granule. -/
def CopyPlan.parts (p : CopyPlan) : Nat → Nat → Nat → List (Nat × Nat)
  | 0, _, _ => []
  | _, _, 0 => []
  | fuel + 1, q, n =>
    let k := min n (min (p.rowb - q % p.rowb) (16 - p.src q % 16))
    (q, k) :: p.parts fuel (q + k) (n - k)

/-- What a line of the destination receives: its bytes, the offsets that are poisoned, and the poison's SUB. -/
structure LineIn where
  bs : List Byte
  bad : List Nat
  sub : Nat
  deriving DecidableEq, Repr

def LineIn.add (x : LineIn) (g : Got) : LineIn :=
  { bs := x.bs ++ g.bs
    bad := if g.bad.isSome then x.bad ++ (List.range g.bs.length).map (x.bs.length + ·) else x.bad
    sub := g.bad.getD x.sub }

def State.copyLine (s : State) (a : Ax) (r : Run) (p : CopyPlan) : List (Nat × Nat) → Except RunStop LineIn × State
  | [] => (.ok ⟨[], [], 0⟩, s)
  | (q, k) :: ps =>
    match s.copyRead a r p q k with
    | (.error e, s) => (.error e, s)
    | (.ok g, s) =>
      match s.copyLine a r p ps with
      | (.error e, s) => (.error e, s)
      | (.ok x, s) =>
        let y := (LineIn.add ⟨[], [], x.sub⟩ g)
        (.ok { bs := y.bs ++ x.bs, bad := y.bad ++ x.bad.map (y.bs.length + ·), sub := y.sub }, s)

/-- Store a line that was read, with its poison. -/
def State.runDeliver (s : State) (a : Ax) (r : Run) (va : Nat) (x : LineIn) : Option RunStop × State :=
  match s.runStore a va x.bs with
  | (some e, s) => (some e, s)
  | (none, s) =>
    let s := if x.bad = [] then s else s.runPoison a r va x.sub x.bad
    (none, s.runBack a va)

/-- The destination bytes of an overlapping COPY before they are overwritten. -/
def State.keepOld (s : State) (a : Ax) (n tag : Nat) (va k : Nat) : State :=
  let (bs, s) := (List.range k).foldl (fun (acc : List (Nat × Byte) × State) i =>
    match acc.2.load a false (va + i) 1 with
    | (.ok [b], s) => ((va + i, b) :: acc.1, s)
    | (_, s) => (acc.1, s)) ([], s)
  s.modRun n tag fun r => { r with old := bs.foldl (fun t e => if (find t e.1).isSome then t else ins t e.1 e.2) r.old }

/-- The offsets of a line of k destination bytes, from destination offset q on, whose part was read at address va. -/
def CopyPlan.readAt (p : CopyPlan) (ps : List (Nat × Nat)) (q k va : Nat) : List Nat :=
  match ps.find? fun e => decide (p.src e.1 ≤ va) && decide (va < p.src e.1 + e.2) with
  | some e => (List.range e.2).map fun i => e.1 + i - q
  | none => List.range k

/-- The next line of a COPY in row-major order (R246, R391). -/
def State.copyStep (s : State) (n tag : Nat) (r : Run) (o : CopyForm) : State :=
  let p := copyPlan o r
  let va := (p.dva + r.prog) % 2 ^ 64
  let k := min (p.total - r.prog) (128 - va % 128)
  let a := s.runAx n r
  let out := s.underWins n r.task r.wins fun s =>
    match s.copyLine a r p (p.parts 128 r.prog k) with
    | (.error e, s) => (some e, s)
    | (.ok x, s) =>
      let s := if p.overlaps then s.keepOld a n tag va k else s
      s.runDeliver a r va x
  match out with
  | (some (e, at_), s) => (s.runLost a va (p.readAt (p.parts 128 r.prog k) r.prog k at_.toNat) e).stopRun n tag at_ e
  | (none, s) =>
    let s := s.modRun n tag fun r => { r with prog := r.prog + k, started := true }
    let s := s.countPend n tag r k
    s.push (if r.prog + k = p.total then .copyComplete n tag else .engineBytesDelivered n tag)

def execCopyComplete (core tag : Nat) (s : State) : Result :=
  match find (s.core core).runs tag with
  | some r =>
    match r.kind with
    | .copy o => .next (if (copyPlan o r).total ≤ r.prog ∧ r.owed = 0 then s.endRun core tag r else s)
    | _ => .next s
  | none => .next s

/-- The group that counts the run's bytes (R246). -/
def Warp.barOf (w : Warp) (be : Bool) (k : BitVec 2) : Option Nat :=
  if be && w.groupOk k.toNat then some (w.groupId k.toNat).toNat else none

def execCopy (o : CopyForm) (s : State) : Result :=
  engineInstr (.copy o) o.g o.tag.toNat { a := some (o.a, .i64), b := some (o.b, .i64), c := some (o.c, .i32) } noDyn
    (fun x s =>
      let l := lowLane x.act
      let r := s.newRun (.copy o) (x.cx.srcA l o.a .i64) (x.cx.srcB l o.b .i64) (x.cx.srcC l o.c .i32)
      let r : Run := { r with bar := s.warp.barOf o.be o.bsel }
      let s := s.startRun o.tag.toNat r
      (none, if (copyPlan o r).total = 0 then s.endRun s.cur.who.core o.tag.toNat r else s)) s

/-! ### MCAST (R247, R248, R337–R339) -/

def busSize : Nat := 16384

def mcastCores (o : McastForm) : List Nat :=
  ((List.range 16).filter fun x => o.cmask.getLsbD x).map fun x => o.quad.toNat * 16 + x

/-- Bytes of the source of an MCAST, part by part. -/
def State.gather (s : State) (read : State → Part → Except RunStop Got × State) : List Part → Except RunStop LineIn × State
  | [] => (.ok ⟨[], [], 0⟩, s)
  | p :: ps =>
    match read s p with
    | (.error e, s) => (.error e, s)
    | (.ok g, s) =>
      match s.gather read ps with
      | (.error e, s) => (.error e, s)
      | (.ok x, s) =>
        let y := (LineIn.add ⟨[], [], x.sub⟩ g)
        (.ok { bs := y.bs ++ x.bs, bad := y.bad ++ x.bad.map (y.bs.length + ·), sub := y.sub }, s)

/-- The access context of a receiver, which stores through its own window (R247). -/
def recvAx (n : Nat) (r : Run) (w : Window) : Ax :=
  let g : Table Word := match w.grp with | some g => [(0, 0x80000000 ||| g.setWidth 32)] | none => []
  { x := { core := n, ptroot := w.ptroot, asid := w.asid, user := r.user }
    w := { Warp.empty with task := r.task, wid := r.wid, grp := g }, acq := false }

/-- Core m has saved what it held of a stopping task: what reaches it is dropped and not counted (R393). -/
def State.coreSaved (s : State) (task : Word) (m : Nat) : Bool :=
  match find s.disp.tasks task.toNat with
  | some t =>
    t.st == .stopping && !((s.core m).slots.any fun e => e.2.task == task) &&
      t.warps.any fun e => e.2.core == m && (find s.saved (savedKey task (BitVec.ofNat 32 e.1))).isSome
  | none => false

/-- The receivers that may get their next line, in a free order (R304); none whose core is saved or whose COPY waits or owes
(R393). -/
def State.mcastPick (s : State) (o : McastForm) (r : Run) (len : Nat) : List Nat :=
  let xs := (List.range 16).filter fun x => o.cmask.getLsbD x && decide (r.next.getD x 0 < len) &&
    !((r.recv.getD x none).any fun m => s.coreSaved r.task m) && !r.heldAt.contains x && (find r.dues x).isNone
  let k := Config.choice s.draw 870000 % max 1 xs.length
  xs.drop k ++ xs.take k

/-- The next line of an MCAST to receiver x, through a window there; on the issuing core through one that the run met at its
issue (R370). That of a resumed one is a COPY of the receiver's core, which reads the source and takes what stops it there
(R393). None where it waits for a route (R430). -/
def State.mcastLine (s : State) (n tag : Nat) (r : Run) (o : McastForm) (x : Nat) : Option State :=
  let at_ := r.next.getD x 0
  let va := (r.a.toNat + at_) % 2 ^ 64
  let k := min (r.c.toNat - at_) (128 - va % 128)
  let moved (s : State) : State := s.modRun n tag fun r => r.reached x (at_ + k)
  match (r.recv.getD x none).bind fun m => ((s.core m).windows.find? fun w =>
      w.task == r.task && w.hasVa va && (m != n || r.wins.contains w.soff)).map fun w => (m, w) with
  | none => some ((moved s).push (.engineBytesDelivered n tag))
  | some (m, w) =>
    let stop (s : State) (e : RunStop) : Option State :=
      if e.1 = .held then none
      else some (if r.copies then s.stopPart n tag x m e.2 e.1 else s.stopRun n tag e.2 e.1)
    let read (c : Nat) (s : State) := s.gather (fun s p => s.runRead (s.runAx c r) p.addr p.n) (granulesOf ((r.b.toNat + at_) % 2 ^ 64) k)
    match (if r.copies && m != n then read m s else s.underWins n r.task r.wins (read n)) with
    | (.error e, s) =>
      let o := (e.2.toNat + 2 ^ 64 - (r.b.toNat + at_) % 2 ^ 64) % 2 ^ 64
      stop (s.runLost (recvAx m r w) va ((List.range (16 - e.2.toNat % 16)).map (o + ·)) e.1) e
    | (.ok y, s) =>
      match s.runDeliver (recvAx m r w) r va y with
      | (some e, s) => stop s e
      | (none, s) =>
        let s := moved (if m = n then s else s.acquire n (s.core m).ct)
        some ((if r.copies then s.countPart n tag r x m k else s.countPend n tag r k).push (.engineBytesDelivered n tag))

/-- The next line of an MCAST, to the first of the receivers to which it can go. -/
def State.mcastStep (s : State) (n tag : Nat) (r : Run) (o : McastForm) : State :=
  match s.mcastPick o r r.c.toNat with
  | [] => s.push (.mcastComplete n tag)
  | xs => (xs.findSome? fun x => s.mcastLine n tag r o x).getD s

/-- The granule of a bus MCAST's source that holds its byte q: the bytes that the feeder has, else those it reads now,
through the slices (R248, R339). -/
def State.busGranule (s : State) (n tag : Nat) (r : Run) (q : Nat) : Except RunStop Got × State :=
  let at_ := (r.b.toNat + q) % 2 ^ 64
  let from_ := q - at_ % 16
  let have_ := match find (s.core n).runs tag with | some r => find r.ahead (at_ / 16) | none => none
  match have_ with
  | some (bs, bad) => (.ok ⟨bs, bad⟩, s)
  | none =>
    let va := (r.b.toNat + from_) % 2 ^ 64
    match s.underWins n r.task [] fun s =>
      s.runRead { s.runAx n r with acq := true } va (min (16 - va % 16) (r.c.toNat - from_)) with
    | (.error e, s) => (.error e, s)
    | (.ok g, s) => (.ok g, s.modRun n tag fun r => { r with ahead := ins r.ahead (at_ / 16) (g.bs, g.bad) })

/-- The feeder reads a granule before its turn, or none: any one that it has not, at any moment (R339). -/
def State.busAhead (s : State) (n tag : Nat) (r : Run) : Option State :=
  let k := Config.choice s.draw 880000
  let q := r.prog + 16 * (k / 2 % ((r.c.toNat - r.prog) / 16 + 1))
  if k % 2 = 0 ∨ r.c.toNat ≤ q ∨ (find r.ahead ((r.b.toNat + q) % 2 ^ 64 / 16)).isSome then none
  else
    match s.busGranule n tag r q with
    | (.ok _, s) => some (s.push (.engineBytesDelivered n tag))
    | (.error _, _) => none

/-- The granules of a delivery go; one that reaches past it stays for the next. -/
def Run.spent (r : Run) (ps : List Part) : Run :=
  let end_ := (r.b.toNat + r.prog) % 2 ^ 64 / 16
  { r with ahead := r.ahead.filter fun e => e.1 == end_ || !ps.any fun p => p.addr % 2 ^ 64 / 16 == e.1 }

/-- 256 bytes of a bus MCAST, once it heads its bus and the four buffers have room (R248, R338). -/
def State.busStep (s : State) (n tag : Nat) (r : Run) (o : McastForm) : State :=
  let len := r.c.toNat
  let k := min (len - r.prog) 256
  let full := (mcastCores o).any fun m =>
    let c := s.core m
    decide (busSize < (if o.col then c.colBus else c.rowBus).length + k)
  if (look [] s.buses (busKey o)).head? ≠ some (n, tag) ∨ full then s
  else if k = 0 then s.push (.mcastComplete n tag)
  else
    let ps := granulesOf ((r.b.toNat + r.prog) % 2 ^ 64) k
    let part (s : State) (p : Part) : Except RunStop Got × State :=
      let q := r.prog + p.at_
      match s.busGranule n tag r q with
      | (.error e, s) => (.error e, s)
      | (.ok g, s) => (.ok { g with bs := (g.bs.drop (min q (p.addr % 16))).take p.n }, s)
    match s.gather part ps with
    | (.error (e, va), s) => s.stopRun n tag va e
    | (.ok y, s) =>
      let xs := y.bs.zipIdx.map fun e => (e.1, y.bad.contains e.2)
      let s := if y.bad = [] then s else s.recordErr n
        { cause := 0x2A, sub := y.sub, sev := .contained, unit := 3, lane := 0, wid := r.wid, task := r.task, addr := r.b }
      let s := (mcastCores o).foldl (fun s m =>
        let s := s.modCore m fun c =>
          if o.col then { c with colBus := c.colBus ++ xs } else { c with rowBus := c.rowBus ++ xs }
        (s.core m).runs.foldl (fun s e => if e.2.isMloop then s.push (.mloopStepEnd m e.1) else s) s) s
      let s := s.modRun n tag fun r => { r with prog := r.prog + k, started := true }.spent ps
      (s.countPend n tag r (k * (mcastCores o).length)).push (.engineBytesDelivered n tag)

/-- The bytes of a COPY or MCAST that come next are delivered and counted (R220). -/
def execEngineBytesDelivered (core tag : Nat) (s : State) : Result :=
  match find (s.core core).runs tag with
  | none => .next s
  | some r =>
    if r.held then .next s
    else
      let s := if r.owed = 0 then s else s.countPend core tag r r.owed
      match find (s.core core).runs tag with
      | none => .next s
      | some r =>
        if r.held ∨ r.owed ≠ 0 then .next s
        else
          let s := r.dues.foldl (fun s e =>
            if r.heldAt.contains e.1 then s else s.countPart core tag r e.1 ((r.recv.getD e.1 none).getD core) 0) s
          let r := (find (s.core core).runs tag).getD r
          let s := match r.kind with
            | .mloop _ => s
            | .copy o =>
              if r.prog < (copyPlan o r).total then s.copyStep core tag r o else s.push (.copyComplete core tag)
            | .mcast o =>
              if o.bus then (s.busAhead core tag r).getD (s.busStep core tag r o) else s.mcastStep core tag r o
          .next { s with draw := s.draw + 1 }

/-- Every receiver has its bytes, or the last has entered the buffers (R247, R339). -/
def execMcastComplete (core tag : Nat) (s : State) : Result :=
  match find (s.core core).runs tag with
  | some r =>
    match r.kind with
    | .mcast o =>
      let done := if o.bus then decide (r.c.toNat ≤ r.prog)
        else (List.range 16).all fun x => !o.cmask.getLsbD x || decide (r.c.toNat ≤ r.next.getD x 0)
      .next (if done ∧ r.owed = 0 ∧ r.dues = [] then s.endRun core tag r else s)
    | _ => .next s
  | none => .next s

def execMcast (o : McastForm) (s : State) : Result :=
  engineInstr (.mcast o) o.g o.tag.toNat
    { a := if o.bus then none else some (o.a, .i64), b := some (o.b, .i64), c := some (o.c, .i32) } noDyn
    (fun x s =>
      let l := lowLane x.act
      let r := s.newRun (.mcast o) (if o.bus then 0 else x.cx.srcA l o.a .i64) (x.cx.srcB l o.b .i64) (x.cx.srcC l o.c .i32)
      let r : Run := { r with bar := s.warp.barOf o.be o.bsel, next := List.replicate 16 0,
                                 recv := (List.range 16).map fun y => some (o.quad.toNat * 16 + y) }
      let n := s.cur.who.core
      let s : State := if o.bus then { s.backWarp n s.warp with buses := upd [] s.buses (busKey o) fun q => q ++ [(n, o.tag.toNat)] } else s
      (none, s.startRun o.tag.toNat r)) s

/-! ### REDQ (R90, R245) -/

def redqFmt : RedqFmt → FloatFmt
  | .e5m2 => e5m2 | .e4m3 => e4m3 | .e2m1 => e2m1

/-- A block record: its scale word, its elements. -/
def recBlock (F : FloatFmt) (bs : List Byte) : Block :=
  let n := 4 * F.width
  { e := importScale false (ofBytes ((bs.drop n).take 2)), el := unpackElems F.width 32 (bs.take n) }

/-- The value of element i of a block (R78). -/
def Block.val (F : FloatFmt) (b : Block) (i : Nat) : FVal := scaled b.e (F.value (b.el.getD i 0))

/-- The requantised sum of two blocks, and ovf (R90). -/
def redqBlock (F : FloatFmt) (a y : Block) : Block × Bool :=
  let none_ : Block := ⟨none, List.replicate 32 0⟩
  if a.e.isNone ∨ y.e.isNone then (none_, false)
  else
    let xs := (List.range 32).map fun i =>
      fp32.value (FloatFmt.convert fp32 .rne false false (addExact .rne (a.val F i) (y.val F i)).v).1
    if F.width = 4 ∧ xs.any FVal.isNan then (none_, false)
    else
      let (m, e) := match xs.foldl maxMag (.fin false 0 0) with | .fin _ m e => (m, e) | _ => (0, 0)
      let E := blockExp F m e
      (⟨some E, xs.map fun x => match x with
        | .nan _ => F.canon
        | .inf n => F.maxOf n
        | .fin n m e => (F.round .rne false n m (e - E) false).bits⟩, xs.any FVal.isInf)

/-- The bytes of a record up to its OVF byte. -/
def blockBytes (F : FloatFmt) (b : Block) (ovf : Byte) : List Byte :=
  let n := 4 * F.width
  toBytes n (b.el.zipIdx.foldl (fun acc e => acc + e.1 % 2 ^ F.width * 2 ^ (F.width * e.2)) 0) ++
    toBytes 2 (match b.e with | none => 0x200 | some E => truncI 10 E) ++ [ovf]

/-- Parts of a record resolved at the home, 16 bytes each. -/
def State.homeParts (s : State) (a : Ax) (acc : Acc) (va : Nat) : Nat → Except Stop (List Xlat) × State
  | 0 => (.ok [], s)
  | k + 1 =>
    match s.homeParts a acc va k with
    | (.error e, s) => (.error e, s)
    | (.ok xs, s) =>
      match s.homeSpot a acc ((va + 16 * k) % 2 ^ 64) 16 true with
      | (.error e, s) => (.error e, s)
      | (.ok x, s) => (.ok (xs ++ [x]), s)

def State.homeAll (s : State) (n : Nat) : List Xlat → List Byte × State
  | [] => ([], s)
  | x :: xs =>
    let (b, s) := s.homeBytes n x.lcl x.pa 16
    let (bs, s) := s.homeAll n xs
    (b ++ bs, s)

/-- One lane of REDQ: Y at va becomes the sum with A. -/
def State.redq (s : State) (a : Ax) (F : FloatFmt) (va src : Nat) : Option Stop × State :=
  let k := if F.width = 4 then 2 else 3
  if va % 16 ≠ 0 ∨ src % 16 ≠ 0 then (some (.trap ⟨0x09, 4⟩), s)
  else
    match s.homeParts a .rmw va k with
    | (.error e, s) => (some e, s)
    | (.ok ys, s) =>
      match s.homeParts a .read src k with
      | (.error e, s) => (some e, s)
      | (.ok xs, s) =>
        let (ab, s) := s.homeAll a.n xs
        let s := match ys with | y :: _ => s.askHome y.pa (.redq (16 * k) ab) | [] => s
        let (yb, s) := s.homeAll a.n ys
        let (b, ovf) := redqBlock F (recBlock F ab) (recBlock F yb)
        let old := yb.getD (4 * F.width + 2) 0
        let out := blockBytes F b (if ovf then old ||| 1 else old) ++ yb.drop (4 * F.width + 3)
        (none, (ys.zipIdx).foldl (fun s e => s.homePut a.n e.1.lcl e.1.pa ((out.drop (16 * e.2)).take 16)) s)

def redqLane (f : RedqFmt) (o : MForm NoMod) (cx : RdCx) (ax : Ax) (l : Nat) (s : State) : Option Stop × State :=
  s.redq ax (redqFmt f) (cx.va o.a (moffVal o.off) l) (cx.srcB l o.b .i64)

def redqBody (f : RedqFmt) (o : MForm NoMod) (x : Issue) (s : State) : Done := laneLoop x (redqLane f o x.cx (s.ax false)) s

def execRedq (f : RedqFmt) (o : MForm NoMod) (s : State) : Result :=
  runInstr (.redq f o) o.g none .none { a := some (o.a, .i64), b := some (o.b, .i64) } noDyn (redqBody f o) s

end Sys2Proof.Machine
end

