-- ==== Sys2Proof/Machine/Tasks.lean ====
section
/-! DEFINITION. Messages, launches, placement, and the life of tasks and warps (R23, R34–R41, R45, R49, R249–R253, R276,
R315–R319, R387). -/

namespace Sys2Proof.Machine

/-! ### MSEND and the receive rings (R249, R250) -/

def msgLen (b : Nat) : Nat := 8 * (bitsN b 10 8 + 1)

/-- An active lane whose message needs a register beyond the allocation (R249). -/
def msendDyn (o : WForm NoMod) : RdCx → State → List Nat := fun cx s =>
  let top := match o.c with | .v i => i.toNat | _ => 0
  if (lanesOf (cx.active o.g s.cur.cluster)).any fun l =>
      decide (cx.w.vAlloc < top + (msgLen (cx.srcB l o.b .i32) + 3) / 4) then [6] else []

/-- The registers that hold a message, from c. -/
def msgData (cx : RdCx) (l : Nat) (c : Src) (n : Nat) : List Byte := toBytes n (cx.fetchN 2 l l c .i32 ((n + 3) / 4))

/-- MSEND (R249); bits of b beside RING and LEN8 are ignored (log entry 96). -/
def execMsend (o : WForm NoMod) (s : State) : Result :=
  runInstr (.msend o) o.g o.lit o.perm { a := some (o.a, .i32), b := some (o.b, .i32), c := some (o.c, .i32) } (msendDyn o)
    (fun x s =>
      let f := s.cur.front
      { s := (lanesOf x.act).foldl (fun s l =>
          let b := x.cx.srcB l o.b .i32
          let m : Msg :=
            { id := s.msgs.foldl (fun n m => max n (m.id + 1)) 0, who := s.cur.who, front := f, lane := l, d := o.d.toNat
              task := s.warp.task, wid := s.warp.wid, route := BitVec.ofNat 32 (x.cx.srcA l o.a .i32), ring := b % 64
              data := msgData x.cx l o.c (msgLen b) }
          let s : State := { s with msgs := s.msgs ++ [m] }
          (s.owes (laneBit l)).sendMsg m) s
        adv := x.act }) s

/-- A ring header. -/
structure Ring where
  doff : Nat
  log : Nat
  we : Bool
  ok : Bool
  head : Nat
  tail : Nat
  wkva : Nat
  deriving DecidableEq, Repr

def ringOf (bs : List Byte) (z : Nat) : Ring :=
  let x := ofBytes bs
  let log := bitsN x 39 32
  let doff := bitsN x 31 0
  let head := bitsN x 95 64
  let tail := bitsN x 127 96
  { doff := doff, log := log, we := decide (bitsN x 41 41 = 1), head := head, tail := tail, wkva := bitsN x 191 128
    ok := decide (bitsN x 40 40 = 1) && decide (bitsN x 63 42 = 0) && decide (doff % 128 = 0) && decide (log ≤ 10) &&
      decide (doff + 128 * 2 ^ log ≤ z) && decide (bitsN x 255 192 = 0) &&
      decide ((tail + 2 ^ 32 - head) % 2 ^ 32 ≤ 2 ^ log) }

/-- Slots filled and not consumed. -/
def Ring.used (r : Ring) : Nat := (r.tail + 2 ^ 32 - r.head) % 2 ^ 32

/-- The 128 bytes of a slot. -/
def Msg.slot (m : Msg) : List Byte :=
  m.data ++ List.replicate (64 - m.data.length) 0 ++ toBytes 2 m.data.length ++ toBytes 2 m.who.core ++
    toBytes 4 m.wid.toNat ++ toBytes 1 m.lane ++ List.replicate 55 0

/-- A store by the network interface at a stash offset, 16 bytes at a time. -/
def State.ifaceStore (s : State) (a : Ax) (o : Nat) (bs : List Byte) : Option Stop × State :=
  match resolve (fun s p => s.spotOff a .write p) (granulesOf o bs.length) s with
  | (.error e, s) => (some e, s)
  | (.ok ps, s) => (none, s.writeSpots a bs ps)

/-- A message arrives at a core: its status (R249, R250). -/
def State.receive (s : State) (n : Nat) (m : Msg) : Nat × State :=
  let c := s.core n
  match find s.disp.tasks m.task.toNat with
  | none => (3, s)
  | some t =>
    if !(c.slots.any fun e => e.2.task == m.task) then (3, s)
    else
      let a : Ax := { x := { core := n, ptroot := t.ptroot, asid := t.asid, user := false }
                      w := { Warp.empty with task := m.task }, acq := false, agent := true }
      match resolve (fun s p => s.spotOff a .read p) (granulesOf (32 * m.ring) 32) s with
      | (.error _, s) => (2, s)
      | (.ok ps, s) =>
        let (bs, s) := s.readSpots a ps
        let r := ringOf bs (c.run m.task).size
        if (c.run m.task).size < 32 * m.ring + 32 ∨ !r.ok then (2, s)
        else if r.used = 2 ^ r.log then (1, s)
        else
          match s.ifaceStore a (r.doff + 128 * (r.tail % 2 ^ r.log)) m.slot with
          | (some _, s) => (2, s)
          | (none, s) =>
            let (_, s) := s.ifaceStore a (32 * m.ring + 12) (toBytes 4 (r.tail + 1))
            if r.we ∧ r.used = 0 ∧ r.wkva % 4 = 0 then
              match s.translate a.x .wake r.wkva with
              | (.ok x, s) => (0, (s.wakeAt t.asid (BitVec.ofNat 64 r.wkva) (s.fwd x.pa) 0 0).2)
              | (.error _, s) => (0, s)
            else (0, s)

/-- The oldest message that reaches a unit, and that nothing holds, is received there; a slice has no ring. -/
def execMessageReceive (core : Nat) (s : State) : Result :=
  match s.msgs.find? fun m => decide (s.msgEnd m = .unit core) && !s.msgHeld m with
  | none => .next s
  | some m =>
    let (st, s) := if core < 128 then s.receive core m else (2, s)
    let s := s.msgStatus m (BitVec.ofNat 32 st)
    .next { s with draw := s.draw + 1 }

/-! ### Reading a descriptor (R251, R252, R387) -/

/-- n bytes at a virtual address read by the Dispatcher: granule by granule, or the address that fails. -/
def State.dispBytes (s : State) (x : XCx) : List Part → Except DWord (List Byte) × State
  | [] => (.ok [], s)
  | p :: ps =>
    match s.translate x .read p.addr with
    | (.error _, s) => (.error (BitVec.ofNat 64 p.addr), s)
    | (.ok y, s) =>
      if (s.place y.pa).isControl ∨ (s.place y.pa).isPort ∨ (s.badData y.pa p.n).isSome then (.error (BitVec.ofNat 64 p.addr), s)
      else
        let (bs, s) := s.readMem x.core y.mt true y.pa p.n
        match s.dispBytes x ps with
        | (.error e, s) => (.error e, s)
        | (.ok cs, s) => (.ok (bs ++ cs), s)

def State.dispRead (s : State) (x : XCx) (va n : Nat) : Except DWord (List Byte) × State := s.dispBytes x (granulesOf va n)

/-- Field of n bytes at an offset of a descriptor. -/
def dField (d off n : Nat) : Nat := d / 2 ^ (8 * off) % 2 ^ (8 * n)

/-- Bytes 0 to 3 of a membership word that name groups, before the first 0xFF. -/
def wordGroups (w : Word) : List Nat :=
  ((List.range 4).map fun j => bitsN w.toNat (8 * j + 7) (8 * j)).takeWhile fun g => g ≠ 255

/-- No index after 0xFF, none twice (R38). -/
def wordOk (w : Word) : Bool :=
  let gs := wordGroups w
  gs.eraseDups.length == gs.length && (List.range 4).all fun j => decide (j < gs.length) || bitsN w.toNat (8 * j + 7) (8 * j) == 255

/-- %grp0–%grp3 of a warp word (R39). -/
def grpOf (w : Word) : Table Word :=
  (List.range 4).foldl (fun t j =>
    let g := bitsN w.toNat (8 * j + 7) (8 * j)
    put 0 t j (if g = 255 then 0 else BitVec.ofNat 32 (2 ^ 31 + g))) []

/-- Members of group g, in warp order. -/
def members (ws : List Word) (g : Nat) : List Nat :=
  (ws.zipIdx.filter fun e => (wordGroups e.1).contains g).map (·.2)

/-! ### Units and whether a task can ever be placed (R318, R387) -/

/-- Warps joined by core-local groups: each unit with its groups. -/
structure Unit_ where
  warps : List Nat
  groups : List Nat
  deriving DecidableEq, Repr

/-- Warp w with its core-local groups joins every unit that shares one. -/
def joinUnit (us : List Unit_) (w : Nat) (gs : List Nat) : List Unit_ :=
  let (hit, rest) := us.partition fun u => u.groups.any fun g => gs.contains g
  rest ++ [{ warps := (hit.map (·.warps)).flatten ++ [w], groups := (hit.map (·.groups)).flatten ++ gs }]

def insUnit (u : List Nat) : List (List Nat) → List (List Nat)
  | [] => [u]
  | v :: vs => if u.headD 0 < v.headD 0 then u :: v :: vs else v :: insUnit u vs

def sortNats (xs : List Nat) : List Nat :=
  xs.foldl (fun acc x => (acc.takeWhile fun y => decide (y < x)) ++ [x] ++ acc.dropWhile fun y => decide (y < x)) []

/-- The units of a task in the order of their lowest warp (R318 rule 1). -/
def unitsOf (ws : List Word) (loc : BitVec 256) : List (List Nat) :=
  let us := ws.zipIdx.foldl (fun us e => joinUnit us e.2 ((wordGroups e.1).filter fun g => loc.getLsbD g)) []
  (us.map fun u => sortNats u.warps).foldl (fun acc u => insUnit u acc) []

/-- Units of more than one warp fit into bins with the room given, and `ones` single warps beside them: every choice
of bins is tried. -/
def packs (ones : Nat) : List Nat → List Nat → Bool
  | [], free => decide (ones ≤ free.sum)
  | u :: us, free =>
    (List.range free.length).any fun i =>
      decide (u ≤ free.getD i 0) && packs ones us (free.set i (free.getD i 0 - u))

/-- Stash bytes that a core gives: of a write to %waymask that waits, what both masks keep (R63). -/
def Core.stashSize (c : Core) : Nat :=
  let m := c.waymask &&& c.wayPend.getD (BitVec.allOnes 12)
  ((List.range 12).filter fun i => m.getLsbD i).length * 131072

/-- Some placement on the device as it stands, with no warp placed, holds the task (R387). -/
def State.placeable (s : State) (t : Task) : Bool :=
  let per := 32 * min 8 (min (512 / (8 * t.vgran)) (512 / (8 * t.sgran)))
  let us := unitsOf t.memb t.localBits
  let big := (us.filter fun u => decide (1 < u.length)).map List.length
  let ones := (us.filter fun u => u.length = 1).length
  let ok (n : Nat) : Bool := !(s.core n).retired && decide (t.stash ≤ (s.core n).stashSize)
  let fits (ns : List Nat) : Bool := packs ones big ((ns.filter ok).map fun _ => per)
  match t.place with
  | .any => fits (List.range 128)
  | .quadrant => (List.range 8).any fun q => fits ((List.range 16).map (16 * q + ·))
  | .core => (List.range 128).any fun n => fits [n]

/-! ### Acceptance of a launch (R252, R253, R315, R387) -/

/-- The fields of a descriptor, with what the launching lane fixes; none where a field is out of range (R251,
R252). -/
def State.parseTask (s : State) (r : LaunchReq) (d : Nat) : Option Task :=
  let fl := dField d 0x18 4
  let gr := dField d 0x1C 4
  let home := find s.disp.tasks r.task.toNat
  let root : DWord := match r.gate with
    | some g => g.ptroot
    | none => if r.user then (match home with | some t => t.ptroot | none => r.ptroot) else BitVec.ofNat 64 (dField d 0x08 8)
  let asid : Word := match r.gate with
    | some g => g.asid
    | none => if r.user then (match home with | some t => t.asid | none => r.asid) else BitVec.ofNat 32 (dField d 0x10 4)
  let cap : Nat × Nat := if r.user then (match home with | some t => (t.capBase, t.capN) | none => (0, 0))
    else (dField d 0x98 8, dField d 0xA0 4)
  let save := match r.gate with | some g => g.saveBase | none => if r.user then 0 else dField d 0x80 8
  let sv := decide (fl % 2 = 1)
  let pre := decide (fl / 2 % 2 = 1)
  let place := fl / 4 % 4
  let vg := gr % 256
  let sg := gr / 256 % 256
  let z := gr / 65536 * 4096
  let svOk := match r.gate with | some g => g.sv | none => !r.user
  let preOk := match r.gate with | some g => g.pre | none => !r.user
  let bad := decide (dField d 0 8 % 2 = 1) || decide (dField d 0x12 2 ≠ 0) ||
    decide (root &&& 0xFF0000000000FFFE ≠ 0) || decide (dField d 0x14 4 = 0) || decide (2 ^ 20 < dField d 0x14 4) ||
    decide (fl / 128 ≠ 0) || place == 3 || vg == 0 || decide (32 < vg) || sg == 0 || decide (8 < sg) ||
    decide (dField d 0x28 8 % 4096 ≠ 0) || decide (dField d 0x30 8 % 16 ≠ 0) || decide (dField d 0x78 8 % 4 ≠ 0) ||
    decide (dField d 0x90 8 % 4 ≠ 0) || decide (save % 4096 ≠ 0) || decide (2 ^ 45 ≤ save) || decide (cap.1 % 32 ≠ 0) ||
    decide (2 ^ 45 ≤ cap.1) || decide (dField d 0xA4 28 ≠ 0) || (dField d 0x20 8 != 0 && dField d 0x28 8 == 0) ||
    decide (1572864 < z) || (sv && !svOk) || (pre && !preOk)
  if bad then none
  else some
    { num := 0, st := .queued, entry := BitVec.ofNat 64 (dField d 0 8), ptroot := root, asid := asid, nlanes := dField d 0x14 4
      sv := sv, pre := pre, place := if place = 0 then .any else if place = 1 then .quadrant else .core
      prio := fl / 16 % 8, vgran := vg, sgran := sg, stash := z, memb := [], gtab := BitVec.ofNat 64 (dField d 0x28 8)
      bobase := BitVec.ofNat 64 (dField d 0x30 8), localBits := BitVec.ofNat 256 (dField d 0x38 32)
      used := BitVec.ofNat 256 (dField d 0x58 32), cva := BitVec.ofNat 64 (dField d 0x78 8), cvaAsid := r.asid
      cvaRoot := r.ptroot, saveBase := save, arg := BitVec.ofNat 64 (dField d 0x88 8)
      depva := BitVec.ofNat 64 (dField d 0x90 8), capBase := cap.1, capN := cap.2, rel := r.rel, warps := []
      localGroups := [], ranks := [] }

def Task.nwarps (t : Task) : Nat := (t.nlanes + 31) / 32

/-- The used bits and the membership words agree (R38). -/
def Task.groupsOk (t : Task) : Bool :=
  t.memb.all wordOk && (List.range 256).all fun g =>
    t.used.getLsbD g == t.memb.any fun w => (wordGroups w).contains g

/-- Core-local groups: those used that the descriptor asks for. -/
def Task.locals (t : Task) : List Nat := (List.range 255).filter fun g => t.used.getLsbD g && t.localBits.getLsbD g

/-- The context in which the Dispatcher reaches a task's address space. -/
def Task.cx (t : Task) : XCx := { core := 0, ptroot := t.ptroot, asid := t.asid, user := false }

/-- Addresses of the task that the Dispatcher will write: the group table, the barrier objects (R41). -/
def Task.writes (t : Task) : List Nat :=
  (if t.gtab = 0 then [] else [t.gtab.toNat]) ++
    ((List.range 255).filter fun g => t.used.getLsbD g && !t.localBits.getLsbD g).map fun g =>
      (t.bobase.toNat + 16 * g) % 2 ^ 64

/-- The first of some addresses that does not translate with W. -/
def State.firstUnwritable (s : State) (x : XCx) : List Nat → Option DWord × State
  | [] => (none, s)
  | a :: as =>
    match s.translate x .write a with
    | (.error _, s) => (some (BitVec.ofNat 64 a), s)
    | (.ok _, s) => s.firstUnwritable x as

/-- A failed read at a launch, with the address of the descriptor, the array, or the area that failed (R387). -/
def State.launchFailed (s : State) (r : LaunchReq) (va : DWord) : State :=
  s.recordErr r.who.core
    { cause := 0x22, sub := 0, sev := .contained, unit := 4, lane := r.lane, wid := r.wid, task := r.task, addr := va }

/-- A task number: nonzero, of no task that is not Done. -/
def Disp.freshNum (d : Disp) : Nat :=
  let busy (n : Nat) : Bool := n % 2 ^ 32 == 0 || (match find d.tasks (n % 2 ^ 32) with | some t => t.st != .done | none => false)
  (((List.range (d.tasks.length + 2)).map (d.count + 1 + ·)).find? fun n => !busy n).getD (d.count + 1) % 2 ^ 32

/-- A new entry at the tail of its queue. -/
def State.enqueue (s : State) (q : Nat) (t : Task) : Nat × State :=
  let n := s.disp.freshNum
  let t : Task := { t with num := BitVec.ofNat 32 n }
  let alone := (look [] s.disp.queues q).isEmpty
  let e : QEntry :=
    { task := t.num, level := t.prio, dep := if t.depva = 0 then .met else .unread
      since := if alone ∧ t.depva = 0 then some s.time else none, fail := none, rise := s.time, reserve := false, polled := s.time }
  let s : State := { s with disp := { s.disp with
    count := n, tasks := ins s.disp.tasks n t, queues := upd [] s.disp.queues q fun es => es ++ [e] } }
  (n, if alone then s.push (if t.depva = 0 then .taskPlacement else .dependencePoll q) else s)

/-- One lane's launch: its status and the task number (R252). -/
def State.accept (s : State) (r : LaunchReq) : (Nat × Nat) × State :=
  let q := r.queue.toNat % 64
  if 256 ≤ (look [] s.disp.queues q).length then ((1, 0), s)
  else if r.queue.toNat / 64 ≠ 0 ∨ r.addr.toNat % 64 ≠ 0 then ((2, 0), s)
  else
    let x : XCx := { core := r.who.core, ptroot := r.ptroot, asid := r.asid, user := r.user }
    match s.dispRead x r.addr.toNat 192 with
    | (.error _, s) => ((2, 0), s.launchFailed r r.addr)
    | (.ok bs, s) =>
      match s.parseTask r (ofBytes bs) with
      | none => ((2, 0), s)
      | some t =>
        let memb := dField (ofBytes bs) 0x20 8
        let n := t.nwarps
        match (if memb = 0 then (.ok (List.replicate (4 * n) 0xFF), s) else s.dispRead x memb (4 * n)) with
        | (.error _, s) => ((2, 0), s.launchFailed r (BitVec.ofNat 64 memb))
        | (.ok ms, s) =>
          let t : Task := { t with memb := (List.range n).map fun w => BitVec.ofNat 32 (ofBytes ((ms.drop (4 * w)).take 4)) }
          let t : Task := { t with localGroups := t.locals }
          if !t.groupsOk ∨ !s.placeable t then ((2, 0), s)
          else
            match s.firstUnwritable t.cx t.writes with
            | (some va, s) => ((2, 0), s.launchFailed r va)
            | (none, s) =>
              let (num, s) := s.enqueue q t
              ((0, num), s)

/-- The requests of the LAUNCH at the head, which are served together (R387). -/
def firstLaunch : List LaunchReq → List LaunchReq × List LaunchReq
  | [] => ([], [])
  | r :: rs => (r :: rs.takeWhile (fun r => !r.first), rs.dropWhile fun r => !r.first)

/-- A launching lane receives its status and number. -/
def State.launchAnswer (s : State) (r : LaunchReq) (st num : Nat) : State :=
  if s.holds r.who r.task r.wid then
    s.modWarpOf r.who fun w => w.setLane r.lane
      (((w.lane r.lane).wV r.front r.d (BitVec.ofNat 32 st)).wV r.front (r.d + 1) (BitVec.ofNat 32 num))
  else s

/-- The lanes of a LAUNCH are accepted in their order, and answered. -/
def State.acceptAll (s : State) (rs : List LaunchReq) : State :=
  rs.foldl (fun s r =>
    let ((st, num), s) := s.accept r
    s.launchAnswer r st num) s

/-- The Dispatcher serves the lanes of one LAUNCH (R315, R387), once each of its accesses finds a way (R327). -/
def execLaunchAccept (s : State) : Result :=
  match (if s.fatal then ([], []) else firstLaunch s.disp.reqs) with
  | ([], _) => .next s
  | (r :: rs, rest) =>
    match ({ s with disp := { s.disp with reqs := rest } } : State).attempt 128 fun s => ((), s.acceptAll (r :: rs)) with
    | none => .next s
    | some (_, s) =>
    .next (if s.holds r.who r.task r.wid then s.resultBack r.who r.front (maskOf ((r :: rs).map (·.lane)))
      else { s with draw := s.draw + 1 })

def execLaunch (o : WForm NoMod) (s : State) : Result :=
  runInstr (.launch o) o.g o.lit o.perm { a := some (o.a, .i64), b := some (o.b, .i32) } noDyn (released true .dev true fun x s =>
    if x.act = 0 then { s := s, adv := 0 }
    else if !s.reaches s.cur.who.core 128 then stopAll x .held s
    else
      let s := s.wakeWay s.cur.who.core 128
      let f := s.cur.front
      let low := lowLane x.act
      let reqs := (lanesOf x.act).map fun l =>
        { first := l = low, who := s.cur.who, front := f, lane := l, d := o.d.toNat
          addr := BitVec.ofNat 64 (x.cx.srcA l o.a .i64), queue := BitVec.ofNat 32 (x.cx.srcB l o.b .i32)
          user := !(s.warp.lane l).sv, asid := s.warp.asid, ptroot := s.warp.ptroot, task := s.warp.task, wid := s.warp.wid
          rel := (s.core s.cur.who.core).ct, gate := none : LaunchReq }
      let s : State := { s with disp := { s.disp with reqs := s.disp.reqs ++ reqs } }
      { s := (s.owes x.act).push .launchAccept, adv := x.act }) s

/-! ### Completion words (R253) -/

/-- Four bytes written by an agent of the device with release time t or later, then the wake of their key; false where they
cannot be written. -/
def State.signal (s : State) (x : XCx) (va v t : Nat) : Bool × State :=
  match s.translate x .write va with
  | (.error _, s) => (false, s)
  | (.ok y, s) =>
    if (s.barred y.pa 4).isSome ∨ (s.place y.pa).isControl ∨ (s.place y.pa).isPort then (false, s)
    else
      let pa := s.fwd y.pa
      let (t, s) := s.lineStore (pa / 128) (max t s.agentTime) (offsets (pa % 128) (toBytes 4 v))
      let s : State := { s with poison := clearPoison s.poison pa 4 }
      (true, (s.wakeAt x.asid (BitVec.ofNat 64 va) pa 0 t).2)

/-- The Dispatcher writes a task's completion word, or records that it could not; it owes the word until it finds a way to
it (R327). -/
def State.complete (s : State) (t : Task) (v : Nat) : State :=
  if t.cva = 0 then s
  else
    match s.attempt 128 fun s => s.signal { core := 0, ptroot := t.cvaRoot, asid := t.cvaAsid, user := false } t.cva.toNat v t.rel with
    | some (true, s) => s
    | some (false, s) => s.append { sev := .contained, src := 4, cause := 0x2E, sub := 3, unit := 0, task := t.num }
    | none => { s with disp := { s.disp with owed := s.disp.owed ++ [(t, v)] } }

/-- Completion words that the Dispatcher owes are written, where there is a way now. -/
def State.payOwed (s : State) : State :=
  s.disp.owed.foldl (fun s e => s.complete e.1 e.2) { s with disp := { s.disp with owed := [] } }

def State.modTask (s : State) (num : Nat) (f : Task → Task) : State :=
  { s with disp := { s.disp with tasks := match find s.disp.tasks num with
    | some t => ins s.disp.tasks num (f t) | none => s.disp.tasks } }

/-! ### Dependences and ageing (R49, R316, R317) -/

def State.modHead (s : State) (q : Nat) (f : QEntry → QEntry) : State :=
  { s with disp := { s.disp with queues := upd [] s.disp.queues q fun es =>
    match es with | e :: es => f e :: es | [] => [] } }

/-- The head of a queue leaves it; the entry behind becomes head. -/
def State.popHead (s : State) (q : Nat) : State :=
  let s : State := { s with disp := { s.disp with queues := upd [] s.disp.queues q fun es => es.drop 1 } }
  match look [] s.disp.queues q with
  | e :: _ =>
    if e.dep = .met then (s.modHead q fun e => { e with since := some s.time, rise := s.time }).push .taskPlacement
    else s.push (.dependencePoll q)
  | [] => s

/-- The Gazetteer entry of a queue's dependence is given up. -/
def State.leaveQueueWait (s : State) (q : Nat) : State := s.gazDrop (s.gaz.filter fun g => g.owner == .queue q)

/-- A task that does not run leaves the Dispatcher (R41, R387). -/
def State.failTask (s : State) (q : Nat) (t : Task) (sub : Nat) : State :=
  let s := s.leaveQueueWait q
  let s := s.popHead q
  let s := s.modTask t.num.toNat fun t => { t with st := .done }
  let s := s.append { sev := .contained, src := 4, cause := 0x23, sub := sub, unit := 0, task := t.num, addr := if sub = 0 then t.depva else 0 }
  s.complete t 3

/-- The number of the Gazetteer entry that a queue's dependence has, or would take. -/
def State.queueEntry (s : State) (q : Nat) : Nat :=
  match s.gaz.find? fun g => g.owner == .queue q with
  | some e => e.id
  | none => s.gaz.foldl (fun m e => max m (e.id + 1)) 0

/-- The word at DEPVA as the Dispatcher reads it, with the time that the read acquires. The home of a peer's word compares it
with 0, and keeps a proxy of the queue's entry while it is (R351). -/
def State.depWord (s : State) (q : Nat) (t : Task) : Option (Nat × Nat × Nat) × State :=
  match s.translate t.cx .read t.depva.toNat with
  | (.error _, s) => (none, s)
  | (.ok y, s) =>
    if (s.badData y.pa 4).isSome ∨ (s.place y.pa).isControl ∨ (s.place y.pa).isPort then (none, s)
    else
      let pa := s.fwd y.pa
      if devOf pa ≠ s.devnum then
        let (bs, s) := ((s.invalidateParcel (pa / 2048)).toHome pa (.compare 4 0 (s.queueEntry q))).peerBytes pa 4
        (some (ofBytes bs, s.peerWts (pa / 128), pa), s)
      else
        let (bs, s) := s.homeRead pa 4
        (some (ofBytes bs, (s.l2 (pa / 128)).wts, pa), s)

/-- The head's dependence word is read (R316). -/
def execDependencePoll (queue : Nat) (s : State) : Result :=
  match look [] s.disp.queues queue with
  | [] => .next s
  | e :: _ =>
    match find s.disp.tasks e.task.toNat, e.dep with
    | _, .met => .next s
    | none, _ => .next s
    | some t, _ =>
      match s.attempt 128 fun s => s.depWord queue t with
      | none => .next s
      | some (none, s) => .next (s.failTask queue t 0)
      | some (some (v, time, pa), s) =>
        let s : State := { s with draw := s.draw + 1 }
        if v ≠ 0 then
          let s := s.leaveQueueWait queue
          let s := s.modTask e.task.toNat fun t => { t with rel := max t.rel time }
          .next ((s.modHead queue fun e => { e with dep := .met, since := some s.time, rise := s.time }).push .taskPlacement)
        else
          let die := s.gazDie pa 0
          let g : GazEntry := { die := die, asid := t.asid, va := t.depva, pa := pa, owner := .queue queue, lanes := []
                                id := s.queueEntry queue }
          let s : State := if (s.gaz.any fun g => g.owner == .queue queue) || !s.gazFree die then s else { s with gaz := s.gaz ++ [g] }
          .next (s.modHead queue fun e => { e with dep := .waiting, polled := s.time })

/-- The ticks after which a waiting head reads its word again (R316). -/
def State.pollPeriod (s : State) (q : Nat) : Nat := if s.gaz.any fun g => g.owner == .queue q then 65536 else 4096

/-- A head that has waited 1,048,576 ticks rises a level (R49, R317). -/
def execLaunchQueueAgeing (queue : Nat) (s : State) : Result :=
  match look [] s.disp.queues queue with
  | [] => .next s
  | e :: _ =>
    if e.since.isSome ∧ e.level < 7 ∧ 1048576 ≤ (s.time - e.rise).toNat then
      .next ((s.modHead queue fun e => { e with level := e.level + 1, rise := e.rise + 1048576 }).push .taskPlacement)
    else .next s

/-- A head that was unplaceable for 65,536 ticks reserves (R317 rule 5). -/
def execHeadReserve (queue : Nat) (s : State) : Result :=
  match look [] s.disp.queues queue with
  | e :: _ =>
    match e.fail with
    | some t => .next (if 65536 ≤ (s.time - t).toNat then s.modHead queue fun e => { e with reserve := true } else s)
    | none => .next s
  | [] => .next s

/-! ### Placement (R35, R276, R318) -/

/-- Registers free in partition p of a core: vector and uniform. -/
def Core.freeRegs (c : Core) (p : Nat) : Nat × Nat :=
  let ws := c.slots.filter fun e => e.1 / 8 == p
  (512 - (ws.map fun e => e.2.vAlloc).sum, 512 - (ws.map fun e => e.2.sAlloc).sum)

/-- The lowest free slot of a partition. -/
def Core.freeSlotOf (c : Core) (p : Nat) : Option Nat :=
  ((List.range 8).map (8 * p + ·)).find? fun k => (find c.slots k).isNone

/-- The slot that a warp of v and u registers takes (R318 rule 3). -/
def Core.pickSlot (c : Core) (v u : Nat) : Option Nat :=
  let ok (p : Nat) : Bool := decide (v ≤ (c.freeRegs p).1) && decide (u ≤ (c.freeRegs p).2) && (c.freeSlotOf p).isSome
  match (List.range 32).filter ok with
  | [] => none
  | p :: ps =>
    c.freeSlotOf (ps.foldl (fun b q => if (c.freeRegs b).1 < (c.freeRegs q).1 then q else b) p)

/-- A base for z stash bytes: the lowest multiple of 4 KiB with room below the stash's size. -/
def Core.stashBase (c : Core) (z : Nat) : Option Nat :=
  ((List.range 384).map (4096 * ·)).find? fun b =>
    decide (b + z ≤ c.stashSize) && c.stashRuns.all fun e => decide (e.2.base + e.2.size ≤ b) || decide (b + z ≤ e.2.base)

/-- The task's stash on a core, given once, its bytes 0 (R187, R276). -/
def Core.giveStash (c : Core) (t : Task) : Option Core :=
  match find c.stashRuns t.num.toNat with
  | some _ => some c
  | none =>
    (c.stashBase t.stash).map fun b =>
      { c with
        stashRuns := ins c.stashRuns t.num.toNat ⟨b, t.stash⟩
        stash := c.stash.filter fun e => decide (e.1 < b) || decide (b + t.stash ≤ e.1)
        stashPoison := c.stashPoison.filter fun e => decide (e.1 * 32 < b) || decide (b + t.stash ≤ e.1 * 32) }

/-- A warp of a task as created: every lane at the entry address (R23, R53, R251). -/
def Task.newWarp (t : Task) (w : Nat) : Warp :=
  let lanes := (List.range 32).filter fun l => decide (32 * w + l < t.nlanes)
  let y : Lane := { Lane.absent with st := .runnable, pc := t.entry.extractLsb' 1 63, sv := t.sv }
  { Warp.empty with
    task := t.num, wid := BitVec.ofNat 32 w, vAlloc := 8 * t.vgran, sAlloc := 8 * t.sgran
    lanes := lanes.map fun l => (l, y)
    s := put zeroV (put zeroV [] 0 ⟨t.arg.extractLsb' 0 32, []⟩) 1 ⟨t.arg.extractLsb' 32 32, []⟩
    grp := grpOf (t.memb.getD w 0xFFFFFFFF), ptroot := t.ptroot, asid := t.asid
    ctxbase := (BitVec.ofNat 64 (t.saveBase + 40960 * w)) &&& 0x1FFFFFFFF000, stopping := true }

/-- Warps take their slots on core n; none where one finds no place. -/
def Core.seat (c : Core) (warp : Nat → Warp) : List Nat → Option (Core × List (Nat × Nat))
  | [] => some (c, [])
  | w :: ws =>
    let x := warp w
    match c.pickSlot x.vAlloc x.sAlloc with
    | none => none
    | some k =>
      let c : Core := { c with slots := ins c.slots k x, order := (c.order.filter fun j => j ≠ k) ++ [k] }
      (c.seat warp ws).map fun r => (r.1, (w, k) :: r.2)

/-- A placement under way: the machine so far, and the seats given. -/
structure Placing where
  s : State
  seats : List (Nat × Seat)
  last : Nat

/-- Core n takes a unit (R318 rule 4). Units of a task that resumes share no core, and need their tags free (R69). -/
def State.takeUnit (s : State) (t : Task) (resumed : Bool) (warp : Nat → Warp) (n : Nat) (u : List Nat) : Option (State × List (Nat × Seat)) :=
  let c := s.core n
  let tags := u.foldl (fun m w => m ||| (warp w).town) 0
  if c.retired ∨ (resumed ∧ ((find c.stashRuns t.num.toNat).isSome ∨ tags &&& c.tagUsed ≠ 0)) then none
  else
    match c.giveStash t with
    | none => none
    | some c =>
      (c.seat warp u).map fun r => (s.setCore n { r.1 with tagUsed := r.1.tagUsed ||| tags }, r.2.map fun e => (e.1, ⟨n, e.2⟩))

/-- Units placed one after another over a ring of cores, each search from the core after the last. -/
def placeUnits (t : Task) (resumed : Bool) (warp : Nat → Warp) (base size : Nat) : List (List Nat) → Nat → Placing → Option Placing
  | [], _, p => some p
  | u :: us, from_, p =>
    let ns := (List.range size).map fun i => base + (from_ + i) % size
    match ns.findSome? fun n => (p.s.takeUnit t resumed warp n u).map fun r => (n, r) with
    | none => none
    | some (n, s, seats) =>
      placeUnits t resumed warp base size us ((n - base + 1) % size) { s := s, seats := p.seats ++ seats, last := n }

/-- The placement of R318 for units of warps. -/
def State.placeTask (s : State) (t : Task) (resumed : Bool) (units : List (List Nat)) (warp : Nat → Warp) : Option Placing :=
  let p : Placing := { s := s, seats := [], last := s.disp.ptr }
  match t.place with
  | .any => placeUnits t resumed warp 0 128 units s.disp.ptr p
  | .core => ((List.range 128).map fun i => (s.disp.ptr + i) % 128).findSome? fun n =>
      placeUnits t resumed warp n 1 units 0 p
  | .quadrant => ((List.range 8).map fun i => (s.disp.ptr / 16 + i) % 8).findSome? fun q =>
      placeUnits t resumed warp (16 * q) 16 units (if q = s.disp.ptr / 16 then s.disp.ptr % 16 else 0) p

/-- Entry g of the group table (R40). -/
def Task.groupEntry (t : Task) (seats : Table Seat) (g : Nat) : Nat :=
  let ms := members t.memb g
  if !t.used.getLsbD g ∨ g = 255 then 0
  else
    let loc := t.localGroups.contains g
    let core := match find seats (ms.headD 0) with | some x => x.core | none => 0
    g + 2 ^ 8 + ms.length * 2 ^ 16 + (if loc then 2 ^ 39 else 0) + core * 2 ^ 40 +
      (if loc then 0 else (t.bobase.toNat + 16 * g) % 2 ^ 64 * 2 ^ 64)

/-- Bytes that the Dispatcher writes in a task's address space: false where they cannot be made. -/
def State.dispWrite (s : State) (t : Task) (va : Nat) (bs : List Byte) : Bool × State :=
  match s.translate t.cx .write va with
  | (.error _, s) => (false, s)
  | (.ok y, s) =>
    if (s.barred y.pa bs.length).isSome ∨ (s.place y.pa).isControl ∨ (s.place y.pa).isPort then (false, s)
    else (true, s.devWrite y.pa bs)

/-- The group table and the barrier objects of a placed task (R40, R41, R216). -/
def State.writeGroups (s : State) (t : Task) (seats : Table Seat) : Bool × State :=
  let obj (g : Nat) : BarObj := { BarObj.init with nmem := (members t.memb g).length }
  let gs := (List.range 255).filter fun g => t.used.getLsbD g
  let (ok, s) := gs.foldl (fun (acc : Bool × State) g =>
    if t.localGroups.contains g then
      match find seats ((members t.memb g).headD 0) with
      | some x => (acc.1, acc.2.modCore x.core fun c => { c with bars := put BarObj.init c.bars (barKey t.num g) (obj g) })
      | none => acc
    else if !acc.1 then acc
    else acc.2.dispWrite t ((t.bobase.toNat + 16 * g) % 2 ^ 64) (obj g).bytes) (true, s)
  if !ok ∨ t.gtab = 0 then (ok, s)
  else s.dispWrite t t.gtab.toNat (((List.range 256).map fun g => toBytes 16 (t.groupEntry seats g)).flatten)

/-- An eligible head of a queue. -/
structure Head where
  q : Nat
  level : Nat
  deriving DecidableEq, Repr

/-- A head served before another: the higher level, then the queue nearer to the level's pointer (R317). -/
def State.headBefore (s : State) (a b : Head) : Bool :=
  let far (h : Head) : Nat := (h.q + 64 - look 0 s.disp.rr h.level) % 64
  decide (b.level < a.level) || (a.level == b.level && decide (far a < far b))

def State.insHead (s : State) (h : Head) : List Head → List Head
  | [] => [h]
  | x :: xs => if s.headBefore h x then h :: x :: xs else x :: s.insHead h xs

/-- The eligible heads in the order of R317; below a reserving head's level none. -/
def State.heads (s : State) : List Head :=
  let es : List (Nat × QEntry) := s.disp.queues.filterMap fun e => match e.2 with
    | x :: _ => if x.dep = .met then some (e.1, x) else none
    | [] => none
  let floor : Nat := (es.filter fun e => e.2.reserve).foldl (fun m e => max m e.2.level) 0
  (es.filter fun (e : Nat × QEntry) => decide (floor ≤ e.2.level)).foldl (fun acc e => s.insHead ⟨e.1, e.2.level⟩ acc) []

/-- Drop what a failed placement reserved. -/
def State.unplace (s : State) (t : Task) : State :=
  { s with cores := (s.cores.map fun e => (e.1,
      { e.2 with
        slots := e.2.slots.filter fun w => w.2.task ≠ t.num
        stashRuns := del e.2.stashRuns t.num.toNat
        bars := e.2.bars.filter fun b => b.1 / 256 ≠ t.num.toNat })).filter fun e => e.2 ≠ Core.init }

/-- The head of queue q is placed, if the free resources allow it. -/
def State.placeHead (s : State) (h : Head) : Option State :=
  match look [] s.disp.queues h.q with
  | [] => none
  | e :: _ =>
    match find s.disp.tasks e.task.toNat with
    | none => none
    | some t =>
      (s.placeTask t false (unitsOf t.memb t.localBits) t.newWarp).map fun p =>
        let seats : Table Seat := p.seats.foldl (fun m x => ins m x.1 x.2) []
        let s := seats.foldl (fun s e => s.modRouter (unitRouter e.2.core) fun x => { x with awake := true }) p.s
        match s.writeGroups t seats with
        | (false, s) => (s.unplace t).failTask h.q t 1
        | (true, s) =>
          let s := s.popHead h.q
          let s : State := { s with timesetOpen := false, disp := { s.disp with
            ptr := (p.last + 1) % 128, rr := put 0 s.disp.rr h.level ((h.q + 1) % 64)
            tasks := ins s.disp.tasks t.num.toNat { t with st := .running, warps := seats } } }
          s.push (.taskStart t.num.toNat)

/-- Every warp of a placed task may issue; its cores acquire what the launch released (R253, R319). -/
def execTaskStart (task : Nat) (s : State) : Result :=
  match find s.disp.tasks task with
  | none => .next s
  | some t =>
    if t.st ≠ .running then .next s
    else .next (t.warps.foldl (fun s e =>
      (s.acquire e.2.core t.rel).modWarpOf ⟨e.2.core, .slot e.2.slot⟩ fun w => { w with stopping := false }) s)

/-! ### The end of warps and tasks (R36, R148, R189, R223, R229, R230) -/

/-- A warp's tokens go back to their slices behind its requests, as a release of what it wrote (R229, R305). -/
def State.giveUp (s : State) (n : Nat) (w : Warp) : State :=
  let src : Source := { task := w.task, wid := w.wid, core := none }
  let s := if s.slices.any fun e => e.2.regions.any fun r => r.2.holder == some src then s.backWarp n w else s
  s.slices.foldl (fun s e =>
    if (e.2.regions.any fun r => r.2.holder == some src) || e.2.inq.any fun q => q.src == src then
      s.sendReq e.1 { src := src, core := n, op := .giveUp (s.core n).ct }
    else s) s

/-- Parts written at a base address. -/
def State.writeParts (s : State) (base : Nat) (ps : List (Nat × List Byte)) : State :=
  ps.foldl (fun s e => s.devWrite (base + e.1) e.2) s

/-- The local physical address of core image c of a task. -/
def State.coreImage (s : State) (t : Task) (c : Nat) : Nat :=
  s.devnum * 2 ^ 45 + t.saveBase + 40960 * t.nwarps + c * (151552 + t.stash)

def Task.rankOf (t : Task) (core : Nat) : Option Nat :=
  if t.ranks.contains core then some (t.ranks.findIdx fun n => n = core) else none

def Window.bytes (x : Window) : List Byte :=
  toBytes 8 x.wva ++ toBytes 4 x.len ++ toBytes 4 x.ctl.toNat ++ toBytes 16 0

/-- The core-local groups of which a warp is the lowest member left, with the selector of each (R67). -/
def Task.keepsBars (t : Task) (w : Warp) : List (Nat × Nat) :=
  ((List.range 4).filter fun k => w.groupOk k).filterMap fun k =>
    let g := (w.groupId k).toNat
    let low := (members t.memb g).find? fun i => (find t.warps i).isSome
    if t.localGroups.contains g ∧ low = some w.wid.toNat then some (k, g) else none

/-- The bytes that the homes list of a save area, by address (R67). -/
def State.areaBytes (s : State) (a : Nat) : Table Byte :=
  let in_ (pa : Nat) : Bool := decide (a ≤ pa) && decide (pa < a + 40960)
  let base := a - localOf a
  let lines : List (Nat × L2Line) := (s.slices.map fun e => e.2.lines.filter fun x => in_ (128 * x.1) || in_ (128 * x.1 + 127)).flatten
  let t : Table Byte := ((s.mem.filter fun e => decide (localOf a ≤ e.1) && decide (e.1 < localOf a + 40960)).map fun e => (base + e.1, e.2))
  lines.foldl (fun t x => (List.range 128).foldl (fun t i =>
    if in_ (128 * x.1 + i) then put 0 t (128 * x.1 + i) (look 0 x.2.data i) else t) t) t

/-- What another agent wrote to a save area since DSTOP: the bytes that differ from those that stood there then (R70). -/
def areaDiff (old now : Table Byte) : Table Byte :=
  (now.filter fun e => look 0 old e.1 != e.2) ++ ((old.filter fun e => (find now e.1).isNone).map fun e => (e.1, 0))

/-- Of n bytes at an offset of the save area at a, those that another agent wrote since DSTOP are kept: the save is about to
overwrite them (R70). -/
def State.noteArea (s : State) (key a off n : Nat) : State :=
  let mine (e : Nat × Byte) : Bool := decide (a + off ≤ e.1) && decide (e.1 < a + off + n)
  { s with areaWrites := ((areaDiff (look [] s.areas key) (s.areaBytes a)).filter mine).foldl (fun t e => ins t e.1 e.2) s.areaWrites }

/-- Every warp of the task on the core is saved: the core-local barriers and the core image are written, and the core
is free of the task (R46 steps 5 and 6, R389). -/
def State.saveCore (s : State) (t : Task) (n rank : Nat) : State :=
  let mine := (s.core n).windows.filter fun x => x.task == t.num
  let s := mine.foldl (fun s x => s.backWindow n x) s
  let c := s.core n
  let run := c.run t.num
  let at_ := s.coreImage t rank
  let s := s.writeParts at_ [(0, toBytes 8 (1 + 256 * mine.length)), (8, toBytes 8 t.stash)]
  let s := s.writeParts at_ (mine.zipIdx.map fun e => (0x100 + 32 * e.2, e.1.bytes))
  let s := s.devWrite (at_ + 0x25000) (getBytes c.stash run.base run.size)
  let s := ((List.range (run.size / 32)).filter fun k => (find c.stashPoison (run.base / 32 + k)).isSome).foldl
    (fun s k => { s with poison := markPoison s.poison ((at_ + 0x25000) / 32 + k) }) s
  let s := t.warps.foldl (fun s e =>
    match find s.saved (savedKey t.num (BitVec.ofNat 32 e.1)) with
    | some x =>
      if e.2.core = n then (t.keepsBars x.w).foldl (fun s kg =>
        (s.noteArea (savedKey t.num (BitVec.ofNat 32 e.1)) (saveAddr s x.w.ctxbase) (0x40 + 16 * kg.1) 16).devWrite (saveAddr s x.w.ctxbase + 0x40 + 16 * kg.1) (look BarObj.init c.bars (barKey t.num kg.2)).bytes) s
      else s
    | none => s) s
  let s : State := { s with
    savedWins := put [] s.savedWins (256 * t.num.toNat + rank) (mine.map fun x => { x with entries := [] })
    savedBars := c.bars.foldl (fun m e => if e.1 / 256 = t.num.toNat then ins m e.1 e.2 else m) s.savedBars }
  s.modCore n fun c =>
    { c with
      windows := c.windows.filter fun x => x.task != t.num
      stashRuns := del c.stashRuns t.num.toNat
      bars := c.bars.filter fun e => e.1 / 256 ≠ t.num.toNat }

/-- No warp of the task is left on the core: its windows are written back and go (R189, R192); where it stops and
warps of it were saved there, they go to the core image (R46). -/
def State.leaveCore (s : State) (n : Nat) (task : Word) : State :=
  let kept (t : Task) (e : Nat × Seat) : Bool := (find s.saved (savedKey t.num (BitVec.ofNat 32 e.1))).isSome
  if (s.core n).slots.any fun e => e.2.task == task then s
  else
    match find s.disp.tasks task.toNat with
    | some t =>
      if t.warps.any fun e => e.2.core == n && kept t e then
        s.saveCore { t with warps := t.warps.filter fun e => e.2.core != n || kept t e } n ((t.rankOf n).getD 0)
      else ((s.core n).windows.filter fun x => x.task == task).foldl (fun s x => s.unmap n x) s
    | none => ((s.core n).windows.filter fun x => x.task == task).foldl (fun s x => s.unmap n x) s

/-- The task is Done: stash, barriers and regions go, and CVA receives 1 (R36, R230, R253). -/
def State.endTask (s : State) (t : Task) : State :=
  let s := (s.unplace t).endRegions t.num
  let s := s.modTask t.num.toNat fun t => { t with st := .done }
  (s.complete t 1).push .taskPlacement

/-- A Stopping task whose warps are all saved is Saved (R45). -/
def State.savedAll (s : State) (t : Task) : Bool :=
  t.warps.all fun e => (find s.saved (savedKey t.num (BitVec.ofNat 32 e.1))).isSome

def State.checkSaved (s : State) (num : Nat) : State :=
  match find s.disp.tasks num with
  | none => s
  | some t =>
    if t.st = .stopping ∧ t.warps ≠ [] ∧ s.savedAll t then
      let s := s.unplace t
      let s := s.modTask num fun t => { t with st := .saved }
      (s.complete t 2).push .taskPlacement
    else s

/-- A warp without lanes, its results written, gives its slot up (R36, R148). -/
def execWarpSlotFree (core slot : Nat) (s : State) : Result :=
  let who : Who := ⟨core, .slot slot⟩
  let w := s.warpOf who
  if w = Warp.empty ∨ !w.dead ∨ !w.drained then .next s
  else
    let s := (s.leaveGroups core w).giveUp core w
    let s := s.modCore core fun c => (c.dropTags w.town).setWarp (.slot slot) Warp.empty
    let s := s.leaveCore core w.task
    let num := w.task.toNat
    let s := s.modTask num fun t => { t with warps := del t.warps w.wid.toNat, rel := max t.rel (s.core core).ct }
    match find s.disp.tasks num with
    | none => .next s
    | some t => .next (if t.warps = [] then s.endTask t else (s.checkSaved num).push .taskPlacement)

end Sys2Proof.Machine
end

