-- ==== Sys2Proof/Machine/Save.lean ====
section
/-! DEFINITION. Pre-emption: stopping, saving and resuming tasks (R44–R48, R67–R70, R232, R254, R388–R393, R405). -/

namespace Sys2Proof.Machine

/-! ### The save image of a warp (R67, R68, R385) -/

def LaneSt.code : LaneSt → Nat
  | .absent => 0 | .runnable => 1 | .waiting => 2 | .exited => 3

/-- The detail of a lane's wait (R68). -/
def Warp.waitDetail (w : Warp) (y : Lane) : List Byte :=
  match y.wait with
  | .sysc t _ => toBytes 4 t.toNat ++ toBytes 8 0
  | .join _ =>
    match find w.joins y.pc.toNat with
    | some r => toBytes 4 r.mask.toNat ++ toBytes 8 (match r.deadline with | some d => d.toNat | none => 0)
    | none => toBytes 12 0
  | .barrier k _ _ => toBytes 12 k.toNat
  | .twait m all => toBytes 8 m.toNat ++ toBytes 4 (if all then 1 else 0)
  | .gaz d _ => toBytes 8 d.toNat ++ toBytes 4 0
  | .faultq x => toBytes 4 x.toNat ++ toBytes 8 0
  | _ => toBytes 12 0

/-- The value a settled register holds. -/
def regVal (t : Table VReg) (i : Nat) : Nat := (look zeroV t i).val.toNat

/-- The 64 bytes of a lane record. -/
def Warp.laneBytes (w : Warp) (l : Nat) : List Byte :=
  let y := w.lane l
  toBytes 8 (2 * y.pc.toNat + (if y.sv then 1 else 0)) ++ toBytes 4 (LaneSt.code y.st + 16 * y.wait.kind) ++
    toBytes 2 (min y.age 65535) ++ toBytes 2 0 ++ toBytes 8 y.tpc.val.toNat ++ toBytes 4 y.tcause.val.toNat ++
    ((List.range 3).map fun i => toBytes 4 (regVal y.tword i)).flatten ++
    ((List.range 3).map fun i => toBytes 4 (regVal y.top i)).flatten ++ w.waitDetail y

/-- Predicate i of every lane. -/
def Warp.predMask (w : Warp) (i : Nat) : Mask :=
  if i = 7 then BitVec.allOnes 32 else maskOf ((List.range 32).filter fun l => (look zeroP (w.lane l).p i).val)

/-- A register of every lane, 4 bytes each. -/
def Warp.laneWords (w : Warp) (f : Lane → Nat) : List Byte :=
  ((List.range 32).map fun l => toBytes 4 (f (w.lane l))).flatten

/-- The parts of a save area by offset (R67); the core writes these and leaves the rest as it stands (R69). -/
def SavedWarp.image (x : SavedWarp) (bars : List (Nat × List Byte)) (progress : List (Nat × List Byte)) :
    List (Nat × List Byte) :=
  let w := x.w
  [(0x0000, toBytes 8 (1 + w.vAlloc / 8 * 256 + w.sAlloc / 8 * 65536)),
   (0x0008, toBytes 4 w.tilepart.toNat ++ toBytes 4 w.fmode.toNat),
   (0x0010, toBytes 8 ((if w.last = some .user then 1 else 0) + w.user.spin % 512 * 2 ^ 16 + w.sup.spin % 512 * 2 ^ 32)),
   (0x0018, toBytes 8 (2 * w.user.spinAddr.toNat) ++ toBytes 8 (2 * w.sup.spinAddr.toNat)),
   (0x0028, toBytes 8 w.town.toNat), (0x0030, toBytes 8 x.tdone.toNat), (0x0038, toBytes 8 x.cts),
   (0x0080, ((List.range 4).map fun k => match find w.phases k with
      | some r => toBytes 8 (r.phase.toNat + (if r.pw then 2 ^ 16 else 0)) | none => toBytes 8 0).flatten)] ++
  bars.map (fun e => (0x0040 + 16 * e.1, e.2)) ++
  (List.range 32).map (fun l => (recOff l, w.laneBytes l)) ++
  [(0x0900, ((List.range 8).map fun i => toBytes 4 (w.predMask i).toNat).flatten)] ++
  (List.range w.sAlloc).map (fun i => (0x0A00 + 4 * i, toBytes 4 (regVal w.s i))) ++
  (List.range 8).map (fun i => (0x0B00 + 16 * i, toBytes 16 (look zeroD w.t i).val.toNat)) ++
  (List.range 16).map (fun i => (0x0B80 + 16 * i, toBytes 16 (look zeroD w.a i).val.toNat)) ++
  (List.range 16).map (fun i => (0x1000 + 128 * i, w.laneWords fun y => regVal y.x i)) ++
  progress.map (fun e => (0x1800 + 32 * e.1, e.2)) ++
  (List.range w.vAlloc).map (fun i => (0x2000 + 128 * i, w.laneWords fun y => regVal y.v i))

/-! ### Core images and engine records (R389, R390) -/

def RunKind.code : RunKind → Nat
  | .mloop _ => 1 | .copy _ => 2 | .mcast _ => 3

def Run.progress (r : Run) (rank : Nat) : List Byte :=
  toBytes 4 (r.kind.code + 256 * rank) ++ toBytes 4 r.prog ++ toBytes 8 r.addr.toNat ++ toBytes 16 0

/-- The engine block of a run whose values, if any stand, go to run slot q (R390). -/
def Run.block (r : Run) (t : Task) (q : Nat) : List Byte :=
  toBytes 12 r.words.toNat ++ toBytes 4 r.c.toNat ++ toBytes 8 r.a.toNat ++ toBytes 8 r.b.toNat ++ toBytes 16 r.ti.toNat ++
    toBytes 16 r.ti1.toNat ++ toBytes 16 r.ai.toNat ++ toBytes 4 ((if r.rv then 2 ^ 31 else 0) + q) ++ toBytes 12 0 ++
    ((List.range 16).map fun x => toBytes 4 (r.next.getD x 0)).flatten ++
    (List.range 16).map fun x => BitVec.ofNat 8 (match (r.recv.getD x none).bind t.rankOf with | some k => k | none => 0xFF)

/-- Key of a saved run. -/
def runKey (r : Run) (tag : Nat) : Nat := 64 * savedKey r.task r.wid + tag

/-- The run slot of a run: its quarter's, or where a saved run of the task has taken that on this core, another one that
is free (R391). -/
def State.runSlot (s : State) (t : Task) (core : Nat) (r : Run) : Nat :=
  let used := (s.savedRuns.filter fun e => e.2.rv && e.2.task == t.num &&
    (find t.warps e.2.wid.toNat).any fun x => x.core == core).map fun e => e.2.quarter
  if !r.rv then r.quarter else ((r.quarter :: List.range 4).find? fun q => !used.contains q).getD r.quarter

/-- A run of core `core` is saved: its engine block, its run slot, and what no image holds of it (R390, R391). -/
def State.saveRun (s : State) (t : Task) (core rank tag : Nat) (r : Run) : State :=
  let at_ := s.coreImage t rank
  let q := s.runSlot t core r
  let s := s.devWrite (at_ + 0x1000 + 256 * tag) (r.block t q)
  let s := if r.rv then s.devWrite (at_ + 0x5000 + 0x8000 * q) (r.acc.map fun x => toBytes 4 x.toNat).flatten else s
  { s with savedRuns := ins s.savedRuns (runKey r tag) { r with quarter := q } }

/-! ### Stopping (R44, R46, R254) -/

def insNat (x : Nat) (xs : List Nat) : List Nat := if xs.contains x then xs else xs ++ [x]

/-- A core's warp stops issuing. -/
def State.stopWarp (s : State) (x : Seat) : State :=
  let who : Who := ⟨x.core, .slot x.slot⟩
  let w := s.warpOf who
  let s : State := { s with areas := ins s.areas (savedKey w.task w.wid) (s.areaBytes (saveAddr s w.ctxbase)) }
  (s.modWarpOf who fun w => { w with stopping := true }).push (.warpSave x.core x.slot)

/-- The cores of a task in the order of the lowest warp that each holds, dead warps apart: these free their slots and are
never saved (R148, R389). -/
def State.ranksOf (s : State) (t : Task) : List Nat :=
  (t.warps.filter fun e => !(s.warpOf ⟨e.2.core, .slot e.2.slot⟩).dead).foldl (fun r e => insNat e.2.core r) []

/-- One DSTOP: its status (R254). -/
def State.dstop (s : State) (num : Nat) : Nat × State :=
  match find s.disp.tasks num with
  | none => (1, s)
  | some t =>
    if !t.pre then (2, s)
    else if t.st ≠ .running then (3, s)
    else
      let s := s.modTask num fun t => { t with st := .stopping, ranks := s.ranksOf t }
      (0, t.warps.foldl (fun s e => s.stopWarp e.2) s)

/-- One DRESUME: its status. -/
def State.dresume (s : State) (num : Nat) : Nat × State :=
  match find s.disp.tasks num with
  | none => (1, s)
  | some t =>
    if !t.pre then (2, s)
    else if t.st ≠ .saved then (3, s)
    else
      let s := s.modTask num fun t => { t with st := .resuming }
      (0, ({ s with disp := { s.disp with resume := s.disp.resume ++ [t.num] } } : State).push .taskPlacement)

def taskBody (f : State → Nat → Nat × State) (o : WForm NoMod) (x : Issue) (s : State) : Done :=
  (laneLoop x (fun l s =>
    let (st, s) := f s (x.cx.srcA l o.a .i32)
    (none, s.modLane l fun y => y.wV x.cx.front o.d.toNat (BitVec.ofNat 32 st))) s).returns

def execDstop (o : WForm NoMod) (s : State) : Result :=
  runInstr (.dstop o) o.g o.lit o.perm { a := some (o.a, .i32) } noDyn (taskBody State.dstop o) s
def execDresume (o : WForm NoMod) (s : State) : Result :=
  runInstr (.dresume o) o.g o.lit o.perm { a := some (o.a, .i32) } noDyn (taskBody State.dresume o) s

/-! ### Saving a warp (R46, R67, R391, R392, R405) -/

/-- A run that runs to completion before its warp is saved: one on a bus, or an MLOOP behind its last step (R46, R392). -/
def Run.unstoppable (r : Run) : Bool :=
  match r.kind with
  | .mloop o => (tileD r.ti).src != 0 || decide (o.km1.toNat < r.prog)
  | .mcast o => o.bus
  | .copy _ => false

/-- The runs of a warp on a core. -/
def Core.runsOf (c : Core) (w : Warp) : Table Run := c.runs.filter fun e => e.2.task == w.task && e.2.wid == w.wid

/-- A MACQ not yet granted is abandoned (R232). -/
def State.dropMacq (s : State) (who : Who) (f : Front) : State :=
  match ((s.warpOf who).front f).hold with
  | .macq h line =>
    let s := s.modRegion h line fun r => { r with waiting := r.waiting.filter fun q => !(q.who == who && q.front == f) }
    s.modWarpOf who fun w => w.setFront f { w.front f with hold := .none }
  | _ => s

/-- Faults of the warp that wait for a slot leave the admission list (R402). -/
def Core.dropFaults (c : Core) (w : Warp) : Core :=
  { c with fqWait := c.fqWait.filter fun f => match f.who with
      | .lane _ t i _ _ => !(t == w.task && i == w.wid) | .run _ _ _ | .part _ _ _ _ _ => true }

/-- The warp's runs have stopped, but for one that goes on regardless: they leave the entries in which they wait (R46 step 3,
R405). -/
def State.dropRuns (s : State) (w : Warp) : State :=
  s.onCores fun c =>
    let mine (f : FaultRec) : Bool := match f.who with
      | .run tag t i => t == w.task && i == w.wid && !((find c.runs tag).any Run.unstoppable)
      | .part _ _ _ t i => t == w.task && i == w.wid
      | .lane _ _ _ _ _ => false
    { c with fqWait := c.fqWait.filter fun f => !mine f
             fq := c.fq.map fun e => (e.1, { e.2 with waits := e.2.waits.filter fun f => !mine f }) }

/-- The warp may be saved: its results are in, and no run of it goes on regardless. -/
def State.saveReady (s : State) (who : Who) : Bool :=
  let w := s.warpOf who
  w.stopping && w.drained && w.user.hold != .waymask && w.sup.hold != .waymask &&
    !((s.core who.core).runsOf w).any fun e => e.2.unstoppable

/-- A stopping warp whose results are in is saved (R46 steps 3 to 6). -/
def execWarpSave (core slot : Nat) (s : State) : Result :=
  let who : Who := ⟨core, .slot slot⟩
  let w := s.warpOf who
  match find s.disp.tasks w.task.toNat with
  | none => .next s
  | some t =>
    if t.st ≠ .stopping ∨ w = Warp.empty ∨ !w.stopping ∨ !w.drained then .next s
    else if !s.saveReady who then .next (s.dropRuns w)
    else if w.dead then .next (s.push (.warpSlotFree core slot))
    else
      let s := ((s.dropRuns w).dropMacq who .user).dropMacq who .sup
      let w := ((s.warpOf who).settle .user s.draw).settle .sup s.draw
      let w : Warp := { w with
        user := { w.user with parked := w.user.parked && w.outstanding .user, entry := 0 }
        sup := { w.sup with parked := w.sup.parked && w.outstanding .sup, entry := 0 } }
      let c := (s.core core).dropFaults w
      let rank := (t.rankOf core).getD 0
      let runs := (c.runsOf w).map fun e => (e.1, { e.2 with held := false, heldAt := [], drop := c.tagDrop.getLsbD e.1 })
      let x : SavedWarp := { w := w, cts := c.ct, tdone := c.tagbits &&& w.town, acq := 0 }
      let s := s.setCore core c
      let at_ := saveAddr s w.ctxbase
      let key := savedKey w.task w.wid
      let s := (s.noteArea key at_ 0 40960).writeParts at_ (x.image [] (runs.map fun e => (e.1, e.2.progress rank)))
      let s := runs.foldl (fun s e => s.saveRun t core rank e.1 e.2) s
      let s : State := { s with saved := ins s.saved (savedKey w.task w.wid) x, draw := s.draw + 1 }
      let s := s.modCore core fun c =>
        let c : Core := { c with runs := c.runs.filter fun e => !(e.2.task == w.task && e.2.wid == w.wid) }
        let c := ((List.range 64).filter fun n => w.town.getLsbD n).foldl (fun c n => c.freeTag n) c
        c.setWarp (.slot slot) Warp.empty
      let s := ((runs.filter fun e => e.2.isMloop).foldl (fun s e => s.freeQuarter core e.2) s).kickWays
      let s := if (s.core core).slots.any fun e => e.2.task == w.task then s else s.saveCore t core rank
      .next (s.checkSaved t.num.toNat)

/-! ### Resuming (R45, R48, R67–R70) -/

/-- n bytes of a save area as a number: for each byte the saved one, the one that stands there, or one written between DSTOP
and the save, freely (R70). -/
def State.mixed (s : State) (at_ n old : Nat) : Nat × State :=
  let (bs, s) := s.devRead at_ n
  (ofBytes (bs.zipIdx.map fun e =>
    let o : Byte := BitVec.ofNat 8 (old / 256 ^ e.2)
    let xs := (if o = e.1 then [] else [e.1]) ++ (find s.areaWrites (at_ + e.2)).toList
    if xs = [] then o else pickFrom (Config.choice s.draw (900000 + (at_ + e.2) % 65536)) o xs), s)

/-- Words at a stride of a save area, each mixed with what was saved. -/
def State.mixedWords (s : State) (at_ stride : Nat) (old : Nat → Nat) : Nat → Table VReg × State
  | 0 => ([], s)
  | n + 1 =>
    let (t, s) := s.mixedWords at_ stride old n
    let (x, s) := s.mixed (at_ + stride * n) 4 (old n)
    (put zeroV t n ⟨BitVec.ofNat 32 x, []⟩, s)

def State.mixedDescs (s : State) (at_ : Nat) (mask : Desc128) (old : Nat → Nat) : Nat → Table DReg × State
  | 0 => ([], s)
  | n + 1 =>
    let (t, s) := s.mixedDescs at_ mask old n
    let (x, s) := s.mixed (at_ + 16 * n) 16 (old n)
    (put zeroD t n ⟨BitVec.ofNat 128 x &&& mask, []⟩, s)

/-- The wait of a restored lane, by the kind and detail that the image gives (R68, R385). Field D of the waiting instruction, which
no image holds, stays as it was; a lane that the image alone makes wait writes a free register. -/
def Wait.restored (old : Wait) (free kind detail : Nat) : Wait :=
  let d := match old with
    | .sysc _ d | .join d | .gaz _ d => d
    | _ => BitVec.ofNat 8 free
  match kind with
  | 1 => .sysc (BitVec.ofNat 32 detail) d
  | 2 => .sysFull
  | 3 => .join d
  | 4 => match old with
    | .barrier _ v again => .barrier (BitVec.ofNat 2 detail) v again
    | _ => .barrier (BitVec.ofNat 2 detail) Option.none false
  | 5 => .twait (BitVec.ofNat 64 detail) (detail.testBit 64)
  | 6 => .gaz (BitVec.ofNat 64 detail) d
  | 7 => .faultq (BitVec.ofNat 32 detail)
  | 8 => .stopped
  | _ => .none

/-- A lane that issues its instruction again after resumption (R68). -/
def Wait.reissues : Wait → Bool
  | .sysFull => true
  | .faultq x => x == 0
  | _ => false

/-- A lane as restored, and the detail of its wait. -/
def State.restoreLane (s : State) (at_ : Nat) (w : Warp) (preds : Table Nat) (l : Nat) : Lane × Nat × State :=
  let y := w.lane l
  let (st, s) := s.mixed (at_ + recOff l + 8) 4 (LaneSt.code y.st + 16 * y.wait.kind)
  if st % 4 = 0 then (Lane.absent, 0, s)
  else
    let (pc, s) := s.mixed (at_ + recOff l) 8 (2 * y.pc.toNat + (if y.sv then 1 else 0))
    let (age, s) := s.mixed (at_ + recOff l + 12) 2 (min y.age 65535)
    let (tpc, s) := s.mixed (at_ + recOff l + 16) 8 y.tpc.val.toNat
    let (tc, s) := s.mixed (at_ + recOff l + 24) 4 y.tcause.val.toNat
    let (tw, s) := s.mixedWords (at_ + recOff l + 28) 4 (regVal y.tword) 3
    let (tp, s) := s.mixedWords (at_ + recOff l + 40) 4 (regVal y.top) 3
    let (det, s) := s.mixed (at_ + recOff l + 52) 12 (ofBytes (w.waitDetail y))
    let (v, s) := s.mixedWords (at_ + 0x2000 + 4 * l) 128 (regVal y.v) w.vAlloc
    let (x, s) := s.mixedWords (at_ + 0x1000 + 4 * l) 128 (regVal y.x) 16
    ({ st := if st % 4 = 1 then .runnable else if st % 4 = 2 then .waiting else .exited
       wait := if st % 4 = 2 then y.wait.restored (Config.choice s.draw (980000 + l)) (st / 16 % 16) det else .none
       pc := BitVec.ofNat 63 (pc / 2), sv := decide (pc % 2 = 1), age := if age = min y.age 65535 then y.age else age
       tpc := ⟨BitVec.ofNat 64 tpc, []⟩, tcause := ⟨BitVec.ofNat 32 tc &&& 0xFFFF, []⟩, tword := tw, top := tp, v := v, x := x
       p := (List.range 7).foldl (fun t i => put zeroP t i ⟨(look 0 preds i).testBit l, []⟩) [] }, det, s)

/-- The words of the predicates as restored. -/
def State.restorePreds (s : State) (at_ : Nat) (w : Warp) : Table Nat × State :=
  (List.range 7).foldl (fun acc i =>
    let (m, s) := acc.2.mixed (at_ + 0x900 + 4 * i) 4 (w.predMask i).toNat
    (put 0 acc.1 i m, s)) ([], s)

/-- The lanes of a warp as restored, and the details of their waits. -/
def State.restoreLanes (s : State) (at_ : Nat) (w : Warp) (preds : Table Nat) : Nat → Table Lane × Table Nat × State
  | 0 => ([], [], s)
  | n + 1 =>
    let (t, ds, s) := s.restoreLanes at_ w preds n
    let (y, d, s) := s.restoreLane at_ w preds n
    (put Lane.absent t n y, put 0 ds n d, s)

/-- The join records that the lanes waiting in JOIN stand for, one for each address; a record that is complete releases
them (R68, R147). The length of a JOIN is that of the record saved, or free. -/
def Warp.rebuildJoins (free : Nat) (det : Table Nat) (w : Warp) : Warp :=
  let joins := (List.range 32).foldl (fun (m : Table JoinRec) l =>
    let pc := (w.lane l).pc.toNat
    if !w.waitsAt pc l ∨ (find m pc).isSome then m
    else
      let d := look 0 det l
      ins m pc
        { mask := BitVec.ofNat 32 d
          len := match find w.joins pc with | some r => r.len | none => if free % 2 = 0 then 8 else 12
          deadline := if d / 2 ^ 32 = 0 then none else some (BitVec.ofNat 64 (d / 2 ^ 32)) }) []
  ({ w with joins := joins }).joinCheck

/-- Lanes whose wait was for an issue that never came about issue their instruction again (R68). -/
def Warp.reissue (w : Warp) : Warp :=
  (List.range 32).foldl (fun w l =>
    if (w.lane l).st = .waiting ∧ (w.lane l).wait.reissues then w.joinFront l (w.lane l) else w) w

/-- TSZ as a write stores it (R32). -/
def tileSize (x : Nat) : Word := if 1 ≤ x % 8 ∧ x % 8 ≤ 5 then BitVec.ofNat 32 (x % 8) else 5

/-- A front's spin counter and branch address as restored. -/
def FrontSt.respin (n va : Nat) (x : FrontSt) : FrontSt :=
  if n = x.spin % 512 ∧ va = 2 * x.spinAddr.toNat then x else { x with spin := n, spinAddr := BitVec.ofNat 63 (va / 2) }

/-- The barrier phases of a warp as restored. -/
def State.restorePhases (s : State) (at_ : Nat) (w : Warp) : Table PhaseRec × State :=
  (List.range 4).foldl (fun acc k =>
    let old := match find w.phases k with | some r => r.phase.toNat + (if r.pw then 2 ^ 16 else 0) | none => 0
    let (x, s) := acc.2.mixed (at_ + 0x80 + 8 * k) 8 old
    (if x = old then acc.1 else ins acc.1 k { phase := BitVec.ofNat 16 x, pw := x.testBit 16 }, s)) (w.phases, s)

/-- A warp's image restored; what the Dispatcher knows of a warp comes from the task (R69). -/
def State.restoreWarp (s : State) (t : Task) (x : SavedWarp) : Warp × State :=
  let w := x.w
  let at_ := saveAddr s w.ctxbase
  let (tp, s) := s.mixed (at_ + 8) 4 w.tilepart.toNat
  let (fm, s) := s.mixed (at_ + 12) 4 w.fmode.toNat
  let old := (if w.last = some .user then 1 else 0) + w.user.spin % 512 * 2 ^ 16 + w.sup.spin % 512 * 2 ^ 32
  let (sp, s) := s.mixed (at_ + 0x10) 8 old
  let (ua, s) := s.mixed (at_ + 0x18) 8 (2 * w.user.spinAddr.toNat)
  let (sa, s) := s.mixed (at_ + 0x20) 8 (2 * w.sup.spinAddr.toNat)
  let (ph, s) := s.restorePhases at_ w
  let (preds, s) := s.restorePreds at_ w
  let (lanes, det, s) := s.restoreLanes at_ w preds 32
  let (sr, s) := s.mixedWords (at_ + 0xA00) 4 (regVal w.s) w.sAlloc
  let (tr, s) := s.mixedDescs (at_ + 0xB00) tileMask (fun i => (look zeroD w.t i).val.toNat) 8
  let (ar, s) := s.mixedDescs (at_ + 0xB80) accMask (fun i => (look zeroD w.a i).val.toNat) 16
  let last := if sp % 2 = old % 2 then w.last else if sp % 2 = 1 then some .user else some .sup
  let w : Warp := { w with
    grp := grpOf (t.memb.getD w.wid.toNat 0xFFFFFFFF), ptroot := t.ptroot, asid := t.asid
    last := last, user := w.user.respin (sp / 2 ^ 16 % 512) ua, sup := w.sup.respin (sp / 2 ^ 32 % 512) sa, phases := ph
    tilepart := tileSize tp, fmode := BitVec.ofNat 32 fm &&& 0x1F0F, lanes := lanes, s := sr, t := tr, a := ar, stopping := false }
  ((w.rebuildJoins (Config.choice s.draw 979999) det).reissue, s)

/-- The instruction of an engine block, where its words are one of an engine. -/
def engineKind (words : BitVec 96) : Option RunKind :=
  match decode words with
  | .ok (.mloop o) => some (.mloop o)
  | .ok (.copy o) => some (.copy o)
  | .ok (.mcast o) => some (.mcast o)
  | _ => none

/-- What no image holds of a run: that of the run saved, else of one just issued by the warp. -/
def Run.fresh (w : Warp) (kind : RunKind) : Run :=
  { kind := kind, slot := 0, task := w.task, wid := w.wid, asid := w.asid, ptroot := w.ptroot, user := false, addr := 0
    words := 0, a := 0, b := 0, c := 0, ti := 0, ti1 := 0, ai := 0
    bar := match kind with | .mloop _ => none | .copy o => w.barOf o.be o.bsel | .mcast o => w.barOf o.be o.bsel
    wins := [], frag := [], snap := none, ents := [], prog := 0, next := [], recv := [], acc := [], bad := false
    quarter := 0, base := 0, started := false, rv := false, seq := 0, held := false, owed := 0, old := [], grp := w.grp, ahead := [], drop := false }

/-- The run values that a resumed MLOOP goes on from (R391). -/
def State.slotAcc (s : State) (base : Nat) (rv : Bool) (q : Nat) : RunKind → List Word × State
  | .mloop o =>
    let n := mloopM o.shape * mloopN o.shape
    if rv then
      let (bs, s) := s.devRead (base + 0x5000 + 0x8000 * q) (4 * n)
      ((List.range n).map fun i => BitVec.ofNat 32 (ofBytes ((bs.drop (4 * i)).take 4)), s)
    else (List.replicate n 0, s)
  | _ => ([], s)

/-- The run of a pending tag resumes at its recorded step or element: from its progress record, its engine block and its
run slot (R48, R390, R391). -/
def State.resumeRun (s : State) (t : Task) (seat : Seat) (w : Warp) (tag : Nat) : State :=
  let kept : Option Run := find s.savedRuns (64 * savedKey w.task w.wid + tag)
  let at_ := saveAddr s w.ctxbase + 0x1800 + 32 * tag
  let rank := (t.rankOf seat.core).getD 0
  let (rec_, s) := match kept with
    | some r => s.mixed at_ 32 (ofBytes (r.progress rank))
    | none => s.readNat at_ 32
  let base := s.coreImage t (bitsN rec_ 15 8)
  let (bs, s) := s.devRead (base + 0x1000 + 256 * tag) 256
  let f (off n : Nat) : Nat := dField (ofBytes bs) off n
  let words := BitVec.ofNat 96 (f 0 12)
  match (engineKind words).or (kept.map fun r => r.kind) with
  | none => s
  | some kind =>
    let rv := decide (f 0x50 4 / 2 ^ 31 = 1)
    let (acc, s) := s.slotAcc base rv (f 0x50 4 % 4) kind
    let wins := ((s.core seat.core).windows.filter fun x => x.task == w.task).map (·.soff)
    let r : Run := { kept.getD { Run.fresh w kind with wins := wins } with
      kind := kind, slot := seat.slot, quarter := seat.slot / 64 % 4, base := ((s.core seat.core).run w.task).base, words := words, addr := BitVec.ofNat 64 (bitsN rec_ 127 64)
      c := BitVec.ofNat 64 (f 0x0C 4), a := BitVec.ofNat 64 (f 0x10 8), b := BitVec.ofNat 64 (f 0x18 8)
      ti := BitVec.ofNat 128 (f 0x20 16), ti1 := BitVec.ofNat 128 (f 0x30 16), ai := BitVec.ofNat 128 (f 0x40 16)
      prog := bitsN rec_ 63 32, rv := rv, acc := acc, next := (List.range 16).map fun x => f (0x60 + 4 * x) 4
      recv := (List.range 16).map fun x => (t.ranks[f (0xA0 + x) 1]?).filter (· < 128)
      started := false, snap := none, ents := [], drop := false
      copies := kind.isMcast }
    (s.modCore seat.core fun c => { c with runs := ins c.runs tag r }).push (r.goOn seat.core tag)

/-- The waits of a restored warp whose event has come: barriers whose phase went by (R68, R219). -/
def State.restoreBars (s : State) (who : Who) : State :=
  (List.range 4).foldl (fun s k =>
    let w := s.warpOf who
    match w.groupOk k, find w.phases k with
    | true, some r =>
      let g := (w.groupId k).toNat
      match s.barGet who.core (s.barRef who.core w false g) true with
      | (.error _, s) => s
      | (.ok (b, _), s) => if b.phase = r.phase then s else s.modWarpOf who fun w => w.barRelease b g r.phase
    | _, _ => s) s

/-- One warp comes back in its seat (R47, R48, R67). -/
def State.resumeWarp (s : State) (t : Task) (wid : Nat) (seat : Seat) : State :=
  let key := savedKey t.num (BitVec.ofNat 32 wid)
  match find s.saved key with
  | none => s
  | some x =>
    let who : Who := ⟨seat.core, .slot seat.slot⟩
    let (w, s) := s.restoreWarp t x
    let (td, s) := s.mixed (saveAddr s w.ctxbase + 0x30) 8 x.tdone.toNat
    let tdone := BitVec.ofNat 64 td &&& w.town
    let (cts, s) := s.mixed (saveAddr s w.ctxbase + 0x38) 8 x.cts
    let pending := (List.range 64).filter fun n => w.town.getLsbD n && !tdone.getLsbD n
    let drops := pending.foldl (fun m n => match find s.savedRuns (64 * key + n) with
      | some r => if r.drop then m ||| bitOf n else m | none => m) (0 : BitVec 64)
    let s := s.modCore seat.core fun c =>
      let c : Core := { c with
        ct := max c.ct (max cts x.acq), tagUsed := c.tagUsed ||| w.town, tagbits := (c.tagbits &&& ~~~w.town) ||| tdone
        tagDrop := c.tagDrop ||| drops }
      c.setWarp (.slot seat.slot) w
    let s := pending.foldl (fun s n => s.resumeRun t seat w n) s
    let s : State := { s with saved := del s.saved key, savedRuns := s.savedRuns.filter fun e => e.1 / 64 ≠ key }
    s.restoreBars who

/-- A window that a core image names: as it was mapped where the image is unchanged, else as STMAP would map it for the
task's first warp (R189, R389). -/
def State.imageWindow (s : State) (t : Task) (n : Nat) (kept : List Window) (bs : List Byte) : Option Window :=
  match kept.find? fun x => x.bytes == bs with
  | some x => some x
  | none =>
    let w : Warp := { Warp.empty with task := t.num, ptroot := t.ptroot, asid := t.asid, grp := grpOf (t.memb.getD 0 0xFFFFFFFF) }
    let x := ofBytes bs
    match (s.core n).windowFor w (dField x 0 8) (dField x 8 4) (dField x 12 4) with
    | .ok y => some y
    | .error _ => none

/-- What a core holds of the task beside its warps: windows and stash bytes, from the core image (R389). -/
def State.resumeCore (s : State) (t : Task) (rank n : Nat) : State :=
  let key := 256 * t.num.toNat + rank
  let at_ := s.coreImage t rank
  let (head, s) := s.readNat at_ 8
  let (ws, s) := s.devRead (at_ + 0x100) 512
  let wins := (List.range (min 16 (bitsN head 15 8))).filterMap fun k =>
    s.imageWindow t n (look [] s.savedWins key) ((ws.drop (32 * k)).take 32)
  let (bs, s) := s.devRead (at_ + 0x25000) t.stash
  let bad := s.poison
  let s := s.modCore n fun c =>
    let base := (c.run t.num).base
    { c with
      windows := c.windows ++ wins
      stash := putBytes c.stash base bs
      stashPoison := (List.range (t.stash / 32)).foldl (fun m k =>
        match find bad ((at_ + 0x25000) / 32 + k) with | some h => ins m (base / 32 + k) h | none => m) c.stashPoison }
  { s with savedWins := put [] s.savedWins key [] }

/-- The core-local barriers that a warp's save area keeps, restored on its core (R48 step 1, R67). -/
def State.resumeBars (s : State) (t : Task) (wid core : Nat) : State :=
  match find s.saved (savedKey t.num (BitVec.ofNat 32 wid)) with
  | none => s
  | some x =>
    (t.keepsBars x.w).foldl (fun s kg =>
      let key := barKey t.num kg.2
      let (v, s) := s.mixed (saveAddr s x.w.ctxbase + 0x40 + 16 * kg.1) 16 (ofBytes (look BarObj.init s.savedBars key).bytes)
      s.modCore core fun c => { c with bars := put BarObj.init c.bars key (barOf (toBytes 16 v)) }) s

/-- Every warp of a placed task is restored, and the task runs (R48). -/
def execTaskResume (task : Nat) (s : State) : Result :=
  match find s.disp.tasks task with
  | none => .next s
  | some t' =>
    if t'.st ≠ .resuming ∨ t'.warps = [] ∨ s.disp.resume.contains t'.num then .next s
    else
      let now : Task := { t' with ranks := t'.warps.foldl (fun r e => insNat e.2.core r) [] }
      let s := (t'.ranks.zipIdx.filter fun e => e.1 < 128).foldl (fun s e => s.resumeCore t' e.2 e.1) s
      let s := t'.warps.foldl (fun s e => s.resumeBars t' e.1 e.2.core) s
      let s := t'.warps.foldl (fun s e => s.resumeWarp t' e.1 e.2) s
      let s := now.ranks.foldl (fun s n => (s.modCore n Core.wakeTwait).acquire n t'.rel) s
      let areas := t'.warps.map fun e => saveAddr s (s.warpOf ⟨e.2.core, .slot e.2.slot⟩).ctxbase
      let s : State := { s with
        savedBars := s.savedBars.filter fun e => e.1 / 256 ≠ task, draw := s.draw + 1
        areas := s.areas.filter fun e => e.1 / 32768 ≠ task
        areaWrites := s.areaWrites.filter fun e => !areas.any fun a => decide (a ≤ e.1) && decide (e.1 < a + 40960) }
      let s := s.modTask task fun t => { t with st := .running, ranks := now.ranks }
      .next (s.complete { now with st := .running } 0)

/-! ### Choosing what is placed next (R317) -/

/-- The tags that a saved warp takes back: TOWN of its image, as the Dispatcher reads it to place the warp (R69, R70). -/
def State.takeTown (s : State) (t : Task) (wid : Nat) : State :=
  let key := savedKey t.num (BitVec.ofNat 32 wid)
  match find s.saved key with
  | none => s
  | some x =>
    let (town, s) := s.mixed (saveAddr s x.w.ctxbase + 0x28) 8 x.w.town.toNat
    { s with saved := ins s.saved key { x with w := { x.w with town := BitVec.ofNat 64 town } } }

/-- A task that resumes is placed: warps that shared a core share one again, and rank c goes to the core that takes
those warps (R48, R389). -/
def State.placeResumed (s : State) (t : Task) : Option State :=
  let s := t.warps.foldl (fun s e => s.takeTown t e.1) s
  let units := (List.range t.ranks.length).map fun k =>
    (t.warps.filter fun e => e.2.core = t.ranks.getD k 0).map (·.1)
  let warp (w : Nat) : Warp := match find s.saved (savedKey t.num (BitVec.ofNat 32 w)) with
    | some x => { x.w with stopping := true } | none => Warp.empty
  (s.placeTask t true (units.filter fun u => u ≠ []) warp).map fun p =>
    let seats : Table Seat := p.seats.foldl (fun m x => ins m x.1 x.2) []
    let ranks := units.map fun u => match (u.head?).bind (find seats) with | some x => x.core | none => 128
    let s := seats.foldl (fun s e => s.modRouter (unitRouter e.2.core) fun x => { x with awake := true }) p.s
    let s : State := { s with disp := { s.disp with
      ptr := (p.last + 1) % 128, resume := s.disp.resume.filter fun n => n ≠ t.num
      tasks := ins s.disp.tasks t.num.toNat { t with warps := seats, ranks := ranks } } }
    s.push (.taskResume t.num.toNat)

/-- What may be placed, in order: at each level the accepted resumptions, the first accepted first (log entry
120), then the heads. -/
def State.candidates (s : State) : List (Word ⊕ Head) :=
  let hs := s.heads
  let rs := s.disp.resume.filterMap fun n => (find s.disp.tasks n.toNat).map fun t => (n, t.prio)
  ((List.range 8).reverse.map fun (lv : Nat) =>
    (rs.filter fun r => r.2 = lv).map (fun r => Sum.inl r.1) ++ (hs.filter fun h => h.level = lv).map Sum.inr).flatten

/-- One candidate is placed, if the resources suffice and the Dispatcher's accesses find their ways (R318, R327). -/
def State.placeCandidate (s : State) (c : Word ⊕ Head) : Option State :=
  (s.attempt 128 fun s => match (match c with
      | .inl n => (find s.disp.tasks n.toNat).bind s.placeResumed
      | .inr h => s.placeHead h) with
    | some t => (true, t)
    | none => (false, s)).bind fun r => if r.1 then some r.2 else none

/-- One placement: the first candidate for which the free resources suffice (R317, R318). -/
def execTaskPlacement (s : State) : Result :=
  let s := s.payOwed
  let placed := if s.fatal then none else s.candidates.findSome? s.placeCandidate
  match placed with
  | some s => .next (s.push .taskPlacement)
  | none =>
    .next (s.heads.foldl (fun s h => s.modHead h.q fun e => { e with fail := some (e.fail.getD s.time) }) s)

end Sys2Proof.Machine
end

