-- ==== Sys2Proof/Machine/System.lean ====
section
/-! DEFINITION. The system instructions: supervisor queue, GATE, fault queue, special registers, register index, cache and
translation maintenance, orphan rescue, interrupt entry (R60–R66, R255–R266, R343–R348, R400–R405, R419). -/

namespace Sys2Proof.Machine

/-! ### The supervisor queue (R255–R258, R346, R347) -/

def sqCapacity : Nat := 512

/-- The sixteen words of an entry (R256). -/
def State.sqWords (s : State) (cx : RdCx) (o : WForm NoMod) (l : Nat) : List Word :=
  let n := s.cur.who.core
  let w := s.warp
  [BitVec.ofNat 32 (2 ^ 31 + n * 2 ^ 21 + w.wid.toNat % 65536 * 32 + l), w.task, BitVec.ofNat 32 (cx.srcA l o.a .i32),
    BitVec.ofNat 32 (n * 2 ^ 25 + (s.core n).sqCalls % 2 ^ 25), BitVec.ofNat 32 (2 * s.cur.pc.toNat),
    BitVec.ofNat 32 (2 * s.cur.pc.toNat / 2 ^ 32),
    BitVec.ofNat 32 (w.asid.toNat % 65536 + o.d.toNat * 65536 + (if (w.lane l).sv then 2 ^ 24 else 0)), 0] ++
  (List.range 8).map fun i => BitVec.ofNat 32 (cx.fetchN 1 l l o.b .i32 8 / 2 ^ (32 * i))

/-- One lane's entry: it enters and parks, or waits at the full queue (R255). -/
def State.sqEnter (s : State) (cx : RdCx) (o : WForm NoMod) (l : Nat) : State :=
  let n := s.cur.who.core
  let c := s.core n
  let park (k : Wait) (s : State) : State := s.modLane l fun y => { y with st := .waiting, wait := k }
  if c.sq.length < sqCapacity then
    let e : SqEntry := { words := s.sqWords cx o l }
    let ticket : Word := BitVec.ofNat 32 (n * 2 ^ 25 + c.sqCalls % 2 ^ 25)
    park (.sysc ticket o.d) (s.setCore n { c with
      sq := c.sq ++ [e], sqCalls := c.sqCalls + 1
      sqFull := if c.sq.length + 1 = sqCapacity then some s.time else c.sqFull })
  else park .sysFull s

/-- The queue engine's one write for an issue that placed k entries (R346). -/
def State.sqCount (s : State) (n k : Nat) : State :=
  let c := s.core n
  if k = 0 ∨ !c.sqctl.getLsbD 31 then s
  else
    let x := c.sqEntered + BitVec.ofNat 32 k
    let s := s.setCore n { c with sqEntered := x }
    match s.countWord (bitsN c.sqctl.toNat 15 0) c.sqwva x.toNat c.ct with
    | (true, s) => s
    | (false, s) => s.recordErr n
        { cause := 0x2E, sub := 1, sev := .contained, unit := 4, lane := 0, wid := 0, task := 0, addr := c.sqwva }

def execSysc (o : WForm NoMod) (s : State) : Result :=
  runInstr (.sysc o) o.g o.lit o.perm { a := some (o.a, .i32), b := some (o.b, .i32) } noDyn (released true .dev true fun x s =>
    let n := s.cur.who.core
    let before := (s.core n).sq.length
    let s := (lanesOf x.act).foldl (fun s l => s.sqEnter x.cx o l) s
    { s := s.sqCount n ((s.core n).sq.length - before), adv := 0 }) s

/-- The queue has stayed full for 65,536 core cycles, 16,384 ticks at the clocks of R7: QP, and the count starts anew
(R255). -/
def execSqPressure (core : Nat) (s : State) : Result :=
  match (s.core core).sqFull with
  | none => .next s
  | some t =>
    .next (if (s.time - t).toNat < 16384 then s
      else s.modCore core fun c => { c with ipendEdge := c.ipendEdge ||| 16, sqFull := some s.time })

/-- Lanes that wait at the full queue issue their SYSC again. -/
def Warp.wakeFull (w : Warp) : Warp :=
  w.lanes.foldl (fun w e => if e.2.st = .waiting ∧ e.2.wait = .sysFull then w.joinFront e.1 e.2 else w) w

def Core.wakeFull (c : Core) : Core :=
  { c with slots := c.slots.map fun e => (e.1, e.2.wakeFull), sl := { c.sl with warp := c.sl.warp.wakeFull } }

/-- One lane takes the oldest entry, or zeros. -/
def State.sqTakeOne (s : State) (f : Front) (d l : Nat) : State :=
  let n := s.cur.who.core
  match (s.core n).sq with
  | e :: es =>
    let s := s.modCore n fun c => ({ c with sq := es, sqFull := none } : Core).wakeFull
    s.modLane l fun y => (List.range 16).foldl (fun y i => y.wV f (d + i) (e.words.getD i 0)) y
  | [] => s.modLane l fun y => y.wVs f d 16 0

def execSqtake (o : WForm NoMod) (s : State) : Result :=
  runInstr (.sqtake o) o.g o.lit o.perm {} noDyn (fun x s =>
    Done.returns { s := (lanesOf x.act).foldl (fun s l => s.sqTakeOne x.cx.front o.d.toNat l) s, adv := x.act }) s

/-- The field D of the SYSC at which a lane is parked with a ticket. -/
def Lane.parkedAt (ticket : Word) (y : Lane) : Option (BitVec 8) :=
  match y.st, y.wait with
  | .waiting, .sysc t d => if t = ticket then some d else none
  | _, _ => none

/-- One reply: the lane named resumes with its result; false where no such lane is parked (R258). -/
def State.sqReply (s : State) (caller task result ticket : Word) : Bool × State :=
  let l := caller.toNat % 32
  let wid : Word := BitVec.ofNat 32 (bitsN caller.toNat 20 5)
  let t := (s.core s.cur.who.core).ct
  match s.seatOf ⟨bitsN caller.toNat 27 21, .sl⟩ task wid with
  | some who =>
    match ((s.warpOf who).lane l).parkedAt ticket with
    | some d => (true, (s.modWarpOf who fun w => w.wakeLane l d result 8).acquire who.core t)
    | none => (false, s)
  | none =>
    match find s.saved (savedKey task wid) with
    | some x =>
      match (x.w.lane l).parkedAt ticket with
      | some d => (true, s.wakeImage task wid x.w.ctxbase l (some d) result 8 t)
      | none => (false, s)
    | none => (false, s)

/-- A corrected record of the issuing core for lane l (R396, R397). -/
def State.strayRecord (s : State) (cause l : Nat) (addr : DWord) : State :=
  s.recordErr s.cur.who.core
    { cause := cause, sub := 0, sev := .corrected, unit := 4, lane := l, wid := s.warp.wid, task := s.warp.task, addr := addr }

def execSqreply (o : WForm NoMod) (s : State) : Result :=
  runInstr (.sqreply o) o.g o.lit o.perm { a := some (o.a, .i32), b := some (o.b, .i32), c := some (o.c, .i32) } noDyn (released true .dev true fun x s =>
    { s := (lanesOf x.act).foldl (fun s l =>
        let a := x.cx.fetchN 0 l l o.a .i32 2
        let ticket : Word := BitVec.ofNat 32 (x.cx.srcC l o.c .i32)
        match s.sqReply (BitVec.ofNat 32 a) (BitVec.ofNat 32 (a / 2 ^ 32)) (BitVec.ofNat 32 (x.cx.srcB l o.b .i32)) ticket with
        | (true, s) => s
        | (false, s) => s.strayRecord 0x21 l (ticket.setWidth 64)) s
      adv := x.act }) s

/-! ### GATE (R259, R260, R345, R348) -/

/-- A capability entry (R259). -/
structure Cap where
  svc : Nat
  asid : Word
  queue : Nat
  sv : Bool
  pre : Bool
  target : DWord
  ptroot : DWord
  saveBase : Nat
  deriving DecidableEq, Repr

/-- The entry of a handle, where it allows service a. -/
def capOf (bs : List Byte) (a : Nat) : Option Cap :=
  let d := ofBytes bs
  let w0 := dField d 0 4
  let w1 := dField d 4 4
  if w0 / 2 ^ 31 = 0 ∨ w0 / 2 ^ 27 % 16 ≠ 0 ∨ w0 / 2 ^ 16 % 256 ≠ 0 ∨ w1 / 2 ^ 10 ≠ 0 ∨ w1 / 2 ^ 6 % 4 ≠ 0 ∨ w0 / 2 ^ 24 % 8 ≠ a ∨ 5 ≤ a then none
  else some { svc := a, asid := BitVec.ofNat 32 (w0 % 65536), queue := w1 % 64, sv := w1.testBit 8, pre := w1.testBit 9
              target := BitVec.ofNat 64 (dField d 8 8), ptroot := BitVec.ofNat 64 (dField d 16 8), saveBase := dField d 24 8 }

/-- The gate engine reads entry b of the task's table (R348). -/
def State.readCap (s : State) (a b : Nat) : Option Cap × State :=
  match find s.disp.tasks s.warp.task.toNat with
  | none => (none, s)
  | some t =>
    if t.capN ≤ b then (none, s)
    else
      let pa := s.devnum * 2 ^ 45 + (t.capBase + 32 * b) % 2 ^ 45
      if (s.badData pa 32).isSome then (none, s)
      else
        let (bs, s) := s.devRead pa 32
        (capOf bs a, s)

def timerKey (die t : Nat) : Nat := die * 4096 + t

/-- A timer whose tick has passed (R345). -/
def GateTimer.due (x : GateTimer) (time : DWord) : Bool := x.live && decide (x.arm.deadline < time) && decide (x.arm.at_ < time)

/-- The timers that are free: those that fired or were cancelled, or were never armed. -/
def State.freeTimers (s : State) (die : Nat) : List Nat :=
  (List.range 4096).filter fun t => !(look GateTimer.init s.timers (timerKey die t)).live

/-- Service 0: which free timer is taken is the device's choice. -/
def State.armTimer (s : State) (l : Nat) (c : Cap) (arg : DWord) : (Nat × Nat) × State :=
  let die := s.cur.who.core / 64
  match s.freeTimers die with
  | [] => ((2, Config.choice s.draw (970000 + l)), s)
  | t :: ts =>
    let t := pickFrom (Config.choice s.draw (971000 + l)) t ts
    let x := look GateTimer.init s.timers (timerKey die t)
    let x : GateTimer := { gen := (x.gen + 1) % 2 ^ 19, arm := ⟨arg, c.asid, c.target, s.time⟩, live := true }
    ((0, t + die * 4096 + x.gen * 8192), { s with timers := put GateTimer.init s.timers (timerKey die t) x })

/-- Service 1: 0 where the timer was armed alike and has not fired; it fires as its tick begins. -/
def State.cancelTimer (s : State) (c : Cap) (id : Nat) : (Nat × Nat) × State :=
  let k := id % 8192
  let x := look GateTimer.init s.timers k
  if x.live ∧ x.gen = id / 8192 % 2 ^ 19 ∧ x.arm.asid = c.asid ∧ x.arm.target = c.target then
    ((0, 0), { s with timers := put GateTimer.init s.timers k { x with live := false } })
  else ((0, 1), s)

/-- WAKEV on a key of the target address space; nothing where it finds no home (R260, R459). -/
def State.wakeTarget (s : State) (asid : Word) (va : DWord) (n : Nat) : Nat × State :=
  match s.translateAsid asid.toNat .wake va.toNat with
  | (none, s) => (0, s)
  | (some x, s) => s.wakeAt asid va (s.fwd x.pa) n 0

/-- Service 2: a posted 32-bit write (R348, R361). -/
def State.doorbell (s : State) (target v : Nat) : State :=
  let pa := target % 2 ^ 56 - target % 4
  if (s.barred pa 4).isSome ∨ s.place pa = .reserved then s
  else s.physWrite s.cur.who.core { pa := pa, mt := (s.place pa).mtOf 0, lcl := 0, db := false, level := 15 } (toBytes 4 v)

/-- Service 3: a launch on the capability's terms; none until the Dispatcher's accesses find their ways (R327). -/
def State.gateLaunch (s : State) (l : Nat) (c : Cap) (arg : DWord) : Option ((Nat × Nat) × State) :=
  let w := s.warp
  (s.attempt 128 fun s => s.accept
    { first := true, who := s.cur.who, front := s.cur.front, lane := l, d := 0, addr := arg, queue := BitVec.ofNat 32 c.queue
      user := !(w.lane l).sv, asid := w.asid, ptroot := w.ptroot, task := w.task, wid := w.wid, rel := (s.core s.cur.who.core).ct
      gate := some { asid := c.asid, ptroot := c.ptroot, saveBase := c.saveBase, sv := c.sv, pre := c.pre } }).map
    fun ((st, num), s) => ((match st with | 0 => 0 | 1 => 3 | _ => 1, num), s)

/-- A service of GATE: its status and result, or what stops it. Timers are at the units of the core's die. -/
def State.gateService (s : State) (l : Nat) (c : Cap) (arg : DWord) : Except Stop (Nat × Nat) × State :=
  let n := s.cur.who.core
  let timers := s.reaches n (128 + n / 64 * 64)
  match c.svc with
  | 0 => if timers then let (r, s) := s.armTimer l c arg; (.ok r, s) else (.error .held, s)
  | 1 => if timers then let (r, s) := s.cancelTimer c (arg.toNat % 2 ^ 32); (.ok r, s) else (.error .held, s)
  | 2 =>
    match s.releaseBy n s.warp with
    | (some e, s) => (.error e, s)
    | (none, s) => (.ok (0, 0), s.doorbell c.target.toNat (arg.toNat % 2 ^ 32))
  | 3 =>
    match s.releaseBy n s.warp with
    | (some e, s) => (.error e, s)
    | (none, s) =>
      if !s.reaches n 128 then (.error .held, s)
      else match (s.wakeWay n 128).gateLaunch l c arg with
        | some (r, s) => (.ok r, s)
        | none => (.error .held, s)
  | _ =>
    let (k, s) := s.wakeTarget c.asid c.target (arg.toNat % 2 ^ 32)
    (.ok (0, k), s)

/-- One lane of GATE: its status and result. A result that no rule states is free. The gate engine of the core reads the
capability once it finds a way to it. -/
def State.gate (s : State) (l a b : Nat) (arg : DWord) : Except Stop (Nat × Nat) × State :=
  match s.attempt s.cur.who.core fun s => s.readCap a b with
  | none => (.error .held, s)
  | some (none, s) => (.ok (1, Config.choice s.draw (972000 + l)), s)
  | some (some c, s) => s.gateService l c arg

/-- One lane of GATE and its registers. -/
def gateLane (o : WForm NoMod) (cx : RdCx) (l : Nat) (s : State) : Option Stop × State :=
  match s.gate l (cx.srcA l o.a .i32) (cx.srcB l o.b .i32) (BitVec.ofNat 64 (cx.srcC l o.c .i64)) with
  | (.error e, s) => (some e, s)
  | (.ok (st, r), s) =>
    (none, s.modLane l fun y =>
      (y.wV cx.front o.d.toNat (BitVec.ofNat 32 st)).wV cx.front (o.d.toNat + 1) (BitVec.ofNat 32 r))

def execGate (o : WForm NoMod) (s : State) : Result :=
  runInstr (.gate o) o.g o.lit o.perm { a := some (o.a, .i32), b := some (o.b, .i32), c := some (o.c, .i64) } noDyn
    (fun x s => (laneLoop x (gateLane o x.cx) s).returns) s

/-- A timer fires: it wakes its key and is free; it fires once its die's units find a way to the key (R327). -/
def State.fireTimer (s : State) (k : Nat) (x : GateTimer) : State :=
  match s.attempt (128 + k / 4096 * 64) fun s =>
    ({ s with timers := put GateTimer.init s.timers k { x with live := false } } : State).wakeTarget x.arm.asid x.arm.target 0 with
  | some (_, s) => s
  | none => s

/-- The timers whose value the tick that begins has reached fire, in ascending number (R345). -/
def State.fireTimers (s : State) : State :=
  s.timers.foldl (fun s e => if e.2.live && decide (e.2.arm.deadline ≤ s.time) then s.fireTimer e.1 e.2 else s) s

/-- A timer that was due before this tick fires. -/
def execGateTimerFire (die timer : Nat) (s : State) : Result :=
  let k := timerKey die timer
  let x := look GateTimer.init s.timers k
  .next (if x.due s.time then s.fireTimer k x else s)

/-! ### The fault queue (R261, R401–R405) -/

/-- The eight words of an entry (R401). -/
def fqWords (slot : Nat) (e : FqEntry) : List Word :=
  let warps := (e.waits.filterMap fun f => match f.who with | .lane _ t w _ _ => some (t, w) | .run _ _ _ | .part _ _ _ _ _ => none).eraseDups
  let runs := e.waits.filter fun f => match f.who with | .run _ _ _ | .part _ _ _ _ _ => true | .lane _ _ _ _ _ => false
  let lanes := e.waits.length - runs.length
  let (task, wid, lane) : Word × Word × Nat := match e.first.who with
    | .lane _ t w l _ => (t, w, l) | .run _ t w | .part _ _ _ t w => (t, w, 0)
  [fqWord0 slot e,
    BitVec.ofNat 32 (0x10 + e.first.sub % 256 * 256 + e.kinds % 16 * 65536 + (if lanes = 0 then 0 else 2 ^ 20) +
      (if runs = [] then 0 else 2 ^ 21)),
    e.first.va.extractLsb' 0 32, e.first.va.extractLsb' 32 32,
    BitVec.ofNat 32 (e.first.asid.toNat % 65536 + (warps.length + runs.length) % 512 * 65536), BitVec.ofNat 32 lanes, task,
    BitVec.ofNat 32 (wid.toNat % 65536 + lane * 65536)]

/-- One lane takes the oldest entry that no lane took, or zeros. -/
def State.fqTakeOne (s : State) (f : Front) (d l : Nat) : State :=
  let n := s.cur.who.core
  let c := s.core n
  match c.fqOrder.findSome? fun k => (find c.fq k).bind fun e => if e.taken then none else some (k, e) with
  | some (k, e) =>
    let s := s.setCore n { c with fq := ins c.fq k { e with taken := true } }
    s.modLane l fun y => ((fqWords k e).zipIdx).foldl (fun y x => y.wV f (d + x.2) x.1) y
  | none => s.modLane l fun y => y.wVs f d 8 0

def execFqtake (o : WForm NoMod) (s : State) : Result :=
  runInstr (.fqtake o) o.g o.lit o.perm {} noDyn (fun x s =>
    Done.returns { s := (lanesOf x.act).foldl (fun s l => s.fqTakeOne x.cx.front o.d.toNat l) s, adv := x.act }) s

def Wait.isFault : Wait → Bool
  | .faultq _ => true | _ => false

/-- A waiting lane or run takes its access up again (R403, R405). -/
def State.retryFault (s : State) (n : Nat) (f : FaultRec) (t : Nat) : State :=
  match f.who with
  | .lane slot task wid l cb =>
    match s.seatOf ⟨n, .slot slot⟩ task wid with
    | some who =>
      if ((s.warpOf who).lane l).wait.isFault then (s.modWarpOf who fun w => w.joinFront l (w.lane l)).acquire who.core t else s
    | none => s.wakeImage task wid cb l none 0 0 t
  | .run tag _ _ =>
    match find (s.core n).runs tag with
    | some r => (s.modRun n tag fun r => { r with held := false }).push (r.goOn n tag)
    | none => s
  | .part m tag x _ _ =>
    (s.modRun m tag fun r => { r with heldAt := r.heldAt.filter fun y => y ≠ x }).push (.engineBytesDelivered m tag)

/-- A waiting lane takes its translation fault as a trap, in its registers or in its image; a run is abandoned (R377,
R403–R405). -/
def State.deliverFault (s : State) (n : Nat) (f : FaultRec) (t : Nat) : State :=
  let trap : Trap := ⟨0x10, f.sub⟩
  let k : Tops := ⟨f.tops.1, f.tops.2.1, f.tops.2.2⟩
  match f.who with
  | .lane slot task wid l cb =>
    let cur (who : Who) (y : Lane) : Cur :=
      { who := who, front := .user, cluster := laneBit l, pc := y.pc, words := f.words, len := 8 }
    match s.seatOf ⟨n, .slot slot⟩ task wid with
    | some who =>
      let y := (s.warpOf who).lane l
      if y.wait.isFault then (s.asIssue (cur who y) fun s => s.trapLane trap k l).acquire who.core t else s
    | none =>
      match find s.saved (savedKey task wid) with
      | none => s
      | some x =>
        let y := x.w.lane l
        let tvec := (s.core n).tvec
        let at_ : State := { s with cur := cur ⟨n, .slot slot⟩ y }
        let w := if tvec.getLsbD 0 then x.w.enterHandler at_ tvec trap k l else x.w.stopLane at_ trap k l
        let s := if tvec.getLsbD 0 then s else s.recordErr n
          { cause := 0x20, sub := 0x10, sev := .contained, unit := 0, lane := l, wid := wid, task := task, addr := y.addr }
        let s := s.imageWrite (saveAddr s cb + recOff l) (w.laneBytes l)
        let s := s.imageJoins (saveAddr s cb) (if tvec.getLsbD 0 then [16, 32] else []) t
        { s with saved := ins s.saved (savedKey task wid) { x with w := w, acq := max x.acq t } }
  | .run tag _ _ => s.abandon n tag f.va
  | .part m tag x _ _ => s.abandonPart m tag x n f.va

/-- The lane of a fault that left the admission list waits on its entry. -/
def State.setWord0 (s : State) (n : Nat) (f : FaultRec) (x : Word) : State :=
  match f.who with
  | .lane slot task wid l _ =>
    match s.seatOf ⟨n, .slot slot⟩ task wid with
    | some who => s.modWarpOf who fun w => w.setLane l { w.lane l with wait := .faultq x }
    | none => s
  | .run _ _ _ | .part _ _ _ _ _ => s

/-- A freed slot goes to the oldest fault of the admission list; the faults of its key join it (R402). -/
def State.grantSlot (s : State) (n : Nat) : State :=
  match (s.core n).fqWait with
  | [] => s
  | f :: fs =>
    let s := s.modCore n fun c => { c with fqWait := fs.filter fun g => !f.sameKey g }
    (f :: fs.filter f.sameKey).foldl (fun s g =>
      let (x, s) := s.enterFault n g
      s.setWord0 n g x) s

/-- One lane of FQRESUME. -/
def State.fqResume (s : State) (l : Nat) (a : Word) (b : Nat) : State :=
  let n := s.cur.who.core
  let c := s.core n
  match (if b ≤ 1 then c.fq.find? fun e => fqWord0 e.1 e.2 == a else none) with
  | some (k, e) =>
    let s := s.setCore n { c with fq := del c.fq k, fqOrder := c.fqOrder.filter fun j => j ≠ k }
    let s := e.waits.foldl (fun s f => if b = 0 then s.retryFault n f c.ct else s.deliverFault n f c.ct) s
    s.grantSlot n
  | none => s.strayRecord 0x27 l 0

def execFqresume (o : WForm NoMod) (s : State) : Result :=
  runInstr (.fqresume o) o.g o.lit o.perm { a := some (o.a, .i32), b := some (o.b, .i32) } noDyn (released true .dev true fun x s =>
    let n := s.cur.who.core
    { s := ((lanesOf x.act).foldl (fun s l => s.fqResume l (BitVec.ofNat 32 (x.cx.srcA l o.a .i32)) (x.cx.srcB l o.b .i32)) s).fqFlush n (s.core n).fqCount
      adv := x.act }) s

/-! ### Special registers (R60–R66, R263) -/

/-- What a read of register n gives lane l. -/
def State.csr (s : State) (cx : RdCx) (l n : Nat) : DWord :=
  let w := cx.w
  let c := s.core s.cur.who.core
  let y := w.lane l
  let at_ := choiceNo 6 l n
  let w32 (x : Word) : DWord := x.setWidth 64
  match n with
  | 0x000 => BitVec.ofNat 64 l
  | 0x001 => w32 w.wid
  | 0x002 => w32 w.task
  | 0x004 | 0x005 | 0x006 | 0x007 => w32 (look 0 w.grp (n - 4))
  | 0x010 => cx.pc ++ BitVec.ofBool (cx.front == .sup)
  | 0x011 => w32 w.tilepart
  | 0x012 => w32 (w.readFmode cx.draw at_)
  | 0x013 => c.tagbits
  | 0x020 => BitVec.ofNat 64 c.ct
  | 0x021 => s.time
  | 0x030 => c.waymask.setWidth 64
  | 0x031 => c.timecmp
  | 0x032 => w32 c.imask
  | 0x033 => w32 (s.ipend s.cur.who.core)
  | 0x040 => w.ptroot
  | 0x041 => w32 w.asid
  | 0x042 => w.ctxbase
  | 0x050 => y.tpc.read cx.draw at_
  | 0x051 => w32 (y.tcause.read cx.draw at_)
  | 0x052 | 0x053 | 0x054 => w32 ((look zeroV y.tword (n - 0x52)).read cx.draw at_)
  | 0x055 | 0x056 | 0x057 => w32 ((look zeroV y.top (n - 0x55)).read cx.draw at_)
  | _ => 0

def csrWide (n : BitVec 12) : Bool := match csrInfo n with | some i => i.wide | none => false
def csrKind (n : BitVec 12) : Kind := if csrWide n then .i64 else .i32

/-- A read of %ipend that returns the bit of a message interrupt acquires what its sender wrote (R357). -/
def execCsrr (o : CsrForm) (s : State) : Result :=
  runInstr (.csrr o) o.g none .none {} noDyn (fun x s =>
    let d := onActive (fun cx l y => y.wVs cx.front o.d.toNat (if csrWide o.num then 2 else 1) (s.csr cx l o.num.toNat).toNat) x s
    let n := s.cur.who.core
    if o.num = 0x033 ∧ x.act ≠ 0 ∧ s.ipend n &&& 0xFFFF0000 ≠ 0 then { d with s := d.s.acquire n d.s.agentTime } else d) s

inductive CsrOp where | write | set | clear
  deriving DecidableEq, Repr

def CsrOp.on (op : CsrOp) (old v : DWord) : DWord :=
  match op with | .write => v | .set => old ||| v | .clear => old &&& ~~~v

/-- A lane-scope register takes a value. -/
def Lane.wTrap (f : Front) (n : Nat) (v : DWord) (y : Lane) : Lane :=
  match n with
  | 0x050 => { y with tpc := y.tpc.write f v }
  | 0x051 => { y with tcause := y.tcause.write f (lo32 v &&& 0xFFFF) }
  | 0x052 | 0x053 | 0x054 => { y with tword := upd zeroV y.tword (n - 0x52) (Cell.write f (lo32 v)) }
  | _ => { y with top := upd zeroV y.top (n - 0x55) (Cell.write f (lo32 v)) }

/-- %fmode takes a value: flags due from instructions whose result is written already, freely, are in what it replaces
(R61). -/
def Warp.wFmode (draw : Nat) (op : CsrOp) (v : Word) (w : Warp) : Warp :=
  let split (b : Bool) := w.flagsDue.zipIdx.filter fun e => (Config.choice draw (973000 + e.2) % 2 == 1) == b
  let old := (split true).foldl (fun m e => m ||| flagBits e.1.2) w.fmode
  { w with fmode := lo32 (op.on (old.setWidth 64) (v.setWidth 64)) &&& 0x1F0F, flagsDue := (split false).map (·.1) }

/-- MASK of %waymask: set bits contiguous from bit 11 downward (R63). -/
def wayMaskOk (m : BitVec 12) : Bool :=
  (List.range 13).any fun k => m == BitVec.ofNat 12 (4096 - 2 ^ (12 - k))

def wayBytes (m : BitVec 12) : Nat := ((List.range 12).filter fun i => m.getLsbD i).length * 131072

/-- A write of %waymask is ignored (R63). -/
def Core.waysRefused (c : Core) (m : BitVec 12) : Bool :=
  !wayMaskOk m || c.stashRuns.any fun e => decide (wayBytes m < e.2.base + e.2.size)

/-- A run uses stash bytes of core n in ways that a write removes: an MLOOP with an operand there, or a COPY or MCAST
whose destination a window there holds (R63). -/
def State.waysBusy (s : State) (n : Nat) (m : BitVec 12) : Bool :=
  let c := s.core n
  let gone := c.windows.filter fun x => decide (wayBytes m < (c.run x.task).base + x.soff + x.len)
  let writes (r : Run) (va len : Nat) : Bool :=
    gone.any fun x => x.task == r.task && decide (va < x.wva + x.len) && decide (x.wva < va + len)
  (c.runs.any fun e => match e.2.kind with | .mloop o => decide (wayBytes m < e.2.stashEnd o) | _ => false) ||
    s.cores.any fun d => d.2.runs.any fun e => match e.2.kind with
      | .mloop _ => false
      | .copy o => d.1 == n && writes e.2 e.2.a.toNat (copyPlan o e.2).total
      | .mcast o => !o.bus && e.2.recv.contains (some n) && writes e.2 e.2.a.toNat e.2.c.toNat

/-- The write to %waymask: it holds the front until it takes effect. A second one waits for the first. -/
def State.wWaymask (s : State) (act : Mask) (v : DWord) : Done :=
  let n := s.cur.who.core
  let c := s.core n
  let m : BitVec 12 := v.setWidth 12
  let hold (s : State) : State := s.modWarp fun w => w.setFront s.cur.front { w.front s.cur.front with hold := .waymask }
  if c.wayPend.isSome then { s := hold s, adv := 0 }
  else if c.waysRefused m then { s := s, adv := act }
  else { s := (hold (s.setCore n { c with wayPend := some m })).push (.waymaskTakeEffect n), adv := act }

/-- The one write of a register of warp or core scope. -/
def State.wCsr (s : State) (op : CsrOp) (n : Nat) (old v : DWord) : State :=
  let x := op.on old v
  let core (f : Core → Core) : State := s.modCore s.cur.who.core f
  match n with
  | 0x011 => s.modWarp fun w => { w with tilepart := tileSize x.toNat }
  | 0x012 => s.modWarp (Warp.wFmode s.draw op (lo32 v))
  | 0x031 => core fun c => { c with timecmp := x }
  | 0x032 => core fun c => { c with imask := lo32 x &&& 0xFFFF001F }
  | 0x033 => if op = .clear then s else core fun c => { c with ipendEdge := c.ipendEdge &&& ~~~(lo32 v &&& 0xFFFF0018) }
  | 0x040 => s.modWarp fun w => { w with ptroot := x &&& 0x00FFFFFFFFFF0001 }
  | 0x041 => s.modWarp fun w => { w with asid := lo32 x &&& 0xFFFF }
  | _ => s

def csrWriteBody (op : CsrOp) (o : CsrForm) (x : Issue) (s : State) : Done :=
  let n := o.num.toNat
  let v (l : Nat) : DWord := BitVec.ofNat 64 (x.cx.srcA l o.a (csrKind o.num))
  if 0x050 ≤ n then onActive (fun cx l y => y.wTrap cx.front n (op.on (s.csr cx l n) (v l))) x s
  else if x.act = 0 then { s := s, adv := 0 }
  else
    let l := lowLane x.act
    if n = 0x030 then s.wWaymask x.act (op.on (s.csr x.cx l n) (v l))
    else { s := s.wCsr op n (s.csr x.cx l n) (v l), adv := x.act }

def csrSrcs (o : CsrForm) : SrcKinds := { a := some (o.a, csrKind o.num) }

def execCsrw (o : CsrForm) (s : State) : Result :=
  runInstr (.csrw o) o.g none .none (csrSrcs o) noDyn (csrWriteBody .write o) s
def execCsrs (o : CsrForm) (s : State) : Result :=
  runInstr (.csrs o) o.g none .none (csrSrcs o) noDyn (csrWriteBody .set o) s
def execCsrc (o : CsrForm) (s : State) : Result :=
  runInstr (.csrc o) o.g none .none (csrSrcs o) noDyn (csrWriteBody .clear o) s

/-- The fronts that a %waymask write held go on as at a switch marker. -/
def Warp.freeWays (draw : Nat) (w : Warp) : Warp :=
  [Front.user, Front.sup].foldl (fun w f =>
    if (w.front f).hold = .waymask then (w.setFront f { w.front f with hold := .none }).marker f draw else w) w

/-- The write takes effect once no run uses the ways it removes; a window that lies there goes, its dirty sectors written
back, the poisoned ones poisoned (R63, R418). -/
def execWaymaskTakeEffect (core : Nat) (s : State) : Result :=
  let c := s.core core
  match c.wayPend with
  | none => .next s
  | some m =>
    if s.waysBusy core m then .next s
    else
      let gone := c.windows.filter fun x => decide (wayBytes m < (c.run x.task).base + x.soff + x.len)
      let s := gone.foldl (fun s x => s.unmap core x) s
      let s := if m = 0xFFF then (s.core core).l1.foldl (fun s e => s.dropL1 core e.1) s else s
      let c := s.core core
      let c : Core := { c with
        waymask := m, wayPend := none
        slots := c.slots.map fun e => (e.1, e.2.freeWays s.draw), sl := { c.sl with warp := c.sl.warp.freeWays s.draw } }
      .next { ((s.setCore core c).push .taskPlacement) with draw := s.draw + 1 }

/-! ### Register index (R264) -/

def execVrdi (o : WForm NoMod) (s : State) : Result :=
  runInstr (.vrdi o) o.g o.lit o.perm { a := some (o.a, .i32) } noDyn (onActive fun cx l y =>
    let i := cx.srcA l o.a .i32 % 256
    y.wV cx.front o.d.toNat (if i < cx.w.vAlloc then cx.rV 5 l l i else 0)) s

def execVwri (o : WForm NoMod) (s : State) : Result :=
  runInstr (.vwri o) o.g o.lit o.perm { a := some (o.a, .i32), b := some (o.b, .i32) } noDyn (onActive fun cx l y =>
    let i := cx.srcA l o.a .i32 % 256
    if i < cx.w.vAlloc then y.wV cx.front i (BitVec.ofNat 32 (cx.srcB l o.b .i32)) else y) s

/-! ### Translations and caches (R265) -/

/-- Every core drops the translations that satisfy p. -/
def State.dropTlb (s : State) (p : TlbEntry → Bool) : State :=
  s.onCores fun c => { c with tlb := c.tlb.filter fun t => !p t }

/-- The front stands as at a switch marker, where some lane is active (R265). -/
def State.marks (s : State) (act : Mask) : State := if act = 0 then s else s.modWarp fun w => w.marker s.cur.front s.draw

/-- An effect of maintenance, complete at once; the front stands as at a switch marker. -/
def maintain (x : Issue) (f : State → Nat → State) (s : State) : Done :=
  { s := ((lanesOf x.act).foldl f s).marks x.act, adv := x.act }

def execTlbi (o : WForm NoMod) (s : State) : Result :=
  runInstr (.tlbi o) o.g o.lit o.perm { a := some (o.a, .i64), b := some (o.b, .i32) } noDyn (fun x => maintain x fun s l =>
    s.dropTlb fun e => tlbHit e (BitVec.ofNat 32 (x.cx.srcB l o.b .i32 % 65536)) (x.cx.srcA l o.a .i64)) s

def execTlbia (o : WForm NoMod) (s : State) : Result :=
  runInstr (.tlbia o) o.g o.lit o.perm { b := some (o.b, .i32) } noDyn (fun x => maintain x fun s l =>
    s.dropTlb fun e => e.asid == BitVec.ofNat 32 (x.cx.srcB l o.b .i32 % 65536)) s

def execTlbig (o : WForm NoMod) (s : State) : Result :=
  runInstr (.tlbig o) o.g o.lit o.perm {} noDyn (fun x => maintain x fun s _ => s.dropTlb fun _ => true) s

/-- The window entries of every core that hold a line: core, window and entry. -/
def State.holders (s : State) (line : Nat) : List (Nat × Window × Nat) :=
  (s.cores.map fun e => (e.2.windows.map fun w => (w.entries.filter fun x => s.fwd (x.2.line * 128) == s.fwd (line * 128)).map fun x =>
    (e.1, w, x.1)).flatten).flatten

/-- The dirty data of a line goes back to memory; the line stays valid. -/
def State.flushLine (s : State) (pa : Nat) : State :=
  let s := (s.holders (pa / 128)).foldl (fun s h => s.backEntry h.1 h.2.1 h.2.2) s
  s.cleanSlice (s.fwd pa / 128)

/-- The line goes without write-back: a store whose every byte is what memory held (R265). -/
def State.dropLine (s : State) (n pa : Nat) : State :=
  let pl := s.fwd pa / 128
  let s := s.coreStore n pl []
  let s := (s.holders (pa / 128)).foldl (fun s h => s.modCore h.1 fun c => c.modWindow h.2.1.task h.2.1.soff fun x =>
    { x with entries := del x.entries h.2.2 }) s
  let t := (s.l2 pl).rts
  ((s.modSlice (s.homeSlice pl) fun x => { x with mts := max x.mts t }).dropSlice pl).dropL1 n pl

/-- Every core drops its instruction copies of the line, after what windows hold of it went home, where it may. -/
def State.dropCopies (s : State) (pa : Nat) : State :=
  let s := if (s.barred pa 1).isSome then s else (s.holders (pa / 128)).foldl (fun s h => s.backEntry h.1 h.2.1 h.2.2) s
  let pl := s.fwd pa / 128
  s.onCores fun c => { c with icache := c.icache.filter fun e => s.fwd (e.1 * 128) / 128 ≠ pl }

/-- One lane of CFLUSH, CINV or ICINV: translated in the warp's address space, nothing on a page of type 10. The first two
are accesses to the data (R419, R420), and wait for a way to its home. -/
def cacheLane (acc : Acc) (f : State → Nat → State) (o : WForm NoMod) (cx : RdCx) (ax : Ax) (l : Nat) (s : State) :
    Option Stop × State :=
  let va := cx.srcA l o.a .i64
  match s.translate ax.x acc va with
  | (.error e, s) => (some (e.stop acc va), s)
  | (.ok y, s) =>
    let s := s.peerNews y.pa
    if y.mt = 2 ∨ !(s.place y.pa).isDram then (none, s)
    else if acc = .icache then (none, f s y.pa)
    else match s.barred y.pa 1 with
      | some k => (some (.trap ⟨0x14, k⟩), s)
      | none => if s.cutOff ax .rmw y then (some .held, s) else (none, ((f (s.carry y.lcl) y.pa).carry 0))

def cacheBody (acc : Acc) (f : State → Nat → State) (o : WForm NoMod) (x : Issue) (s : State) : Done :=
  let d := laneLoop x (cacheLane acc f o x.cx (s.ax false)) s
  { d with s := d.s.marks x.act }

def cacheInstr (i : Instr) (acc : Acc) (f : State → Nat → State) (o : WForm NoMod) (s : State) : Result :=
  runInstr i o.g o.lit o.perm { a := some (o.a, .i64) } noDyn (cacheBody acc f o) s

def execCflush (o : WForm NoMod) (s : State) : Result := cacheInstr (.cflush o) .read State.flushLine o s
def execCinv (o : WForm NoMod) (s : State) : Result := cacheInstr (.cinv o) .write (fun s => s.dropLine s.cur.who.core) o s
def execIcinv (o : WForm NoMod) (s : State) : Result := cacheInstr (.icinv o) .icache State.dropCopies o s

/-! ### Orphaned parcels (R266, R419) -/

/-- Lines of a parcel that this device holds modified. -/
def State.modified (s : State) (parcel : Nat) : List Nat :=
  ((List.range 16).map fun i => parcel * 16 + i).filter fun pl =>
    match find (s.slice (s.homeSlice pl)).lines pl with | some x => x.dirty | none => false

/-- A modified line goes to its offset of the rescue area, its poison with it (R407, R409). -/
def State.rescueLine (s : State) (base pl : Nat) : State :=
  let at_ := s.fwd (base + pl % 16 * 128)
  let s' := s.devWrite at_ (getBytes (s.l2 pl).data 0 128)
  { s' with poison := (List.range 4).foldl (fun t j =>
      if (find s.poison (pl * 4 + j)).isSome then markPoison t (at_ / 32 + j) else t) s'.poison }

/-- OSAVE with a rescue area, ODROP without: status and lines. A rescue area that may not be reached stops it (R420). -/
def State.orphan (s : State) (pa : Nat) (rescue : Option Nat) : Except Stop (Nat × Nat) × State :=
  let parcel := pa / 2048
  let ls := s.modified parcel
  let stop := match rescue with | some base => if ls = [] then none else s.barred base 2048 | none => none
  if look .none s.fabric.held parcel ≠ .orphaned then (.ok (1, 0), s)
  else match stop with
  | some k => (.error (.trap ⟨0x14, k⟩), s)
  | none =>
    let s : State := match rescue with | some base => ls.foldl (fun (s : State) pl => s.rescueLine base pl) s | none => s
    let s : State := (List.range 16).foldl (fun (s : State) i => s.dropSlice (parcel * 16 + i)) s
    (.ok (0, ls.length), { s with fabric := { s.fabric with held := put .none s.fabric.held parcel .none } })

/-- One lane of OSAVE or ODROP, its status and its count. -/
def orphanLane (o : WForm NoMod) (rescue : RdCx → Nat → Option Nat) (cx : RdCx) (l : Nat) (s : State) : Option Stop × State :=
  match s.orphan (cx.srcA l o.a .i64) (rescue cx l) with
  | (.error e, s) => (some e, s)
  | (.ok (st, k), s) =>
    (none, s.modLane l fun y => (y.wV cx.front o.d.toNat (BitVec.ofNat 32 st)).wV cx.front (o.d.toNat + 1) (BitVec.ofNat 32 k))

def orphanBody (o : WForm NoMod) (rescue : RdCx → Nat → Option Nat) (x : Issue) (s : State) : Done :=
  (laneLoop x (orphanLane o rescue x.cx) s).returns

/-- OSAVE (R266): the rescue area is one of this device, whatever device source b names (log entry 117). -/
def execOsave (o : WForm NoMod) (s : State) : Result :=
  let dev := s.devnum * 2 ^ 45
  runInstr (.osave o) o.g o.lit o.perm { a := some (o.a, .i64), b := some (o.b, .i64) } noDyn
    (orphanBody o fun cx l => some (dev + cx.srcB l o.b .i64 % 2 ^ 45 / 2048 * 2048)) s
def execOdrop (o : WForm NoMod) (s : State) : Result :=
  runInstr (.odrop o) o.g o.lit o.perm { a := some (o.a, .i64) } noDyn (orphanBody o fun _ _ => none) s

/-! ### Interrupt entry (R343) -/

def execInterruptEntry (core : Nat) (s : State) : Result := .next (s.interrupt core).drawn

end Sys2Proof.Machine
end

