-- ==== Sys2Proof/Machine/MemEvents.lean ====
section
/-! DEFINITION. What the memory system does by itself: fills, write-backs, evictions, the Cadastre's requests, migration,
home moves, DRAM errors and refresh, and the configuration record (R266, R281, R283, R308–R314, R366, R406–R417,
R420, R435). -/

namespace Sys2Proof.Machine

/-! ### Slices and L1 (R281, R308, R309) -/

/-- Whether a line may be held in a cache. -/
def State.cacheable (s : State) (pl : Nat) : Bool :=
  (s.place (pl * 128)).isDram && (s.barred (pl * 128) 128).isNone

/-- A core's L1 takes or renews a line. -/
def execFillRequest (core line : Nat) (s : State) : Result :=
  .next (if core < 128 ∧ s.cacheable line ∧ (s.core core).waymask ≠ 0xFFF then s.fillL1 core line else s)

/-- The stores that a core's window entries hold of a line are performed at its home. -/
def execStoreAtHome (core line : Nat) (s : State) : Result :=
  .next (((s.holders line).filter fun h => h.1 = core).foldl (fun s h => s.backEntry h.1 h.2.1 h.2.2) s)

def execSliceEviction (slice line : Nat) (s : State) : Result :=
  .next (if s.homeSlice line = slice then s.evictSlice line else s)

/-- Counters above 0 lose 1. -/
def execPredictorDecay (s : State) : Result :=
  .next (s.onSlices fun x => { x with pred := (x.pred.map fun e => (e.1, e.2 - 1)).filter fun e => e.2 ≠ 0 })

/-- Every core's clock goes on by 1. -/
def execLogicalClockAdvance (s : State) : Result :=
  .next ((List.range 128).foldl (fun s n => s.modCore n fun c => { c with ct := c.ct + 1 }) s)

/-! ### Parcels (R311, R312, R420) -/

def parcelLines (parcel : Nat) : List Nat := (List.range 16).map fun i => parcel * 16 + i

/-- The state of a parcel of this home. -/
def State.setParcel (s : State) (parcel : Nat) (x : ParcelSt) : State :=
  { s with fabric := { s.fabric with cad := upd Parcel.init s.fabric.cad parcel fun p => { p with st := x } } }

def insDev (d : Nat) (ds : List Nat) : List Nat := if ds.contains d then ds else ds ++ [d]

/-- A read of a parcel by peer d. -/
def State.grantRead (s : State) (parcel d : Nat) : State :=
  match (look Parcel.init s.fabric.cad parcel).st with
  | .uncached => s.setParcel parcel (.shared [d])
  | .shared ds => s.setParcel parcel (.shared (insDev d ds))
  | .owned e => if e = d then s else (s.recallFrom parcel e false).setParcel parcel (.shared [e, d])

/-- Ownership of a parcel for peer d: every other holder gives it up, this device's slices too, with FF as R312 has it
for a holder. -/
def State.grantWrite (s : State) (parcel d : Nat) : State :=
  let s := match (look Parcel.init s.fabric.cad parcel).st with
    | .uncached => s
    | .shared ds => (ds.filter fun e => e ≠ d).foldl (fun s e => s.ualink e (parcel * 2048) .invalidate) s
    | .owned e => if e = d then s else s.recallFrom parcel e true
  let top := ((parcelLines parcel).map fun pl => (s.l2 pl).rts).foldl max 0
  let had := (parcelLines parcel).any fun pl => (find (s.slice (s.homeSlice pl)).lines pl).isSome
  let s := (parcelLines parcel).foldl (fun s pl => (s.recallLease 128 pl false).evictSlice pl) s
  ({ s with ff := if had then max s.ff (top + 1) else s.ff } : State).setParcel parcel (.owned d)

/-- A message from a device declared lost is discarded with a record (R438). -/
def State.fromLost (s : State) (dev : Nat) : State :=
  s.append { sev := .corrected, src := 6, cause := 0x41, sub := 0, unit := dev }

/-- A message of device dev; one from a device declared lost is discarded with its record (R438). -/
def State.heard (s : State) (dev : Nat) (f : State → State) : State :=
  if s.fabric.lost.contains dev then s.fromLost dev else f s

/-- Bytes of this device's memory as they stand, in the slices or in DRAM. -/
def State.bytesNow (s : State) (pa n : Nat) : List Byte :=
  (List.range n).map fun i =>
    let a := pa + i
    match find (s.slice (s.homeSlice (a / 128))).lines (a / 128) with
    | some x => look 0 x.data (a % 128)
    | none => look 0 s.mem (localOf a)

/-- The answer to a device (R358, R359). -/
def State.reply (s : State) (dev pa : Nat) (bs : List Byte) : State := s.ualink dev pa (.reply bs [])

/-- Memory of this home as the answer to a device, with its poison (R407). -/
def State.replyMem (s : State) (dev pa n : Nat) : State :=
  s.ualink dev pa (.reply (s.bytesNow pa n) (poisonOf s.poison pa n))

/-- Bytes that a device's request writes within a parcel at its home: no earlier than FF (R310). -/
def State.peerStore (s : State) (pa : Nat) (bs : List Byte) : State :=
  (linesOf pa bs).foldl (fun s e =>
    let (_, s) := (s.recallLease 128 (e.1 / 128) false).lineStore (e.1 / 128) s.ff (offsets (e.1 % 128) e.2)
    { s with poison := clearPoison s.poison e.1 e.2.length }) s

/-- A device's atomic at its home: the old value goes back (R311, R358). -/
def State.peerAtomic (s : State) (dev pa n : Nat) (op : AtomOp) (y z : Nat) : State :=
  let old := ofBytes (s.bytesNow pa n)
  let s := match atomNew op (if n = 8 then .z64 else .z32) old y z with
    | some v => s.peerStore pa (toBytes n v)
    | none => s
  s.reply dev pa (toBytes n old)

/-- The proxy of a device's entry on a word. -/
def GazEntry.isProxy (e : GazEntry) (dev pa entry : Nat) : Bool :=
  e.pa == pa && match e.owner with | .proxy d k _ => d == dev && k == entry | _ => false

/-- A lane more waits through the proxy of a device's entry on a word; a new proxy stands last among the home's entries
(R351). -/
def State.addProxy (s : State) (dev pa entry : Nat) : State :=
  let more (e : GazEntry) : GazEntry := match e.owner with
    | .proxy d k l => if e.isProxy dev pa entry then { e with owner := .proxy d k (l + 1) } else e
    | _ => e
  if s.gaz.any fun e => e.isProxy dev pa entry then { s with gaz := s.gaz.map more }
  else
    { s with gaz := s.gaz ++ [{ die := s.gazDie pa 0, asid := 0, va := 0, pa := pa, owner := .proxy dev entry 1, lanes := []
                                id := s.gaz.foldl (fun m e => max m (e.id + 1)) 0 }] }

/-- The comparison of a device's WAITV at its home: status 1 where the word differs, 4 where no entry is free, and 0
where the lane waits. The proxy stands among the home's entries on the word, and counts the lanes of the device's entry
(R351). -/
def State.peerCompare (s : State) (dev pa n y entry : Nat) : State :=
  if ofBytes (s.bytesNow pa n) ≠ y then s.reply dev pa [1]
  else if (s.gaz.any fun e => e.isProxy dev pa entry) || s.gazFree (s.gazDie pa 0) then (s.addProxy dev pa entry).reply dev pa [0]
  else s.reply dev pa [4]

/-- An address of a page at its new home. -/
def inPage (base size a : Nat) : Bool := decide (base ≤ a) && decide (a < base + size)

/-- The lines of a page stand in the slices of their new home, each with its first time (R314 step 3). -/
def State.newLines (s : State) (new n t : Nat) : State :=
  (List.range (n / 128)).foldl (fun s i =>
    let pl := new / 128 + i
    s.setL2 pl { data := lineAt s.mem (localOf (pl * 128)), dirty := false, wts := t, rts := t }) s

/-- Gazetteer entries on words of a page follow it to its new home (R314). -/
def State.moveWaits (s : State) (old new n : Nat) : State :=
  { s with gaz := s.gaz.map fun e => if inPage old n e.pa then { e with pa := e.pa - old + new } else e }

/-- A device's page arrives at its new home (R314 steps 3 and 4): its bytes, its poison, its lines with their first time, and
those who wait on its words. What this device held of it at the old home is gone. -/
def State.receivePage (s : State) (old new n t : Nat) (bytes : Table Byte) (bad : List Nat) (waits : List (Nat × Nat × Nat)) : State :=
  let kept := s.mem.filter fun e => !inPage (localOf new) n e.1
  let s : State := { s with
    mem := bytes.foldl (fun t e => if e.1 < n then put 0 t (localOf new + e.1) e.2 else t) kept
    poison := bad.foldl (fun t k => markPoison t (new / 32 + k)) (s.poison.filter fun e => !inPage (new / 32) (n / 32) e.1)
    peer := s.peer.filter fun e => !inPage old n e.1 }
  let s := s.setFabric fun f => { f with held := f.held.filter fun e => !inPage old n (e.1 * 2048) }
  let s := ((s.newLines new n t).moveWaits old new n)
  waits.foldl (fun s w => if w.2.1 = s.devnum then s else s.addProxy w.2.1 (new + w.1) w.2.2) s

/-- A device's DRIFT at its home (R291). -/
def State.peerDrift (s : State) (dev pa minor lcl : Nat) (db : Bool) : State :=
  match minor with
  | 0 => let (k, s) := s.driftP (localOf pa) lcl; s.reply dev pa (toBytes 4 k)
  | 1 => let (k, s) := s.driftD (localOf pa); s.reply dev pa (toBytes 4 k)
  | _ => s.reply dev pa (toBytes 4 (s.driftWord (localOf pa) db lcl).toNat)

/-- The device that makes a request; none for this device's own agents. -/
def reqDev : ReqKind → Option Nat
  | .peerRead d _ _ | .peerWrite d | .rmw d _ _ | .atomic d _ _ _ _ _ | .compare d _ _ _ _ | .wake d _ _ _ _ _ | .drift d _ _ _ _
  | .join d | .proof d _ _ _ | .page d _ _ _ _ _ _ => some d
  | .homeRead | .homeWrite => none

/-- A device asks to join: the home's nonce (R422). -/
def State.askJoin (s : State) (dev pa : Nat) : State :=
  let nonce := (List.range 32).map fun i => BitVec.ofNat 8 (Config.choice s.draw (740000 + i))
  (s.ualink dev pa (.nonce nonce)).setFabric fun f => { f with nonces := put [] f.nonces dev nonce }

/-- The 40 bytes that a joining device hashes and signs (R422). -/
def joinInput (nonce : List Byte) (dev : Nat) (used : Bool) : List Byte :=
  nonce ++ toBytes 4 dev ++ toBytes 4 (if used then 1 else 0)

/-- The proof holds: signed over the nonce, with the key recorded at the device's first join (R422). -/
def Fabric.proves (f : Fabric) (dev : Nat) (used : Bool) (key sig : List Byte) : Bool :=
  let nonce := look [] f.nonces dev
  decide (nonce ≠ []) &&
    Config.dsaVerify ((find f.known dev).getD key) (toBytes 32 (sha3 (joinInput nonce dev used)).toNat) sig

/-- A joining device's proof, and the home's answer (R422). -/
def State.judgeJoin (s : State) (dev pa : Nat) (used : Bool) (key sig : List Byte) : State :=
  let answer := if !s.fabric.proves dev used key sig || used then 2 else if s.fenceCount dev ≠ 0 then 1 else 0
  (s.ualink dev pa (.joined answer)).setFabric fun f =>
    { f with nonces := put [] f.nonces dev []
             known := if answer = 0 ∧ find f.known dev = none then ins f.known dev key else f.known
             lost := if answer = 0 then f.lost.filter fun d => d ≠ dev else f.lost }

/-- What a request does at the parcel's home; base is where its parcel lies. A device that is lost is refused, its
request with record 0x41 (R421, R438); a fenced parcel gives nothing (R420); a poisoned word takes no indivisible kind
(R408). -/
def State.serve (s : State) (base : Nat) (r : ReqKind) : State :=
  let parcel := base / 2048
  let peer (d : Nat) (f : State → State) : State :=
    if s.fabric.lost.contains d then (s.fromLost d).ualink d base (.refused 7)
    else if (look Parcel.init s.fabric.cad parcel).fenced.isSome then s.ualink d base (.refused 7)
    else f s
  let within (d off n : Nat) (poison : Bool) (f : State → State) : State :=
    peer d fun s =>
      if 2048 < off + n then s
      else if poison && poisonedAt s.poison (base + off) n then s.ualink d base (.refused 5)
      else f (s.claim base true)
  match r with
  | .peerRead d off n => peer d fun s =>
    if 2048 < off + min n 256 then s else (s.grantRead parcel d).replyMem d (base + off) (min n 256)
  | .peerWrite d => peer d fun s => (s.grantWrite parcel d).reply d base []
  | .rmw d off bytes => within d off bytes.length true fun s => (s.peerStore (base + off) bytes).reply d (base + off) []
  | .atomic d off n op y z => within d off n true fun s => s.peerAtomic d (base + off) n op y z
  | .compare d off n y entry => within d off n true fun s => s.peerCompare d (base + off) n y entry
  | .wake d off asid va count time => within d off 4 false fun s =>
    let (k, s) := s.wakeKey (BitVec.ofNat 32 asid) (BitVec.ofNat 64 va) (base + off) count 0 (max time s.ff)
    s.reply d (base + off) (toBytes 4 k)
  | .drift d off minor lcl db => within d off 1 false fun s => s.peerDrift d (base + off) minor lcl db
  | .join d => s.askJoin d base
  | .proof d used key sig => s.judgeJoin d base used key sig
  | .page d old n t bytes bad waits => peer d fun s => s.receivePage old base n t bytes bad waits
  | .homeRead => s.claim base false
  | .homeWrite => s.claim base true

/-- The answer to a device among messages. -/
def PeerMsg.isAnswer : PeerMsg → Bool
  | .reply _ _ | .refused _ => true
  | _ => false

/-- The answer that a step from s to t gave device d: its address and content. -/
def answerOf (s t : State) (d : Nat) : Option (Nat × PeerMsg) :=
  let sent := (t.out.drop s.out.length).filterMap fun e => match e with
    | .ualink _ e pa _ m => some (e, pa, m)
    | _ => none
  let waits := (t.fabric.stuck.drop s.fabric.stuck.length).map fun w => (w.dev, w.pa, w.msg)
  ((sent ++ waits).find? fun e => e.1 == d && e.2.2.isAnswer).map (·.2)

/-- A tagged request is performed once: sent again, it gets the answer kept for its tag, of which the home keeps the last
4,096 of each device (R436). -/
def State.serveTagged (s : State) (base d k : Nat) (r : ReqKind) : State :=
  match (look [] s.fabric.answers d).find? fun e => e.1 == k with
  | some e => s.ualink d e.2.1 e.2.2
  | none =>
    let t := s.serve base r
    match answerOf s t d with
    | some e => t.setFabric fun f => { f with answers := put [] f.answers d (((k, e) :: look [] f.answers d).take 4096) }
    | none => t

/-- One request to a parcel of this home; one to a page under forwarding goes on to its new home (R314). A device with a
fatal record performs none of a peer's (R427). -/
def execCadastreRequest (parcel : Nat) (r : ParcelReq) (s : State) : Result :=
  let home := devOf (parcel * 2048)
  let base := s.fwd (parcel * 2048)
  .next (
    if home = s.devnum ∧ devOf base ≠ s.devnum then
      match reqDev r.kind with
      | some d => if s.fatal then s else s.toHome base (.forward d)
      | none => s
    else if devOf base ≠ s.devnum ∨ s.place base ≠ .dram then s
    else match reqDev r.kind, r.tag with
      | none, _ => (s.serve base r.kind).drawn
      | some d, some k => if s.fatal then s else (s.serveTagged base d k r.kind).drawn
      | some _, none => if s.fatal then s else (s.serve base r.kind).drawn)

/-- A peer's parcel is invalidated here (R312). -/
def execInvalidationReceive (parcel : Nat) (s : State) : Result :=
  let d := devOf (parcel * 2048)
  if d = s.devnum ∨ s.fatal then .next s
  else if s.fabric.lost.contains d then .next (s.fromLost d)
  else .next (((s.invalidateParcel parcel).forgetParcel parcel).toHome (parcel * 2048) .ack)

/-- An owned parcel is recalled without invalidation: modified lines go back, clean copies stay (R311). -/
def execRecallReceive (parcel : Nat) (s : State) : Result :=
  let d := devOf (parcel * 2048)
  if d = s.devnum ∨ s.fatal then .next s
  else if s.fabric.lost.contains d then .next (s.fromLost d)
  else
    let s := (parcelLines parcel).foldl (fun s pl => s.cleanSlice pl) s
    let s : State := if look .none s.fabric.held parcel = .owned then
        { s with fabric := { s.fabric with held := put .none s.fabric.held parcel .shared } }
      else s
    .next (s.toHome (parcel * 2048) .ack)

/-! ### Migration (R314, R366, R417) -/

/-- The pages of a migration: first old address, first new one, size. -/
def MemCtl.pages (m : MemCtl) : Nat × Nat × Nat := (m.migOld.toNat, m.migNew.toNat, 2 ^ (12 + 2 * m.migPs))

/-- MIGCTL 01 (R366): the page blocks, and its copy begins; ignored in any other state (R417). Accesses that arrive
meanwhile are those that step 4 performs. -/
def execMigrationStart (s : State) : Result :=
  if s.memctl.migSt ≠ .idle then .next s
  else .next ((s.setMem fun m => { m with migSt := .copying }).push .migrationCopyDone)

/-- Lines of a store move from one range of addresses to another. -/
def moveKeys (old new n : Nat) (t : Table α) : Table α :=
  let got := (t.filter fun e => inPage old n e.1).map fun e => (e.1 - old + new, e.2)
  got.foldl (fun t e => ins t e.1 e.2) (t.filter fun e => !inPage new n e.1)

/-- The lines that slices hold of a range. -/
def State.heldLines (s : State) (base n : Nat) : List Nat :=
  (s.slices.map fun e => (e.2.lines.map (·.1)).filter fun pl => inPage base n (pl * 128)).flatten

/-- Step 2 of R314: holders are recalled, dirty lines written back, and the page leaves the slices of its old home. -/
def State.emptyPage (s : State) (old n : Nat) : State :=
  let s := ((s.fabric.cad.map (·.1)).filter fun p => inPage old n (p * 2048)).foldl (fun s p => s.claim (p * 2048) true) s
  (s.heldLines old n).foldl (fun s pl => s.evictSlice pl) s

/-- The time that each line of a page starts with at the new home: later than every lease that the old home granted
(R314 step 3). -/
def State.pageTime (s : State) (old n : Nat) : Nat :=
  let held := (s.heldLines old n).map fun pl => (s.l2 pl).rts
  let floors := (List.range (n / 128)).map fun i => (s.slice (s.homeSlice (old / 128 + i))).mts
  1 + (held ++ floors).foldl max 0

/-- The new home on this device takes the page: its bytes and poison, and its lines with their time. -/
def State.takePage (s : State) (old new n t : Nat) : State :=
  let s := (s.heldLines new n).foldl (fun s pl => s.dropSlice pl) s
  let s : State := { s with mem := moveKeys (localOf old) (localOf new) n s.mem
                            poison := moveKeys (old / 32) (new / 32) (n / 32) s.poison }
  (s.newLines new n t).moveWaits old new n

/-- Who waits on the words of a page: for each lane the offset of the word, the device and the entry; a launch queue's
dependence counts as one. -/
def State.pageWaits (s : State) (old n : Nat) : List (Nat × Nat × Nat) :=
  ((s.gaz.filter fun e => inPage old n e.pa).map fun e => match e.owner with
    | .proxy d k l => List.replicate l (e.pa - old, d, k)
    | .queue _ => [(e.pa - old, s.devnum, e.id)]
    | .warp _ _ _ _ => List.replicate e.lanes.length (e.pa - old, s.devnum, e.id)).flatten

/-- The page goes to its new home on another device, which holds its bytes, and the proxies of those who wait on its words,
from then on. -/
def State.sendPage (s : State) (old new n t : Nat) : State :=
  let bytes := (s.mem.filter fun e => inPage (localOf old) n e.1).map fun e => (e.1 - localOf old, e.2)
  let bad := poisonOf s.poison old n
  let waits := s.pageWaits old n
  let s : State := { s with
    poison := moveKeys (old / 32) (new / 32) (n / 32) s.poison
    peer := (List.range n).foldl (fun t i => put none t (new + i) (some (look 0 bytes i))) s.peer
    gaz := s.gaz.filter fun e => !(inPage old n e.pa && match e.owner with | .proxy _ _ _ => true | _ => false) }
  (s.moveWaits old new n).toHome new (.page old n t bytes bad waits)

/-- Held slots that serve rows of a page that has moved are free (R414). -/
def State.freeHeld (s : State) (old n : Nat) : State :=
  (List.range (n / 1024)).foldl (fun s i =>
    let b := bankRow (localOf old + 1024 * i)
    match s.memctl.slotOf b.bankNo b.row with
    | some (k, x) => if x.held then s.setMem fun m => { m with slots := del m.slots k } else s
    | none => s) s

/-- Steps 2 and 3 of R314. -/
def State.copyPage (s : State) (old new n : Nat) : State :=
  let t := s.pageTime old n
  let s := (s.emptyPage old n).freeHeld old n
  if devOf new = s.devnum then s.takePage old new n t else s.sendPage old new n t

/-- The copy is made, and the old home forwards. -/
def execMigrationCopyDone (s : State) : Result :=
  let m := s.memctl
  let (old, new, n) := m.pages
  if m.migSt ≠ .copying then .next s
  else
    let s := if s.place old = .dram ∧ (s.place new).isDram ∧ !s.fabric.lost.contains (devOf new) then s.copyPage old new n else s
    .next { (s.setMem fun m => { m with migSt := .forwarding }) with draw := s.draw + 1 }

def execMigrationEndForward (s : State) : Result :=
  .next (if s.memctl.migSt = .forwarding then s.setMem fun m => { m with migSt := .done } else s)

/-! ### The move of a slice's lines (R435) -/

/-- The slice to retire and its replacement, on the same die. -/
def homeMove (v : Word) : Nat × Nat :=
  let n := bitsN v.toNat 6 0
  (n, n / 64 * 64 + bitsN v.toNat 14 8 % 64)

def execHmcmdGo (v : Word) (s : State) : Result :=
  let (n, m) := homeMove v
  let c := s.core n
  if !c.retired ∨ !c.slots.isEmpty ∨ !(s.slice n).regions.isEmpty ∨ (s.slice m).retired then
    .next (s.setMem fun x => { x with hmst := 1 })
  else .next ((s.setMem fun x => { x with hmst := 2 }).push .homeMoveDone)

/-- Lines of slice n go to slice m, later than every lease that n granted; HOMEMAP follows. -/
def State.moveHome (s : State) (n m : Nat) : State :=
  let x := s.slice n
  let t := 1 + max ((x.lines.map fun e => e.2.rts).foldl max 0) x.mts
  let s := (x.lines.map (·.1)).foldl (fun s pl => (s.cleanSlice pl).dropSlice pl) s
  let die := n / 64 * 64
  let names := ((List.range 64).map (die + ·)).filter fun k => s.homeOf k = n
  let s : State := { s with homemap := names.foldl (fun t k => if k = m then del t k else ins t k m) s.homemap }
  (s.modSlice m fun y => { y with mts := max y.mts t }).modSlice n fun y => { y with retired := true }

def execHomeMoveDone (s : State) : Result :=
  if s.memctl.hmst ≠ 2 then .next s
  else
    let (n, m) := homeMove s.memctl.hmcmd
    let s := (s.moveHome n m).setMem fun x => { x with hmst := 0 }
    .next (s.append { sev := .corrected, src := 1, cause := 0x30, sub := 0, unit := n })

/-- MCFG (R366). -/
def execMcfgLock (v : Word) (s : State) : Result :=
  if s.memctl.lock then .next s
  else
    let s : State := if v.toNat % 16 ≤ 8 then { s with pinned := v.toNat % 16 } else s
    .next (s.setMem fun m => { m with lock := v.getLsbD 31 })

/-! ### DRAM (R283, R406, R407, R416, R450) -/

/-- A bank's refresh, when it takes the timings of the plan in force and its data retention, a free value, is measured (R447);
it closes the bank, and an RFM command ends the
count of activations that made it due (R283). -/
def execDramRefresh (bank : Nat) (rfm : Bool) (s : State) : Result :=
  .next { s with
    memctl := { s.memctl with openRow := put 0 s.memctl.openRow bank 0, raa := if rfm then put 0 s.memctl.raa bank 0 else s.memctl.raa }
    draw := s.draw + 1
    survey := { s.survey with
      retention := put 0 s.survey.retention bank (BitVec.ofNat 32 (Config.choice s.draw (770000 + bank % 8192)))
      refreshes := upd 0 s.survey.refreshes bank (· + 1), bankPlan := put 0 s.survey.bankPlan bank s.survey.adopted } }

/-- A corrected error of a pseudo-channel's segment is counted within 2^30 ticks (R416). -/
def State.countEcc (s : State) (pc seg : Nat) : State :=
  let k := pc * 2 + seg
  let (n, t) := look (0, 0) s.memctl.eccCount k
  let (n, t) := if n = 0 ∨ 2 ^ 30 < s.time.toNat - t.toNat then (1, s.time) else (n + 1, t)
  let put' (s : State) (x : Nat × DWord) : State := s.setMem fun m => { m with eccCount := put (0, 0) m.eccCount k x }
  if s.memctl.ecthr.toNat ≤ n then
    (put' s (0, 0)).append { sev := .degraded, src := 3, cause := 0x2D, sub := seg, unit := pc }
  else put' s (n, t)

/-- The segment that serves a local address: crest (0) for the pinned window and for a row that a slot serves, else apron (1)
(R284, R416). -/
def State.segmentOf (s : State) (a : Nat) : Nat :=
  let b := bankRow a
  if 0x00B400000000 ≤ a then 0 else match s.memctl.slotOf b.bankNo b.row with
    | some (_, x) => if x.busy = .promote then 1 else 0
    | none => 1

/-- A controller reads one sector of the DRAM: it corrects, or finds the sector poisoned. -/
def State.patrolDram (s : State) (sector : Nat) (r : EccResult) : State :=
  let pa := s.devnum * 2 ^ 45 + 32 * sector
  let b := bankRow (localOf pa)
  let pc := b.bankNo / 64
  let rec_ (sev : Sev) (cause : Nat) : Record :=
    { sev := sev, src := 3, cause := cause, sub := 1, unit := pc, addr := BitVec.ofNat 64 pa }
  let k := pa / 32
  let overwritten := match find (s.slice (s.homeSlice (pa / 128))).lines (pa / 128) with | some x => x.dirty | none => false
  if s.place pa ≠ .dram then s
  else match r with
    | .clean => if (find s.poison k).isSome then s.append (rec_ .contained 0x2A) else s
    | .corrected => (s.append (rec_ .corrected 0x29)).countEcc pc (s.segmentOf (localOf pa))
    | .uncorrectable =>
      let s : State := if overwritten then s else { s with poison := markPoison s.poison k }
      s.append (rec_ .contained 0x2A)

/-- The record of an error that a slice, or the L1 and stash of a core, finds in what it holds (R397, R406, R426). -/
def State.eccRecord (s : State) (site : EccSite) (fatal : Bool) : State :=
  let cause := if fatal then 0x2A else 0x29
  let sev : Sev := if fatal then .contained else .corrected
  let slice (n sub : Nat) (pa : Nat) : State :=
    s.append { sev := sev, src := 1, cause := cause, sub := sub, unit := n, addr := BitVec.ofNat 64 pa }
  let core (n : Nat) : State := s.recordErr n
    { cause := cause, sub := 3, sev := sev, unit := 3, lane := 0, wid := 0, task := 0, addr := 0 }
  match site with
  | .dram _ => s
  | .slice k => slice (s.homeSlice (k / 4)) 2 (32 * k)
  | .region h _ _ => slice h 4 0
  | .stash n _ | .l1 n _ => core n

/-- The sector that an uncorrectable error poisons; a copy in an L1 is dropped instead (R406, R407, R413, R418). -/
def State.poisonSite (s : State) : EccSite → State
  | .dram k | .slice k => { s with poison := markPoison s.poison k }
  | .region h line k => s.modSlice h fun x => { x with regions := match find x.regions line with
      | some r => ins x.regions line { r with poison := if r.poison.contains k then r.poison else k :: r.poison }
      | none => x.regions }
  | .stash n k => s.modCore n fun c => { c with stashPoison := markPoison c.stashPoison k }
  | .l1 n line => s.dropL1 n line

/-- A guarded sector is read with the result r: the patrol of DRAM, or an error that a unit finds in what it holds
(R406, R407). -/
def execDramPatrolRead (site : EccSite) (r : EccResult) (s : State) : Result :=
  .next (match site, r with
    | .dram k, r => s.patrolDram k r
    | _, .clean => s
    | .l1 n line, _ => (s.poisonSite (.l1 n line)).eccRecord (.l1 n line) false
    | site, .corrected => s.eccRecord site false
    | site, .uncorrectable => (s.poisonSite site).eccRecord site true)

/-- The on-die ECC count of a stack. -/
def execEccCountRead (stack : Nat) (n : Word) (s : State) : Result :=
  .next (if stack < 12 then s.setMem fun m => { m with eccStack := put 0 m.eccStack stack n } else s)

end Sys2Proof.Machine
end

