-- ==== Sys2Proof/Machine/Iommu.lean ====
section
/-! DEFINITION. The IOMMU, interrupt messages and root ports (R352–R357, R439–R441). -/

namespace Sys2Proof.Machine

/-! ### Translation (R355) -/

/-- What an endpoint's access needs. -/
structure IoAcc where
  rd : Bool
  wr : Bool
  deriving DecidableEq, Repr

/-- A refusal: its reason (R439) and the stage. -/
structure IoStop where
  reason : Nat
  stage : Nat
  deriving DecidableEq, Repr

/-- A leaf found by a walk of the IOMMU: where the address leads, its permissions, and whether the access is of device
type. -/
structure IoLeaf where
  pa : Nat
  rd : Bool
  wr : Bool
  dev : Bool
  deriving DecidableEq, Repr

/-- A and D of a leaf (R272). -/
def State.ioSetAD (s : State) (at_ : Nat) (p : DWord) (wr : Bool) : State :=
  let need : DWord := (if pteBit p 8 then 0 else 0x100) ||| (if wr && !pteBit p 9 then 0x300 else 0)
  if need = 0 then s else s.devWrite at_ (toBytes 8 (p ||| need).toNat)

/-- A walk whose table addresses go through f; a failure carries its reason (R270–R272). -/
def State.ioWalk (f : State → Nat → Except IoStop Nat × State) (bad : IoStop) (acc : IoAcc) (va : Nat) :
    Nat → Nat → Nat → State → Except IoStop IoLeaf × State
  | 0, _, _, s => (.error bad, s)
  | fuel + 1, table, level, s =>
    match f s (table + 8 * vaIndex va level) with
    | (.error e, s) => (.error e, s)
    | (.ok at_, s) =>
      if !(s.place at_).isDram then (.error bad, s)
      else if (s.badData at_ 8).isSome then (.error { bad with reason := 9 }, s)
      else
        let (x, s) := s.readNat at_ 8
        let p : DWord := BitVec.ofNat 64 x
        if !pteBit p 0 || malformed level p then (.error bad, s)
        else if pteBit p 1 then
          if (acc.rd && !pteBit p 3) || (acc.wr && !pteBit p 4) then (.error { bad with reason := 7 }, s)
          else
            (.ok { pa := ptePa p + va % pteSize p, rd := pteBit p 3, wr := pteBit p 4, dev := pteMt p == 2 }, s.ioSetAD at_ p acc.wr)
        else State.ioWalk f bad acc va fuel (bitsN x 55 16 * 65536) (level + 1) s

/-- An address under a root in the format of %ptroot: itself where V = 0. -/
def State.ioRoot (s : State) (f : State → Nat → Except IoStop Nat × State) (bad : IoStop) (acc : IoAcc) (root : DWord) (va : Nat) :
    Except IoStop IoLeaf × State :=
  if !root.getLsbD 0 then (if 2 ^ 56 ≤ va then (.error bad, s) else (.ok { pa := va, rd := true, wr := true, dev := false }, s))
  else State.ioWalk f bad acc va 4 (bitsN root.toNat 55 16 * 65536) 0 s

/-- A device table entry (R354). -/
structure IoDev where
  s1 : Bool
  s2 : Bool
  pe : Bool
  part : Nat
  dpasid : Nat
  pasidn : Nat
  ptb : Nat
  rtb : Nat
  rtn : Nat
  deriving DecidableEq, Repr

def State.localAddr (s : State) (a : Nat) : Nat := s.devnum * 2 ^ 45 + a % 2 ^ 45

/-- The entry of a requester, or why there is none. -/
def State.ioDev (s : State) (rid : Nat) : Except IoStop IoDev × State :=
  if !s.io.en then (.error ⟨1, 0⟩, s)
  else
    let at_ := s.localAddr (bitsN s.io.iodtb.toNat 55 21 * 2 ^ 21 + 32 * rid)
    if (s.badData at_ 32).isSome then (.error ⟨9, 0⟩, s)
    else
      let (d, s) := s.readNat at_ 32
      let w := dField d 0 4
      if w % 2 = 0 then (.error ⟨2, 0⟩, s)
      else
        (.ok { s1 := w.testBit 1, s2 := w.testBit 2, pe := w.testBit 3, part := bitsN w 9 4, dpasid := bitsN w 31 12
               pasidn := dField d 4 4 % 2 ^ 21, ptb := dField d 8 8, rtb := dField d 16 8, rtn := dField d 24 8 % 2 ^ 17 }, s)

/-- Stage 2 of an intermediate address, where the entry has it. -/
def State.stage2 (s : State) (e : IoDev) (acc : IoAcc) (ipa : Nat) : Except IoStop IoLeaf × State :=
  if !e.s2 then (.ok { pa := ipa, rd := true, wr := true, dev := false }, s)
  else
    let at_ := s.localAddr (bitsN s.io.ioptb.toNat 55 10 * 1024 + 16 * e.part)
    if (s.badData at_ 16).isSome then (.error ⟨9, 2⟩, s)
    else
      let (root, s) := s.readNat at_ 8
      s.ioRoot (fun s a => (.ok a, s)) ⟨6, 2⟩ acc (BitVec.ofNat 64 root) ipa

/-- Stage 1, its table addresses being intermediate ones. -/
def State.stage1 (s : State) (e : IoDev) (x : Nat) (acc : IoAcc) (ba : Nat) : Except IoStop IoLeaf × State :=
  if !e.s1 then (.ok { pa := ba, rd := true, wr := true, dev := false }, s)
  else
    let at_ := s.localAddr (e.ptb + 16 * x)
    if (s.badData at_ 16).isSome then (.error ⟨9, 1⟩, s)
    else
      let (d, s) := s.readNat at_ 16
      if !d.testBit 127 then (.error ⟨4, 1⟩, s)
      else
        s.ioRoot (fun s a => match s.stage2 e ⟨true, false⟩ a with | (.ok l, s) => (.ok l.pa, s) | (.error r, s) => (.error r, s))
          ⟨5, 1⟩ acc (BitVec.ofNat 64 d) ba

/-- PASID of a request (R355). -/
def ioPasid (r : IoReq) (e : IoDev) : Nat :=
  match r.pasid with
  | some p => if e.pe then p.toNat else e.dpasid
  | none => e.dpasid

/-- Both stages by the tables. -/
def State.ioTables (s : State) (e : IoDev) (x : Nat) (acc : IoAcc) (ba : Nat) : Except IoStop IoLeaf × State :=
  match s.stage1 e x acc ba with
  | (.error r, s) => (.error r, s)
  | (.ok l, s) =>
    match s.stage2 e acc l.pa with
    | (.error r, s) => (.error r, s)
    | (.ok m, s) => (.ok { pa := m.pa, rd := l.rd && m.rd, wr := l.wr && m.wr, dev := l.dev || m.dev }, s)

/-- A translation in the form that the IOMMU keeps it. -/
def IoLeaf.code (l : IoLeaf) : Nat := l.pa / 4096 * 8 + (if l.rd then 1 else 0) + (if l.wr then 2 else 0) + (if l.dev then 4 else 0)

def ioKept (v ba : Nat) : IoLeaf := 
  { pa := v / 8 * 4096 + ba % 4096, rd := v.testBit 0, wr := v.testBit 1, dev := v.testBit 2 }

def IoLeaf.allows (l : IoLeaf) (acc : IoAcc) : Bool := (!acc.rd || l.rd) && (!acc.wr || l.wr)

/-- Where a bus address leads: the tables' answer, or a kept one that differs, unspecified until it is dropped (R274,
R356). -/
def State.ioTranslate (s : State) (r : IoReq) (e : IoDev) (acc : IoAcc) (ba : Nat) : Except IoStop IoLeaf × State :=
  let x := ioPasid r e
  if e.pasidn ≤ x then (.error ⟨3, 1⟩, s)
  else
    let mine (k : IoKept) : Bool := k.rid == r.rid.toNat && k.pasid == x && !k.remap && k.key == ba / 4096
    let old := s.io.kept.find? mine
    let (now, s) := s.ioTables e x acc ba
    let stale := (old.map fun k => ioKept k.val ba).toList.filter fun l => l.allows acc && match now with
      | .ok m => m != l
      | .error _ => true
    match s.oneOf now (stale.map .ok) with
    | (.error e, s) => (.error e, s)
    | (.ok l, s) =>
      let s : State := match now, old with
        | .ok l, none => { s with io := { s.io with kept := { rid := r.rid.toNat, pasid := x, part := if e.s2 then e.part else 64
                                                              remap := false, key := ba / 4096, val := l.code } :: s.io.kept } }
        | _, _ => s
      let where_ := if e.s2 then 2 else 1
      match s.place l.pa with
      | .control | .rom | .peerControl => (.error ⟨8, where_⟩, s)
      | .reserved => (.error ⟨if e.s2 then 6 else 5, where_⟩, s)
      | p => (.ok { l with dev := l.dev || p.isPort }, s)

/-! ### Refusals (R439) -/

/-- A record about a requester. -/
def State.ioRecord (s : State) (rid x : Nat) (addr : DWord) (e : IoStop) : State :=
  s.append { sev := .contained, src := 5, cause := 0x38, sub := e.reason, unit := rid, addr := addr
             detail0 := BitVec.ofNat 32 (x % 2 ^ 20 + e.stage * 2 ^ 20) }

/-- At most one record of a requester in 2^20 ticks; further refusals count. -/
def State.ioRefuse (s : State) (rid x : Nat) (addr : DWord) (e : IoStop) : State :=
  let recent := match find s.io.recAt rid with | some t => decide ((s.time - t).toNat < 2 ^ 20) | none => false
  if recent then { s with io := { s.io with ioref := satInc s.io.ioref } }
  else
    let s := s.ioRecord rid x addr e
    { s with io := { s.io with recAt := ins s.io.recAt rid s.time } }

/-! ### Interrupt messages (R357) -/

/-- An interrupt write that is dropped. -/
def State.msiDrop (s : State) (unit : Nat) : State :=
  s.append { sev := .contained, src := 5, cause := 0x39, sub := 0, unit := unit }

/-- What a remap entry does. -/
def State.msiAct (s : State) (unit d : Nat) : State :=
  let w := dField d 0 4
  if w % 2 = 0 then s.msiDrop unit
  else if w.testBit 1 then
    s.modCore (bitsN w 8 2) fun c => { c with ipendEdge := c.ipendEdge ||| BitVec.ofNat 32 (2 ^ (16 + bitsN w 12 9)) }
  else
    let asid := w / 65536
    let kva : DWord := BitVec.ofNat 64 (dField d 8 8)
    let inc := w.testBit 13
    match s.translateAsid asid (if inc then .rmw else .wake) kva.toNat with
    | (none, s) => s.msiDrop unit
    | (some x, s) =>
      let pa := s.fwd x.pa - s.fwd x.pa % 4
      let plain := (s.place pa).isDram && (s.badData pa 4).isNone
      let (t, s) : Nat × State :=
        if inc && plain then
          let s := s.claim pa true
          let (v, s) := s.readNat pa 4
          let (t, s) := s.lineStore (pa / 128) s.agentTime (offsets (pa % 128) (toBytes 4 (v + 1)))
          (t, { s with poison := clearPoison s.poison pa 4 })
        else (s.agentTime, s)
      s.msiWake (BitVec.ofNat 32 asid) kva pa (dField d 4 4) t

/-- Entry i of a remap table, or the one kept of it. -/
def State.msiEntry (s : State) (rid part at_ i : Nat) : Nat × State :=
  let (now, s) := s.readNat at_ 16
  let mine (k : IoKept) : Bool := k.rid == rid && k.remap && k.key == i
  match s.io.kept.find? mine with
  | some k => s.oneOf now (if k.val = now then [] else [k.val])
  | none =>
    (now, if now % 2 = 0 then s
      else { s with io := { s.io with kept := { rid := rid, pasid := 0, part := part, remap := true, key := i, val := now } :: s.io.kept } })

/-- An interrupt write by an endpoint, or by a peer through UIMSG; one of a device declared lost is discarded with its record
(R438). -/
def State.msi (s : State) (by_ : IrqBy) (data : Word) : State :=
  let i := data.toNat % 65536
  match by_ with
  | .peer dev =>
    if s.fabric.lost.contains dev then s.fromLost dev
    else if s.fabric.uirtn.toNat ≤ i then s.msiDrop 0
    else
      let (d, s) := s.readNat (s.localAddr (s.fabric.uirtb.toNat + 16 * i)) 16
      s.msiAct 0 d
  | .endpoint r _ =>
    match s.ioDev r.toNat with
    | (.error e, s) => s.ioRefuse r.toNat 0 0 e
    | (.ok e, s) =>
      let at_ := s.localAddr (e.rtb + 16 * i)
      if e.rtn ≤ i then s.msiDrop r.toNat
      else if (s.badData at_ 16).isSome then s.ioRefuse r.toNat 0 0 ⟨9, 0⟩
      else
        let (d, s) := s.msiEntry r.toNat e.part at_ i
        s.msiAct r.toNat d

/-- The network interface of a root port's IOMMU, and of a UALink port's engine (R15, R327). -/
def rootUnit (port : Nat) : Nat := 128 + port / 4 % 2 * 64
def linkUnit (port : Nat) : Nat := 128 + port / 8 % 2 * 64

/-- The unit that an interrupt write reaches: of a peer's, that of the port of the device's first plane (log entry 126). -/
def State.irqUnit (s : State) : IrqBy → Nat
  | .endpoint _ port => rootUnit port
  | .peer _ => linkUnit (s.planePort (s.localAddr 0))

def execInterruptMessageWrite (by_ : IrqBy) (data : Word) (s : State) : Result :=
  .next (s.asUnit (s.irqUnit by_) (.interruptMessageWrite by_ data) fun s => s.msi by_ data).drawn

/-! ### Endpoint requests (R354, R355, R407, R408, R441) -/

/-- Bytes of a request in parts that cross no 4 KiB boundary. -/
def pageParts : Nat → Nat → Nat → List (Nat × Nat)
  | 0, _, _ => []
  | _, _, 0 => []
  | fuel + 1, a, n =>
    let k := min n (4096 - a % 4096)
    (a, k) :: pageParts fuel (a + k) (n - k)

def ioParts (a n : Nat) : List (Nat × Nat) := pageParts (n / 4096 + 2) a n

/-- One part of a request where it is performed: address, length, and whether as an access of device type (R355). -/
structure IoPart where
  pa : Nat
  n : Nat
  dev : Bool
  deriving DecidableEq, Repr

/-- Every part translated, or the first refusal. -/
def State.ioPlaces (s : State) (r : IoReq) (e : IoDev) (acc : IoAcc) : List (Nat × Nat) → Except IoStop (List IoPart) × State
  | [] => (.ok [], s)
  | (a, n) :: ps =>
    match s.ioTranslate r e acc a with
    | (.error x, s) => (.error x, s)
    | (.ok l, s) =>
      match s.ioPlaces r e acc ps with
      | (.error x, s) => (.error x, s)
      | (.ok qs, s) => (.ok (⟨l.pa, n, l.dev⟩ :: qs), s)

/-- An access of device type finds and leaves its lines in memory alone (R277, R355). -/
def State.giveUpLines (s : State) (p : IoPart) : State :=
  if p.dev then (lineParts (p.n / 128 + 2) (s.fwd p.pa) p.n).foldl (fun s e => s.evictSlice (e.1 / 128)) s else s

/-- The bytes of a part for an endpoint, and whether they are poisoned. -/
def State.ioRead (s : State) (p : IoPart) : List Byte × Bool × State :=
  let pa := p.pa
  let n := p.n
  if s.place pa = .port then
    ((List.range n).map fun i => Config.portByte (pa + i) s.draw, !s.portUp (portOf pa),
      s.emit (.tlpRead (portOf pa) (BitVec.ofNat 64 (localOf pa)) n))
  else
    let bad := (List.range (n / 32 + 2)).any fun k => (s.badData (max pa (pa / 32 * 32 + 32 * k)) 1).isSome && decide (pa / 32 * 32 + 32 * k < pa + n)
    let (bs, s) := (s.giveUpLines p).devRead pa n
    (bs, bad, s.giveUpLines p)

/-- Bytes of an endpoint's write; poisoned ones poison their sectors. -/
def State.ioWrite (s : State) (p : IoPart) (bs : List Byte) (poisoned : Bool) : State :=
  let pa := p.pa
  if s.place pa = .port then (if s.portUp (portOf pa) then s.emit (.tlpWrite (portOf pa) (BitVec.ofNat 64 (localOf pa)) bs) else s)
  else if (s.barred pa bs.length).isSome then s
  else
    let s := ((s.giveUpLines p).devWrite pa bs).giveUpLines p
    if !poisoned ∨ bs = [] then s
    else
      let pa := s.fwd pa
      { s with poison := (List.range ((pa % 32 + bs.length + 31) / 32)).foldl (fun t k => markPoison t (pa / 32 + k)) s.poison }

/-- An indivisible request of n bytes: the old value, and whether it was poisoned. -/
def State.ioAtomic (s : State) (p : IoPart) (n : Nat) (op : AtomOp) (y z : Nat) (f : Nat → Option Nat) : List Byte × Bool × State :=
  let pa := p.pa
  if s.place pa = .port then
    ((List.range n).map fun i => Config.portByte (pa + i) s.draw, !s.portUp (portOf pa),
      s.emit (.tlpAtomic (portOf pa) (BitVec.ofNat 64 (localOf pa)) n op y z))
  else if (s.badData pa n).isSome then ([], true, s)
  else
    let (bs, s) := ((s.giveUpLines p).claim pa true).devRead pa n
    match f (ofBytes bs) with
    | some v => (bs, false, (s.devWrite pa (toBytes n v)).giveUpLines p)
    | none => (bs, false, s.giveUpLines p)

def ioAcc : IoKind → IoAcc
  | .read _ | .ats => ⟨true, false⟩ | .write _ => ⟨false, true⟩ | .fetchAdd _ _ | .swap _ _ | .cas _ _ _ => ⟨true, true⟩

def ioLen : IoKind → Nat
  | .read n | .fetchAdd n _ | .swap n _ | .cas n _ _ => n | .write bs => bs.length | .ats => 0

/-- A completion: data, or none of it where poison was met (R408). -/
def State.ioComplete (s : State) (rid : Nat) (bs : List Byte) (bad : Bool) : State :=
  s.emit (.completion rid (if bad then [] else bs) bad)

/-- A request whose parts are translated is performed. -/
def State.ioPerform (s : State) (r : IoReq) (ps : List IoPart) : State :=
  let rid := r.rid.toNat
  let first := ps.headD ⟨0, 0, false⟩
  let atomic (n : Nat) (op : AtomOp) (y z : Nat) (f : Nat → Option Nat) : State :=
    let (bs, bad, s) := s.ioAtomic first n op y z f
    s.ioComplete rid bs bad
  match r.kind with
  | .read _ =>
    let (bs, bad, s) : List Byte × Bool × State := ps.foldl (fun (acc : List Byte × Bool × State) p =>
      let (bs, bad, s) := acc.2.2.ioRead p
      (acc.1 ++ bs, acc.2.1 || bad, s)) ([], false, s)
    s.ioComplete rid bs bad
  | .write bs =>
    (ps.foldl (fun (acc : List Byte × State) p => (acc.1.drop p.n, acc.2.ioWrite p (acc.1.take p.n) r.poisoned)) (bs, s)).2
  | .fetchAdd n v => atomic n .add v.toNat 0 fun x => some (x + v.toNat)
  | .swap n v => atomic n .exch v.toNat 0 fun _ => some v.toNat
  | .cas n c v => atomic n .cas c.toNat v.toNat fun x => if x = c.toNat % 256 ^ n then some v.toNat else none
  | .ats => s

/-- The bus addresses of interrupt writes. -/
def isMsi (r : IoReq) : Option Word :=
  match r.kind with
  | .write bs => if bs.length = 4 ∧ 0xFFF8000000 ≤ r.addr.toNat ∧ r.addr.toNat ≤ 0xFFF80FFFFF then some (BitVec.ofNat 32 (ofBytes bs)) else none
  | _ => none

/-- A request that gets no access: posted writes drop, the rest complete with Unsupported Request. -/
def State.ioUnserved (s : State) (r : IoReq) : State :=
  match r.kind with | .write _ => s | _ => s.emit (.unsupported r.rid.toNat)

/-- One request of an endpoint. -/
def State.endpoint (s : State) (r : IoReq) : State :=
  if !s.portUp r.port ∨ (r.ecrcBad ∧ s.ecrcCheck r.port) then s
  else
    match isMsi r with
    | some d => s.msi (.endpoint r.rid r.port) d
    | none =>
      if r.kind = .ats then s.ioUnserved r
      else
        match s.ioDev r.rid.toNat with
        | (.error e, s) => (s.ioRefuse r.rid.toNat 0 r.addr e).ioUnserved r
        | (.ok e, s) =>
          match s.ioPlaces r e (ioAcc r.kind) (ioParts r.addr.toNat (ioLen r.kind)) with
          | (.error x, s) => (s.ioRefuse r.rid.toNat (ioPasid r e) r.addr x).ioUnserved r
          | (.ok ps, s) => s.ioPerform r ps

def execEndpointRequest (r : IoReq) (s : State) : Result :=
  .next (s.asUnit (rootUnit r.port) (.endpointRequest r) fun s => s.endpoint r).drawn

/-! ### IOCMD (R356) -/

def State.dropKept (s : State) (p : IoKept → Bool) : State :=
  { s with io := { s.io with kept := s.io.kept.filter fun k => !p k } }

def execIommuInvAll (s : State) : Result := .next (s.dropKept fun _ => true)
def execIommuInvPartition (arg : Word) (s : State) : Result := .next (s.dropKept fun k => k.part == arg.toNat % 64)
def execIommuInvRequester (arg : Word) (s : State) : Result := .next (s.dropKept fun k => k.rid == arg.toNat % 65536)
def execIommuInvPasid (arg : Word) (s : State) : Result := .next (s.dropKept fun k => !k.remap && k.pasid == arg.toNat % 2 ^ 20)
def execIommuInvRemap (arg : Word) (s : State) : Result := .next (s.dropKept fun k => k.remap && k.rid == arg.toNat % 65536)

/-! ### Root ports (R352, R441) -/

/-- 50 ms passed without a completion. -/
def execRootPortCompletionTimeout (port : Nat) (s : State) : Result := .next (s.portFailed port 14)

def execRootPortLinkDown (port : Nat) (s : State) : Result :=
  if !s.portUp port then .next s
  else
    let s : State := { s with io := { s.io with portUp := put false s.io.portUp port false, portRate := put 0 s.io.portRate port 0 } }
    .next (s.append { sev := .degraded, src := 5, cause := 0x3C, sub := 0, unit := port })

/-- A reported error sets its status bit in the port's AER capability (R352, R441). -/
def execRootPortAerEvent (port : Nat) (unc : Bool) (bit : BitVec 8) (s : State) : Result :=
  .next ((s.aerStatus port unc bit.toNat).append
    { sev := if unc then .contained else .corrected, src := 5, cause := if unc then 0x3B else 0x3A, sub := bit.toNat
      unit := port })

def execRootPortLinkTrained (port : Nat) (rate : Nat) (s : State) : Result :=
  .next (if s.io.hasPort port then
      { s with io := { s.io with portUp := put false s.io.portUp port true, portRate := put 0 s.io.portRate port rate } }
    else s)

end Sys2Proof.Machine
end

