-- ==== Sys2Proof/Machine/Ue.lean ====
section
/-! DEFINITION. Ultra Ethernet: queue pairs, descriptors, completions and writes from the remote side (R360, R361, R408,
R442). -/

namespace Sys2Proof.Machine

/-- The context of a queue pair (R360). -/
structure UeCtx where
  sq : Nat
  cq : Nat
  cx : XCx
  sqLog : Nat
  cqLog : Nat
  valid : Bool
  ordered : Bool
  remote : Nat
  cwva : DWord
  deriving DecidableEq, Repr

def State.ueCtx (s : State) (p q : Nat) : UeCtx × State :=
  let at_ := s.localAddr ((look 0 s.ue.qctxb p).toNat + 64 * q)
  let (d, s) := s.readNat at_ 64
  let w := dField d 0x18 4
  ({ sq := dField d 0 8, cq := dField d 8 8
     cx := { core := 0, ptroot := BitVec.ofNat 64 (dField d 0x10 8), asid := BitVec.ofNat 32 (w % 65536), user := false }
     sqLog := bitsN w 20 16, cqLog := bitsN w 25 21, valid := w.testBit 31, ordered := (dField d 0x1C 4).testBit 24
     remote := dField d 0x1C 4 % 2 ^ 24
     cwva := BitVec.ofNat 64 (dField d 0x20 8) }, s)

/-- Where n bytes of the queue pair's space lie; none where some page does not permit the access. -/
def State.uePlaces (s : State) (x : XCx) (acc : Acc) : List (Nat × Nat) → Option (List (Nat × Nat)) × State
  | [] => (some [], s)
  | (a, n) :: ps =>
    match s.translate x acc (a % 2 ^ 64) with
    | (.error _, s) => (none, s)
    | (.ok y, s) =>
      if (s.barred y.pa n).isSome ∨ (!(s.place y.pa).isDram) then (none, s)
      else
        match s.uePlaces x acc ps with
        | (none, s) => (none, s)
        | (some qs, s) => (some ((s.fwd y.pa, n) :: qs), s)

/-- What the engine reads: bytes, poison, or no permission. -/
inductive UeGot where | bytes (bs : List Byte) | poison | refused
  deriving DecidableEq, Repr

def State.ueGet (s : State) (x : XCx) (va n : Nat) : UeGot × State :=
  match s.uePlaces x .read (ioParts va n) with
  | (none, s) => (.refused, s)
  | (some ps, s) =>
    if ps.any fun p => poisonedAt s.poison p.1 p.2 then (.poison, s)
    else
      let (bs, s) := ps.foldl (fun (acc : List Byte × State) p =>
        let (bs, s) := acc.2.devRead p.1 p.2
        (acc.1 ++ bs, s)) ([], s)
      (.bytes bs, s)

/-- Bytes written at device scope in the queue pair's space, all of them or none. -/
def State.uePut (s : State) (x : XCx) (va : Nat) (bs : List Byte) : Bool × State :=
  match s.uePlaces x .write (ioParts va bs.length) with
  | (none, s) => (false, s)
  | (some ps, s) =>
    (true, (ps.foldl (fun (acc : List Byte × State) p => (acc.1.drop p.2, acc.2.devWrite p.1 (acc.1.take p.2))) (bs, s)).2)

def ueKey (p q : Nat) : Nat := p * 1024 + q
def State.ueQp (s : State) (p q : Nat) : UeQp := look UeQp.init s.ue.qps (ueKey p q)
def State.modQp (s : State) (p q : Nat) (f : UeQp → UeQp) : State :=
  { s with ue := { s.ue with qps := upd UeQp.init s.ue.qps (ueKey p q) f } }

/-- Software clears an error by V = 0 and then V = 1 in the context (R442). -/
def State.uePoll (s : State) (p q : Nat) : State :=
  if !(s.ueQp p q).err then s
  else
    let (c, s) := s.ueCtx p q
    s.modQp p q fun x => if !c.valid then { x with cleared := true } else if x.cleared then { x with err := false, cleared := false } else x

/-- Descriptor i of a queue pair: its 64 bytes. -/
def State.ueDesc (s : State) (c : UeCtx) (i : Nat) : UeGot × State := s.ueGet c.cx (c.sq + 64 * (i % 2 ^ c.sqLog)) 64

/-- Descriptor i is read and acted on: the local status, 0 where it went out (R408, R442), and its bytes. An operation
beyond the two has a status that no rule gives. -/
def State.ueStart (s : State) (p q i : Nat) : UeWait × State :=
  let (c, s) := s.ueCtx p q
  if (s.ueQp p q).err then (⟨i, 6, none⟩, s)
  else if !c.valid then (⟨i, 5, none⟩, s)
  else
    match s.ueDesc c i with
    | (.refused, s) => (⟨i, 4, none⟩, s)
    | (.poison, s) => (⟨i, 1, none⟩, s)
    | (.bytes bs, s) =>
      let met (st : Nat) (s : State) : UeWait × State := (⟨i, st, some bs⟩, s)
      let d := ofBytes bs
      let n := dField d 4 4
      let remote : DWord := BitVec.ofNat 64 (dField d 0x10 8)
      let rqp := dField d 0x18 8 % 1024
      match dField d 0 4 with
      | 0 =>
        match s.ueGet c.cx (dField d 8 8) n with
        | (.refused, s) => met 4 s
        | (.poison, s) => met 1 s
        | (.bytes xs, s) => met 0 (s.emit (.ueWrite p c.remote rqp remote xs))
      | 1 => met 0 (s.emit (.ueRead p c.remote rqp remote n))
      | _ => met (pickFrom (Config.choice s.draw (988000 + i % 1024)) 2 [3, 4, 5]) s

/-- One descriptor finishes with a status: completion, count word and wake; an error status stops the queue pair. -/
def State.ueFinish (s : State) (p q : Nat) (e : UeWait) (st : Nat) : State :=
  let x := s.ueQp p q
  let (c, s) := s.ueCtx p q
  let st := if x.err then 6 else st
  let (cookie, len) : Nat × Nat := match e.desc with
    | some bs => (dField (ofBytes bs) 0x20 8, dField (ofBytes bs) 4 4)
    | none => (Config.choice s.draw 989000, 0)
  let moved := match st with | 0 => len | 1 | 5 | 6 => 0 | _ => Config.choice s.draw 989001
  let (_, s) := s.uePut c.cx (c.cq + 16 * (x.compl % 2 ^ c.cqLog)) (toBytes 8 cookie ++ toBytes 4 moved ++ toBytes 4 st)
  let s : State := match s.translate c.cx .rmw c.cwva.toNat with
    | (.error _, s) => s
    | (.ok y, s) =>
      let pa : Nat := s.fwd y.pa - s.fwd y.pa % 4
      if (s.badData pa 4).isSome ∨ (!(s.place pa).isDram) then s
      else
        let s := s.claim pa true
        let (v, s) := s.readNat pa 4
        let (t, s) := s.lineStore (pa / 128) s.agentTime (offsets (pa % 128) (toBytes 4 (v + 1)))
        let s : State := { s with poison := clearPoison s.poison pa 4 }
        (s.wakeAt c.cx.asid c.cwva pa 0 t).2
  let s := s.modQp p q fun x =>
    { x with compl := x.compl + 1, pending := x.pending.filter fun y => y.i ≠ e.i
             err := x.err || (decide (2 ≤ st) && decide (st ≤ 5)), cleared := if x.err then x.cleared else false }
  if 2 ≤ st ∧ st ≤ 5 then s.append { sev := .contained, src := 7, cause := 0x43, sub := st, unit := p } else s

/-- Descriptors that met a local status finish, in order where delivery is ordered. -/
def State.ueFlush (p q : Nat) (ordered : Bool) : Nat → State → State
  | 0, s => s
  | fuel + 1, s =>
    let ps := (s.ueQp p q).pending
    match (if ordered then ps.head?.filter fun e => e.st ≠ 0 else ps.find? fun e => e.st ≠ 0) with
    | some e => State.ueFlush p q ordered fuel (s.ueFinish p q e e.st)
    | none => s

/-- The network interface of an Ethernet port's engine (R15, R327). -/
def ueUnit (port : Nat) : Nat := 128 + port % 2 * 64

/-- A queue pair has descriptors announced that its engine has not begun. -/
def UeQp.waits (x : UeQp) : Bool := x.count != BitVec.ofNat 32 x.done

/-- The engine of a queue pair reads the descriptors up to the count in ring order and acts on them (R361). -/
def State.ueRun (s : State) (p q : Nat) : State :=
  let s := s.uePoll p q
  let x := s.ueQp p q
  let s := (List.range (x.count - BitVec.ofNat 32 x.done).toNat).foldl (fun s k =>
    let i := x.done + k
    let (e, s) := s.ueStart p q i
    s.modQp p q fun x => { x with done := i + 1, pending := x.pending ++ [e] }) s
  let (c, s) := s.ueCtx p q
  State.ueFlush p q c.ordered (s.ueQp p q).pending.length s

/-- The same once its port is up (R362) and its requests find their way. -/
def State.ueTry (s : State) (p q : Nat) : State :=
  if !look false s.ue.portUp p then s
  else match s.attempt (ueUnit p) fun s => ((), s.ueRun p q) with
    | some (_, t) => t
    | none => s

/-- The doorbell: the new count starts the queue pair (R361). -/
def execUeDoorbell (port qp : Nat) (count : Word) (s : State) : Result :=
  .next ((s.modQp port qp fun x => { x with count := count }).ueTry port qp).drawn

/-- What a tick lets the engines do: queue pairs in error look at their contexts, and descriptors that wait begin. -/
def State.ueTick (s : State) : State :=
  s.ue.qps.foldl (fun (s : State) e =>
    let (p, q) := (e.1 / 1024, e.1 % 1024)
    let s := s.uePoll p q
    if (s.ueQp p q).waits then s.ueTry p q else s) s

/-- A descriptor finishes with the status that the network gives, and the bytes of a read. -/
def State.ueComplete (port qp : Nat) (status : Word) (readData : List Byte) (s : State) : State :=
  let s := s.uePoll port qp
  let (c, s) := s.ueCtx port qp
  let out := (s.ueQp port qp).pending.filter fun e => e.st = 0
  match (if c.ordered then out.head? else out[Config.choice s.draw 989002 % out.length]?) with
  | none => s
  | some e =>
    let (st, s) : Nat × State :=
      if status.toNat ≠ 0 then (status.toNat % 7, s)
      else match e.desc with
        | some bs =>
          let d := ofBytes bs
          if dField d 0 4 = 1 then
            let n := dField d 4 4
            match s.uePut c.cx (dField d 8 8) ((readData ++ List.replicate n 0).take n) with
            | (true, s) => (0, s)
            | (false, s) => (4, s)
          else (0, s)
        | none => (0, s)
    let s := s.ueFinish port qp e st
    State.ueFlush port qp c.ordered (s.ueQp port qp).pending.length s

/-- The network finishes a descriptor, over a port that is up (R362). -/
def execUeDescriptorComplete (port qp : Nat) (status : Word) (readData : List Byte) (s : State) : Result :=
  .next (if !look false s.ue.portUp port then s
    else s.asUnit (ueUnit port) (.ueDescriptorComplete port qp status readData) (State.ueComplete port qp status readData)).drawn

/-- A write from the remote side in the space of the queue pair: W and U on the page (R361). -/
def State.ueTake (port qp : Nat) (va : DWord) (bytes : List Byte) (s : State) : State :=
  let (c, s) := s.ueCtx port qp
  if c.valid then (s.uePut { c.cx with user := true } va.toNat bytes).2 else s

def execUeRemoteWrite (port qp : Nat) (va : DWord) (bytes : List Byte) (s : State) : Result :=
  .next (if !look false s.ue.portUp port then s
    else s.asUnit (ueUnit port) (.ueRemoteWrite port qp va bytes) (State.ueTake port qp va bytes)).drawn

end Sys2Proof.Machine
end

