-- ==== Sys2Proof/Machine/Fabric.lean ====
section
/-! DEFINITION. Devices lost and joined, UALink ports, the time master and fatal events (R343, R344, R419–R422, R426, R427,
R436–R438). -/

namespace Sys2Proof.Machine

/-! ### A device declared lost (R419, R420, R438) -/

/-- The cores' copies of a parcel's lines go. -/
def State.dropParcelCopies (s : State) (parcel : Nat) : State :=
  s.onCores fun c => { c with l1 := c.l1.filter fun e => decide (e.1 / 16 ≠ parcel)
                              icache := c.icache.filter fun e => decide (e.1 / 16 ≠ parcel) }

/-- What this device held of one parcel of the lost home. What window entries hold of a parcel that it owns joins the lines
kept in the slices. -/
def State.loseParcel (s : State) (parcel : Nat) : State :=
  let s := if look .none s.fabric.held parcel = .owned then
      (parcelLines parcel).foldl (fun (s : State) pl => (s.holders pl).foldl (fun s h => s.backEntry h.1 h.2.1 h.2.2) s) s
    else s
  let ls := s.modified parcel
  let drop (s : State) : State :=
    let s := (parcelLines parcel).foldl (fun (s : State) pl => s.dropSlice pl) ((s.dropParcelCopies parcel).forgetParcel parcel)
    s.setFabric fun f => { f with held := put .none f.held parcel .none }
  match look .none s.fabric.held parcel with
  | .owned =>
    if ls = [] then drop s
    else
      let s := s.setFabric fun f => { f with held := put .none f.held parcel .orphaned }
      s.append { sev := .contained, src := 8, cause := 0x2B, sub := 0, unit := s.homeSlice (parcel * 16) / 64
                 addr := BitVec.ofNat 64 (parcel * 2048) }
  | .shared => drop s
  | _ => s

/-- A parcel of this home that the lost agent held. -/
def State.loseAgent (s : State) (dev parcel : Nat) : State :=
  match (look Parcel.init s.fabric.cad parcel).st with
  | .shared ds =>
    let ds := ds.filter fun d => d ≠ dev
    s.setParcel parcel (if ds = [] then .uncached else .shared ds)
  | .owned d =>
    if d ≠ dev then s
    else
      let s := s.setFabric fun f => { f with cad := put Parcel.init f.cad parcel { st := .uncached, fenced := some dev } }
      s.append { sev := .contained, src := 8, cause := 0x2C, sub := 0, unit := s.homeSlice (parcel * 16) / 64
                 addr := BitVec.ofNat 64 (parcel * 2048) }
  | .uncached => s

/-- Entries whose word the lost device homed resume with status 5; proxies of the lost device are freed. -/
def State.loseEntries (s : State) (dev : Nat) : State :=
  let gone := s.gaz.filter fun e => match e.owner with | .proxy _ _ _ => false | _ => devOf e.pa == dev
  let s := gone.foldl (fun s e => s.wakeEntry e 5 0) s
  { s with gaz := s.gaz.filter fun e => !gone.contains e && (match e.owner with | .proxy d _ _ => d != dev | _ => true) }

def execLostcmd (v : Word) (s : State) : Result :=
  let dev := v.toNat % 2048
  if dev = s.devnum ∨ s.fabric.lost.contains dev then .next s
  else
    let held := (s.fabric.held.map (·.1)).filter fun p => devOf (p * 2048) = dev
    let s := held.foldl (fun (s : State) p => s.loseParcel p) s
    let s := (s.fabric.cad.map (·.1)).foldl (fun (s : State) p => s.loseAgent dev p) s
    let s := s.loseEntries dev
    .next (s.setFabric fun f =>
      { f with lost := f.lost ++ [dev], stuck := f.stuck.filter fun e => e.dev ≠ dev, asked := del f.asked dev, nonces := put [] f.nonces dev []
               answers := put [] f.answers dev [] }).drawn

/-! ### Scrubbing and joining (R421, R422) -/

/-- SCRUBCMD: the fenced parcel at SCRUBPA is Uncached again. -/
def State.unfence (s : State) (zero : Bool) : State :=
  let p := s.fabric.scrubPa.toNat / 2048
  if (look Parcel.init s.fabric.cad p).fenced.isNone then s.setFabric fun f => { f with scrubSt := 1 }
  else
    let s := s.setFabric fun f => { f with scrubSt := 0, cad := put Parcel.init f.cad p Parcel.init }
    if zero then s.devWrite (p * 2048) (List.replicate 2048 0) else s

def execScrubUnfenceKeep (s : State) : Result := .next (s.unfence false)
def execScrubUnfenceZero (s : State) : Result := .next (s.unfence true)

/-- A join to a home: the request, the proof of this device over the home's nonce, which is a free value, and the home's
answer, which to a device that used peer memory is a refused proof (R422). -/
def execJoindevGo (dev : BitVec 11) (answer : BitVec 2) (s : State) : Result :=
  let pa := dev.toNat * 2 ^ 45
  let a : Nat := if s.fabric.peerUsed then 2 else if answer.toNat < 3 then answer.toNat else 2
  let nonce := (List.range 32).map fun i => BitVec.ofNat 8 (Config.choice s.draw (750000 + i))
  let sig := s.idSign 0 (toBytes 32 (sha3 (joinInput nonce s.devnum s.fabric.peerUsed)).toNat)
  let s := (s.ualink dev.toNat pa .join).ualink dev.toNat pa (.proof s.fabric.peerUsed (s.idKey 0) sig)
  .next (s.setFabric fun f =>
    { f with joinSt := a
             lost := if a = 0 ∧ s.fenceCount dev.toNat = 0 then f.lost.filter fun d => d ≠ dev.toNat else f.lost }).drawn

/-! ### UALink (R436, R437) -/

/-- It has waited longer than CADTMO and has no record yet (R437). -/
def State.late (s : State) (since : DWord) (told : Bool) : Bool :=
  !told && decide (s.fabric.cadtmo.toNat < (s.time - since).toNat)

/-- What waits for device dev too long: recalls and invalidations, or requests. -/
def State.lateFor (s : State) (dev : Nat) (recalled : Bool) (w : Waiting) : Bool :=
  w.dev == dev && (if recalled then w.msg.isRecall else w.msg.isRequest) && s.late w.since w.told

/-- Requests, or recalls, have waited longer than CADTMO for a device: a record each, and they go on waiting. -/
def execHomeTimeout (dev : Nat) (recalled : Bool) (s : State) : Result :=
  let r : Record := if recalled then { sev := .degraded, src := 8, cause := 0x44, sub := 0, unit := dev }
    else { sev := .degraded, src := 6, cause := 0x3F, sub := 0, unit := dev }
  let mine := s.fabric.stuck.filter (s.lateFor dev recalled)
  let lane := !recalled && match find s.fabric.asked dev with | some a => s.late a.since a.told | none => false
  let told := s.setFabric fun f => { f with
    stuck := f.stuck.map fun w => if s.lateFor dev recalled w then { w with told := true } else w
    asked := if lane then f.asked.map fun e => if e.1 = dev then (dev, { e.2 with told := true }) else e else f.asked }
  .next ((List.replicate (mine.length + if lane then 1 else 0) r).foldl State.append told)

/-- The waits that have become too long, each device once for requests and once for recalls. -/
def State.timeoutsDue (s : State) : List Instr :=
  let of (recalled : Bool) : List Nat := ((s.fabric.stuck.filter fun w => s.lateFor w.dev recalled w).map (·.dev)).eraseDups
  let lanes := (s.fabric.asked.filter fun e => s.late e.2.since e.2.told).map (·.1)
  ((of false ++ lanes).eraseDups.map fun d => .homeTimeout d false) ++ (of true).map fun d => .homeTimeout d true

def execFatalNoticeReceive (dev : Nat) (s : State) : Result :=
  .next (if s.fabric.lost.contains dev then s.fromLost dev
    else s.append { sev := .degraded, src := 6, cause := 0x42, sub := 0, unit := dev })

def execUalinkPortDown (port : Nat) (s : State) : Result :=
  .next ((s.setFabric fun f => { f with portUp := put false f.portUp port false }).append
    { sev := .degraded, src := 6, cause := 0x3E, sub := 0, unit := port })

def execUalinkLinkRetry (port : Nat) (s : State) : Result :=
  let s := s.setFabric fun f => { f with retries := upd 0 f.retries port (· + 1) }
  .next (if look 0 s.fabric.retries port % 4096 = 0 then s.append { sev := .corrected, src := 6, cause := 0x3D, sub := 0, unit := port } else s)

def execPlanemapWrite (v : DWord) (s : State) : Result := .next (s.setFabric fun f => { f with planeMap := v }).unstick.kickRuns

/-- A timestamp of an exchange: the time master answers a device's with its own; another device learns what %time lacks of the
master's (R344). One of a device declared lost is discarded (R438). -/
def execTimeSyncExchange (m : TimeMsg) (s : State) : Result :=
  .next (s.heard m.dev fun s =>
    if s.fabric.timeMaster then s.tell m.dev (.timeAnswer s.time) else s.setFabric fun f => { f with slew := (m.t - s.time).toInt })

/-! ### Fatal events (R426, R427) -/

/-- A fatal record: it is logged and kept, every UALink port sends a notice, and the device stops until reset. -/
def State.fatalRecord (s : State) (r : Record) : State :=
  if s.fatal then s
  else
    let bytes := r.bytes s.elog.tail s.time
    let s := s.append r
    let s := (List.range 16).foldl (fun (s : State) p => if s.linkUp p then s.emit (.fatalNotice p) else s) s
    { s with fatal := true, fatalRec := bytes }

def execFatalEvent (src : BitVec 4) (cause : BitVec 8) (unit : Word) (s : State) : Result :=
  .next (s.fatalRecord { sev := .fatal, src := src.toNat, cause := cause.toNat, sub := 0, unit := unit.toNat })

def execReferenceClockLost (s : State) : Result :=
  .next (s.fatalRecord { sev := .fatal, src := 11, cause := 0x50, sub := 0, unit := 0 })

end Sys2Proof.Machine
end

