-- ==== Sys2Proof/Machine/Boot.lean ====
section
/-! DEFINITION. Reset, boot, identity, attestation, election, deliveries and heartbeats (R342, R344, R362–R369, R443–R446). -/

namespace Sys2Proof.Machine

/-- The identity of a die (R367). -/
def State.identity (s : State) (d : Nat) : Nat := s.devnum * 2 + d

def State.bootRecord (s : State) (sev : Sev) (cause unit : Nat) (detail : Word) : State :=
  s.append { sev := sev, src := 9, cause := cause, sub := 0, unit := unit, detail0 := detail }

/-! ### Reset and the supervisor lanes (R342, R362) -/

/-- Every unit goes to its reset state; the schedule, the free choices and what left the device go on. -/
def execPowerOnReset (s : State) : Result :=
  .next { State.reset with tape := s.tape, draw := s.draw + 1, bornAt := s.draw + 1, out := s.out }

/-- SLSTART.GO: a lane halted since reset or by a trap starts. -/
def State.startSl (s : State) (n : Nat) (pc : DWord) : State :=
  let c := s.core n
  let y := c.sl.warp.lane 0
  let w := c.sl.warp.setLane 0 { y with st := .runnable, wait := .none, pc := pc.extractLsb' 1 63, age := 0 }
  let s := s.setCore n { c with sl := { c.sl with warp := w, halt := false, exitHalt := false, ih := false, started := true } }
  if n = 0 ∨ n = 64 then s else { s with timesetOpen := false }

def execSlstartGo (core : Nat) (s : State) : Result :=
  let c := s.core core
  .next (if core < 128 ∧ c.sl.halt ∧ !c.sl.exitHalt then s.startSl core c.sl.slstart else s)

/-- TIMESET (R344). -/
def execTimeset (v : DWord) (s : State) : Result :=
  .next (if s.timesetOpen ∧ s.time < v then { s with time := v, timesetOpen := false } else s)

/-! ### The boot ROM (R364, R443) -/

/-- Measurements run on: SHA3-256(meas ‖ digest). -/
def extend (meas digest : BitVec 256) : BitVec 256 := sha3 (toBytes 32 meas.toNat ++ toBytes 32 digest.toNat)

def bootst (code arg : Nat) (second : Bool) : Word := BitVec.ofNat 32 (code + arg % 256 * 256 + (if second then 65536 else 0))

/-- A die halts with its code; its sibling, while it runs, records that. -/
def State.haltDie (s : State) (d : Nat) (st : Word) : State :=
  let s := s.modBoot d fun b => { b with bootst := st, halted := true }
  let s := s.modCore (64 * d) fun c => { c with sl := { c.sl with halt := true, exitHalt := false } }
  if (s.bootDie (1 - d)).halted then s else s.bootRecord .degraded 0x4A (s.identity d) 0

/-! ### The header (R363) -/

/-- n bytes of a flash copy. -/
def flashRead (h : FlashCopy) (off n : Nat) : List Byte := (List.range n).map fun i => (h.bytes[off + i]?).getD 0xFF
def flashNum (h : FlashCopy) (off n : Nat) : Nat := ofBytes (flashRead h off n)
def flashDigest (h : FlashCopy) (off : Nat) : BitVec 256 := BitVec.ofNat 256 (flashNum h off 32)

def flashNstage (h : FlashCopy) : Nat := bitsN (flashNum h 0x8 4) 3 0
def flashPcnt (h : FlashCopy) : Nat := bitsN (flashNum h 0x8 4) 7 4
def flashKey (h : FlashCopy) : List Byte := flashRead h 0x360 1312

def flashStage (h : FlashCopy) (k : Nat) : FlashStage :=
  let r := 0x20 + 64 * k
  { load := BitVec.ofNat 64 (flashNum h (r + 8) 8), entryOff := BitVec.ofNat 32 (flashNum h (r + 16) 4), ldr := (flashNum h (r + 20) 4).testBit 0
    digest := flashDigest h (r + 32), image := flashRead h (flashNum h r 4) (flashNum h (r + 4) 4) }

def flashStages (h : FlashCopy) : List FlashStage := (List.range (flashNstage h)).map (flashStage h)

def flashDomain (h : FlashCopy) : List DomainRec :=
  (List.range 4).filterMap fun k =>
    let r := 0x220 + 80 * k
    if flashNum h r 4 = 0xFFFFFFFF then none else some ⟨flashNum h r 4, flashDigest h (r + 16), flashDigest h (r + 48)⟩

/-- The first requirement on a header that is not met: its code (R364, R443). -/
def headerFault (d : Nat) (h : FlashCopy) : Option Nat :=
  if flashNum h 0 4 ≠ 0x47584A39 then some 2
  else if flashNstage h < 1 ∨ 8 < flashNstage h ∨ 8 < flashPcnt h ∨ flashNum h 0x8 4 / 1024 ≠ 0 then some 9
  else if sha3 (flashKey h) ≠ Config.keyHash d then some 3
  else if flashNum h 4 4 < Config.svnFuse d then some 4
  else if !Config.dsaVerify (flashKey h) (toBytes 32 (sha3 (flashRead h 0 0x880)).toNat) (flashRead h 0x880 2420) then some 5
  else none

/-- Stages copied and measured up to the first with LDR: what is in force then, or the stage whose digest differs. -/
def State.loadStages (s : State) (d : Nat) : Nat → List FlashStage → Option DWord → Except Nat (Option DWord) × State
  | _, [], at_ => (.ok at_, s)
  | k, x :: xs, at_ =>
    if x.ldr then (.ok at_, s)
    else
      let s := s.devWrite (s.localAddr x.load.toNat) x.image
      if sha3 x.image ≠ x.digest then (.error k, s)
      else
        let s := s.modBoot d fun b => { b with meas := extend b.meas x.digest }
        s.loadStages d (k + 1) xs (some (BitVec.ofNat 64 (s.localAddr x.load.toNat) + x.entryOff.setWidth 64))

/-- The stacks of a die are trained (R364), and its UALink and Ethernet ports come up with them (log entry 83). -/
def State.trained (s : State) (d : Nat) : State :=
  { s with
    memctl := { s.memctl with trained := s.memctl.trained ||| (0x3F#12 <<< (6 * d)) }
    fabric := { s.fabric with portUp := (List.range 8).foldl (fun t p => put false t (8 * d + p) true) s.fabric.portUp }
    ue := { s.ue with portUp := put false s.ue.portUp d true } }.unstick.kickRuns

/-- How a try of R364 ended. -/
inductive BootEnd where | done | failed (code arg : Nat) | fatal (stack : Nat)
  deriving DecidableEq, Repr

/-- One try from one copy. -/
def State.bootFrom (s : State) (d : Nat) (h : FlashCopy) (train : Option Nat) (second : Bool) : BootEnd × State :=
  match headerFault d h with
  | some c => (.failed c 0, s)
  | none =>
    let s := s.modBoot d fun b => { b with
      meas := s.romDigest, hbPeriod := BitVec.ofNat 64 (flashNum h 0x10 8), domain := flashDomain h, stages := flashStages h }
    let s : State := if d ≠ 0 then s
      else
        let s : State := { s with devnum := flashNum h 0xC 4 % 2048, io := { s.io with bifur := BitVec.ofNat 2 (bitsN (flashNum h 0x8 4) 9 8) } }
        if s.memctl.lock then s else { s with pinned := flashPcnt h, memctl := { s.memctl with lock := true } }
    match train with
    | some k => (.fatal k, s)
    | none =>
      match (s.trained d).loadStages d 0 (flashStages h) none with
      | (.error k, s) => (.failed 6 k, s)
      | (.ok at_, s) =>
        let s := s.modBoot d fun b => { b with bootst := bootst 1 0 second }
        (.done, match at_ with | some pc => s.startSl (64 * d) pc | none => s)

/-- The boot of a die: the first copy, then the second; die 1 only once the record is locked. -/
def State.bootLoad (s : State) (d : Nat) (a b : FlashCopy) (train : Option Nat) : State :=
  let stop (s : State) (k : Nat) (second : Bool) : State :=
    (s.modBoot d fun x => { x with bootst := bootst 7 k second }).fatalRecord { sev := .fatal, src := 3, cause := 0x37, sub := 0, unit := k }
  match s.bootFrom d a train false with
  | (.done, s) => s
  | (.fatal k, s) => stop s k false
  | (.failed c k, s) =>
    let s := s.modBoot d fun x => { x with bootst := bootst c k false }
    let s := s.bootRecord .degraded 0x45 (s.identity d) (bootst c k false)
    match s.bootFrom d b train true with
    | (.done, s) => s
    | (.fatal k, s) => stop s k true
    | (.failed c k, s) => (s.bootRecord .degraded 0x45 (s.identity d) (bootst c k true)).haltDie d (bootst c k true)

def execBootRomLoad (die : Nat) (first : FlashCopy) (second : FlashCopy) (trainFail : Option Nat) (s : State) : Result :=
  if 1 < die ∨ (s.bootDie die).halted ∨ (s.bootDie die).bootst.toNat % 256 ≠ 0 ∨ (die = 1 ∧ !s.memctl.lock) then .next s
  else .next (s.bootLoad die first second trainFail).drawn

/-- Die 1 has waited 2^30 ticks for die 0's lock: it has not begun its own boot (R443). -/
def State.siblingLate (s : State) : Bool :=
  !s.memctl.lock && decide (2 ^ 30 ≤ s.time.toNat) && !(s.bootDie 1).halted && decide ((s.bootDie 1).bootst.toNat % 256 = 0)

/-- Then it halts. -/
def execSiblingLockTimeout (s : State) : Result :=
  .next (if !s.siblingLate then s else s.haltDie 1 (bootst 8 0 false))

/-! ### Measurement and attestation (R364, R365) -/

def execMeasext (die : Nat) (digest : BitVec 256) (s : State) : Result :=
  .next (s.modBoot die fun b => { b with meas := extend b.meas digest })

/-- The attestation input: nonce, meas, DEVNUM and d (R365). -/
def State.attInput (s : State) (d : Nat) : List Byte :=
  let b := s.bootDie d
  toBytes 32 b.attNonce.toNat ++ toBytes 32 b.meas.toNat ++ toBytes 4 s.devnum ++ toBytes 4 d

/-- The signature of the input's hash goes to ATTBUF. -/
def execAttgo (die : Nat) (s : State) : Result :=
  let sig := s.idSign die (toBytes 32 (sha3 (s.attInput die)).toNat)
  let s := s.devWrite (s.localAddr (s.bootDie die).attBuf.toNat) sig
  .next { s.modBoot die fun b => { b with attSt := true } with draw := s.draw + 1 }

/-! ### Election (R367, R445) -/

def leaderV (x : Word) : Bool := x.getLsbD 31
def leaderEpoch (x : Word) : Nat := bitsN x.toNat 27 16
def leaderId (x : Word) : Nat := bitsN x.toNat 11 0
def leaderWord (epoch id : Nat) : Word := BitVec.ofNat 32 (2 ^ 31 + epoch % 4096 * 65536 + id % 4096)

/-- A die that no longer holds its own claim steps down. -/
def BootDie.follow (x : Word) (b : BootDie) : BootDie :=
  { b with leader := x, leads := false, claimAt := none, sent := [], tries := [], givenUp := [] }

/-- The 64 bytes of a claim (R367). -/
def claimBytes (c : Claim) : List Byte :=
  toBytes 4 c.identity.toNat ++ toBytes 4 c.epoch.toNat ++ toBytes 8 c.time.toNat ++ toBytes 32 c.meas.toNat ++
    List.replicate 16 0

/-- The key of a claim is the one that die d's domain list names for its identity (R363, R367). -/
def BootDie.knows (b : BootDie) (c : Claim) : Bool :=
  b.domain.any fun r => r.dev == c.identity.toNat / 2 &&
    (if c.identity.toNat % 2 = 0 then r.key0 else r.key1) == sha3 c.key

/-- What die d does with a claim or a heartbeat; `signed`: the claim's signature verifies (R367, R445). -/
def State.judge (s : State) (d : Nat) (c : Claim) (signed : Bool) : State :=
  let b := s.bootDie d
  let own := decide (c.identity.toNat = s.identity d)
  if leaderV b.leader ∧ c.epoch.toNat < leaderEpoch b.leader then s.bootRecord .corrected 0x49 (s.identity d) 0
  else if c.heartbeat then s.modBoot d fun b => { b with hb := c.time, hbLast := s.time, lapsed := false }
  else if !(signed && b.knows c) then s
  else
    let x := leaderWord c.epoch.toNat c.identity.toNat
    let take := !leaderV b.leader || decide (leaderEpoch b.leader < c.epoch.toNat) || decide (c.identity.toNat < leaderId b.leader)
    if !take then s
    else if own then s.modBoot d fun b => { b with leader := x }
    else s.modBoot d fun b => b.follow x

/-- The dies of the boot domain by identity (R367). -/
def State.domainDies (s : State) (d : Nat) : List Nat := ((s.bootDie d).domain.map fun r => [2 * r.dev, 2 * r.dev + 1]).flatten

/-- A claim goes out with its signature and key to the dies of the domain, those of this device among them. It is held for as
long as LEADER names it; a die that leads goes on leading. -/
def State.claimNow (s : State) (d epoch : Nat) : State :=
  let c : Claim := { identity := BitVec.ofNat 12 (s.identity d), epoch := BitVec.ofNat 12 epoch, heartbeat := false, time := s.time
                     meas := (s.bootDie d).meas, key := s.idKey d, sig := [] }
  let sig := s.idSign d (claimBytes c)
  let out := (s.domainDies d).filter fun f => decide (f / 2 ≠ s.devnum)
  let s := out.foldl (fun (s : State) f => s.tell (f / 2) (.claim f (claimBytes c) c.key sig)) s
  let s := (s.judge d c true).judge (1 - d) c true
  s.modBoot d fun b => { b with
    claimEpoch := c.epoch
    claimAt := if leaderId b.leader = s.identity d ∧ leaderEpoch b.leader = epoch % 4096 then some s.time else none }

def execClaimgo (die : Nat) (s : State) : Result :=
  .next (if 1 < die then s
    else
      let s := s.claimNow die (leaderEpoch (s.bootDie die).leader)
      { s with draw := s.draw + 1 })

def execClaimReceive (die : Nat) (c : Claim) (s : State) : Result :=
  .next (if 1 < die then s
    else s.heard (c.identity.toNat / 2) fun s => s.judge die c (Config.dsaVerify c.key (claimBytes c) c.sig))

/-- Followers of a leader: every other die of the domain. -/
def State.followers (s : State) (d : Nat) : List Nat :=
  (s.domainDies d).filter fun i => i ≠ s.identity d

/-- The first stage with LDR at or after k. -/
def BootDie.nextLdr (b : BootDie) (k : Nat) : Option Nat :=
  ((List.range b.stages.length).filter fun i => decide (k ≤ i)).find? fun i => ((b.stages[i]?).map (·.ldr)).getD false

/-- The image of a stage goes to its load address on a follower's device, in UALink writes of at most 256 bytes (R358,
R368). -/
def State.sendImage (s : State) (dev load : Nat) (bs : List Byte) : State :=
  let pa := dev * 2 ^ 45 + load % 2 ^ 45
  if dev = s.devnum then s.devWrite pa bs
  else (List.range ((bs.length + 255) / 256)).foldl (fun (s : State) k =>
    s.ualink dev (pa + 256 * k) (.write ((bs.drop (256 * k)).take 256) [])) s

/-- The leader writes stage i for follower f and then sends the delivery record; the other die of the device gets it as its
next event (R368). -/
def State.sendStage (s : State) (d f i : Nat) : State :=
  match (s.bootDie d).stages[i]? with
  | some x =>
    let s := s.sendImage (f / 2) x.load.toNat x.image
    if f / 2 = s.devnum then { s with backlog := s.backlog ++ [.stageDelivery (f % 2) i x.digest] }
    else s.tell (f / 2) (.delivery f i x.digest)
  | none => s

/-- The leader delivers the next stage to a follower, unless none is left. -/
def State.deliverTo (s : State) (d f k : Nat) : State :=
  match (s.bootDie d).nextLdr k with
  | some i => (s.modBoot d fun b => { b with sent := ins b.sent f i }).sendStage d f i
  | none => s.modBoot d fun b => { b with sent := ins b.sent f b.stages.length }

/-- PROG of a follower, which a new leader reads (R446): a free value of another device's. -/
def State.progOf (s : State) (d f : Nat) : Nat :=
  if f = s.identity (1 - d) then (s.bootDie (1 - d)).prog
  else Config.choice s.draw (760000 + f) % ((s.bootDie d).stages.length + 1)

/-- The claim of LEADER is settled on die d: bit 30, and the record. -/
def State.settleOn (s : State) (d : Nat) : State :=
  (s.modBoot d fun b => { b with leader := b.leader ||| 0x40000000 }).bootRecord .corrected 0x48 (s.identity d) 0

def settled? (x : Word) : Bool := x.getLsbD 30

/-- A claim held for 2^20 ticks makes its die leader, and every die notes it; a claim of another device settles here when
that device's does. -/
def execClaimSettle (die : Nat) (s : State) : Result :=
  let b := s.bootDie die
  if 1 < die ∨ !leaderV b.leader then .next s
  else if leaderId b.leader / 2 ≠ s.devnum then .next (if settled? b.leader then s else s.settleOn die)
  else
    match b.claimAt with
    | none => .next s
    | some t =>
      if leaderId b.leader ≠ s.identity die ∨ leaderEpoch b.leader ≠ b.claimEpoch.toNat ∨ (s.time - t).toNat < 2 ^ 20 then .next s
      else
        let s := (s.modBoot die fun b => { b with leads := true, claimAt := none, hbSent := s.time }).settleOn die
        let o := (s.bootDie (1 - die)).leader
        let s := if leaderV o ∧ leaderId o = s.identity die then s.settleOn (1 - die) else s
        .next ((s.followers die).foldl (fun s f => s.deliverTo die f (s.progOf die f)) s).drawn

/-! ### Deliveries (R368, R444) -/

/-- A delivery record at a follower, which hashes the image in its memory and answers: a match with its own header's
record extends meas and moves PROG (R368); else it refuses (R444). -/
def execStageDelivery (die : Nat) (stage : Nat) (_digest : BitVec 256) (s : State) : Result :=
  let b := s.bootDie die
  match b.stages[stage]? with
  | none => .next s
  | some x =>
    .next (s.heard (leaderId b.leader / 2) fun s =>
      let (bs, s) := s.devRead (s.localAddr x.load.toNat) x.image.length
      let ok := decide (sha3 bs = x.digest)
      let s : State := if leaderId b.leader / 2 = s.devnum then
          { s with backlog := s.backlog ++ [.stageDeliveryAnswer (leaderId b.leader % 2) (s.identity die) ok] }
        else s.tell (leaderId b.leader / 2) (.deliveryAnswer (leaderId b.leader) stage ok)
      if ok ∧ b.prog ≤ stage then s.modBoot die fun b => { b with meas := extend b.meas x.digest, prog := stage + 1 } else s)

/-- A follower's answer: the next stage, the same one again up to three times in all, or the record. -/
def execStageDeliveryAnswer (die : Nat) (follower : Nat) (ok : Bool) (s : State) : Result :=
  let b := s.bootDie die
  let k := look 0 b.sent follower
  if !b.leads ∨ b.givenUp.contains follower ∨ (find b.sent follower).isNone then .next s
  else if s.fabric.lost.contains (follower / 2) then .next (s.fromLost (follower / 2))
  else if ok then .next ((s.modBoot die fun b => { b with tries := del b.tries follower }).deliverTo die follower (k + 1))
  else
    let n := look 0 b.tries follower + 1
    let s := s.modBoot die fun b => { b with tries := ins b.tries follower n }
    .next (if n < 3 then s.sendStage die follower k
      else (s.modBoot die fun b => { b with givenUp := b.givenUp ++ [follower] }).bootRecord .contained 0x46 follower 0)

/-! ### Heartbeats (R369, R446) -/

/-- The leader's heartbeat is due. -/
def State.heartbeatDue (s : State) (d : Nat) : Bool :=
  let b := s.bootDie d
  b.leads && b.hbPeriod != 0 && decide (b.hbPeriod.toNat ≤ (s.time - b.hbSent).toNat)

def State.sendHeartbeat (s : State) (d : Nat) : State :=
  if !s.heartbeatDue d then s
  else
    let epoch := leaderEpoch (s.bootDie d).leader
    let s := ((s.followers d).filter fun f => decide (f / 2 ≠ s.devnum)).foldl
      (fun (s : State) f => s.tell (f / 2) (.heartbeat f epoch s.time)) s
    let s := s.modBoot d fun b => { b with hbSent := s.time }
    if (s.followers d).contains (s.identity (1 - d)) then
      s.judge (1 - d) { identity := BitVec.ofNat 12 (s.identity d), epoch := BitVec.ofNat 12 epoch, heartbeat := true, time := s.time
                        meas := 0, key := [], sig := [] } false
    else s

def execHeartbeatSend (die : Nat) (s : State) : Result := .next (if 1 < die then s else s.sendHeartbeat die)

/-- A follower's heartbeat has lapsed. -/
def State.heartbeatLapsed (s : State) (d : Nat) : Bool :=
  let b := s.bootDie d
  !b.leads && !b.lapsed && leaderV b.leader && decide (leaderId b.leader ≠ s.identity d) && b.hbPeriod != 0 &&
    decide (4 * b.hbPeriod.toNat ≤ (s.time - b.hbLast).toNat)

/-- It records the lapse and claims the next epoch. -/
def State.lapse (s : State) (d : Nat) : State :=
  if !s.heartbeatLapsed d then s
  else
    let s := (s.modBoot d fun b => { b with lapsed := true }).bootRecord .degraded 0x47 (s.identity d) 0
    let s := s.claimNow d (leaderEpoch (s.bootDie d).leader + 1)
    { s with draw := s.draw + 1 }

def execHeartbeatLapse (die : Nat) (s : State) : Result := .next (if 1 < die then s else s.lapse die)

end Sys2Proof.Machine
end

