-- ==== Sys2Proof/Machine/Surveyor.lean ====
section
/-! DEFINITION. Surveyor: measurements, margin plans and temperatures (R447–R453). -/

namespace Sys2Proof.Machine

def State.setSurvey (s : State) (f : Survey → Survey) : State := { s with survey := f s.survey }

def State.svRecord (s : State) (sev : Sev) (cause : Nat) (addr : DWord) : State :=
  s.append { sev := sev, src := 10, cause := cause, sub := 0, unit := 0, addr := addr }

/-- A plan's body, bytes 0x20 to 0xBF of its record: no clock above R7, no timing below R292 (R449). -/
def planOk (body : List Byte) : Bool :=
  let n := ofBytes body
  body.length == 160 &&
    ((List.range 8).all fun q => decide (dField n (8 * q) 2 ≤ 4000) && decide (dField n (8 * q + 2) 2 ≤ 2000) && dField n (8 * q + 6) 2 == 0) &&
    ((List.range 12).all fun t => ([12, 12, 32, 44, 28, 28, 58, 86].zipIdx).all fun e =>
      decide (e.1 ≤ dField n (64 + 8 * t + e.2) 1))

/-- The record of a plan (R449). -/
def planBytes (seq time : DWord) (reduced mc ra : Bool) (body : List Byte) : List Byte :=
  toBytes 8 seq.toNat ++ toBytes 8 time.toNat ++
    toBytes 4 ((if reduced then 1 else 0) + (if mc then 2 else 0) + (if ra then 4 else 0)) ++ toBytes 12 0 ++ body ++ toBytes 64 0

/-- The record, then PLANSEQ, then record 0x4B. -/
def State.publish (s : State) (body : List Byte) (reduced : Bool) : State :=
  let v := s.survey
  let seq := v.planSeq + 1
  let s := s.devWrite (s.localAddr v.planBase.toNat) (planBytes seq s.time reduced v.mc v.ra body)
  (s.setSurvey fun v => { v with planSeq := seq, plan := body }).svRecord .corrected 0x4B seq

/-- The slack of every trig point is measured, a point not given keeping its value: critical margins, the advice to replace, and a plan where a computed value
changes or a margin became critical. -/
def execSurveyorTrigMeasure (slacks : List (BitVec 16)) (plan : List Byte) (noFull : Bool) (s : State) : Result :=
  if !s.survey.en then .next s
  else
    let held := (slacks.take 1024).zipIdx.foldl (fun t e => put 0 t e.2 e.1) s.survey.slack
    let low := (List.range 1024).any fun i => decide ((look 0 held i).toInt < s.survey.guardBand.toNat)
    let newMc := low && !s.survey.mc
    let newRa := noFull && !s.survey.ra
    let s := s.setSurvey fun v => { v with
      slack := held, mc := low, ra := v.ra || noFull }
    let s := if newMc then s.svRecord .degraded 0x4C 0 else s
    let s := if newRa then s.svRecord .degraded 0x4D 0 else s
    .next (if planOk plan ∧ (newMc ∨ newRa ∨ plan ≠ s.survey.plan) then s.publish plan noFull else s)

/-- The least timings of a bank, tested on a free crest slot; a plan whose computed values changed is published (R449). -/
def execSurveyorTimingTest (r : TimingTest) (plan : List Byte) (noFull : Bool) (s : State) : Result :=
  if !s.survey.en ∨ (s.freeSlot r.bank).isNone then .next s
  else
    let newRa := noFull && !s.survey.ra
    let s := s.setSurvey fun v => { v with timing := put (0, 0) v.timing r.bank (r.crest, r.apron), ra := v.ra || noFull }
    let s := if newRa then s.svRecord .degraded 0x4D 0 else s
    .next (if planOk plan ∧ (newRa ∨ plan ≠ s.survey.plan) then s.publish plan noFull else s)

/-- PLANGO (R450). -/
def execPlango (seq : DWord) (s : State) : Result :=
  .next (s.setSurvey fun v =>
    if seq ≠ v.planSeq then { v with planSt := 2 } else { v with planSt := 0, adopted := lo32 seq, inForce := v.plan })

def execTemperatureWarning (sensor : Nat) (s : State) : Result :=
  let recent := match look none s.survey.warnAt sensor with | some t => decide ((s.time - t).toNat < 2 ^ 30) | none => false
  .next (if recent then s
    else (s.setSurvey fun v => { v with warnAt := put none v.warnAt sensor (some s.time) }).svRecord .degraded 0x4E 0)

def execTemperatureTrip (_sensor : Nat) (s : State) : Result :=
  .next (s.fatalRecord { sev := .fatal, src := 10, cause := 0x4F, sub := 0, unit := 0 })

end Sys2Proof.Machine
end

