-- ==== Sys2Proof/Machine/Clock.lean ====
section
/-! DEFINITION. The global tick and all that it makes due, register writes without a behaviour of their own, and encodings
that stand for no instruction (R62, R119, R146, R291, R308, R316, R317, R341, R344, R345, R350). -/

namespace Sys2Proof.Machine

def State.pushAll (s : State) (is : List Instr) : State := { s with backlog := s.backlog ++ is }

/-- The contexts of a core that hold a warp. -/
def Core.ctxs (c : Core) : List (Ctx × Warp) := (.sl, c.sl.warp) :: c.slots.map fun e => (.slot e.1, e.2)

/-- What ends with a tick: join records time out, entries that interrupt writes released resume, and the deadlines of
WAITV fall (R146, R215, R350). -/
def State.endTick (s : State) : State :=
  let time := s.time
  let s := s.onCores fun c => (Core.ctxs c).foldl (fun c x => if x.2.joins = [] then c else c.setWarp x.1 (x.2.joinsExpire time)) c
  s.msiRelease.expireWaits

/-- Crest slots that copy back: marked dirty ones, and the second tries (R291, R414). -/
def State.copiesDue (s : State) : List Instr :=
  s.memctl.slots.filterMap fun e =>
    let id : SlotId := ⟨e.1 / 1024, e.1 % 1024⟩
    let x := e.2
    if x.fails = 1 ∧ x.busy = .none ∧ x.retryAt ≤ s.time then
      some (.copybackRetry id (Config.choice s.draw (745000 + e.1 % 1024) % 2 = 1))
    else if x.marked && x.dirty && !x.locked && x.fails == 0 then some (.markedSlotCopyback id)
    else none

/-- Supervisor queues that have stayed full for 65,536 core cycles (R255). -/
def State.pressureDue (s : State) : List Instr :=
  s.cores.filterMap fun e => match e.2.sqFull with
    | some t => if 16384 ≤ (s.time - t).toNat then some (.sqPressure e.1) else none
    | none => none

/-- What the Dispatcher has to do: dependences to read, heads to raise, warps to save, candidates to place (R316, R317,
R46). -/
def State.dispatchDue (s : State) : List Instr :=
  let heads := s.disp.queues.filterMap fun e => e.2.head?.map fun x => (e.1, x)
  (heads.filterMap fun e => if e.2.dep ≠ .met ∧ s.pollPeriod e.1 ≤ (s.time - e.2.polled).toNat then some (.dependencePoll e.1) else none) ++
  (heads.filterMap fun e => if e.2.since.isSome ∧ e.2.level < 7 ∧ 1048576 ≤ (s.time - e.2.rise).toNat then some (.launchQueueAgeing e.1) else none) ++
  ((s.disp.tasks.filter fun e => e.2.st == .stopping).map fun e => (e.2.warps.filter fun w =>
    (s.warpOf ⟨w.2.core, .slot w.2.slot⟩).stopping).map fun w => Instr.warpSave w.2.core w.2.slot).flatten ++
  (if s.candidates.isEmpty then [] else [.taskPlacement])

/-- A head that was unplaceable for 65,536 ticks reserves (R317 rule 5). -/
def State.reserveDue (s : State) : State :=
  s.disp.queues.foldl (fun s e => match e.2 with
    | x :: _ => match x.fail with
      | some t => if 65536 ≤ (s.time - t).toNat then s.modHead e.1 fun y => { y with reserve := true } else s
      | none => s
    | [] => s) s

/-- Whether this tick may leave %time where it is, or advance it by 2: it lies off the master's, and none of the last
4,095 ticks slewed (R344). -/
def State.maySlew (s : State) (adv : Fin 3) : Bool :=
  let f := s.fabric
  !f.timeMaster && f.slewWait == 0 &&
    (match adv with | 0 => decide (f.slew < -1) | 1 => false | 2 => decide (1 < f.slew))

/-- The advance of the next tick. -/
def State.tickAdv (s : State) : Fin 3 := if s.maySlew 2 then 2 else if s.maySlew 0 then 0 else 1

/-- %time advances (R344). -/
def State.advance (s : State) (adv : Fin 3) : State :=
  if adv ≠ 1 ∧ s.maySlew adv then
    { s with time := s.time + BitVec.ofNat 64 adv.val
             fabric := { s.fabric with slew := s.fabric.slew - ((adv.val : Int) - 1), slewWait := 4095 } }
  else { s with time := s.time + 1, fabric := { s.fabric with slewWait := s.fabric.slewWait - 1 } }

/-- Every 2^20 ticks a device that is not the time master exchanges timestamps with it; the answer is an event (R344). -/
def State.exchange (s : State) (old : DWord) : State :=
  if s.fabric.timeMaster || s.time.toNat / 2 ^ 20 == old.toNat / 2 ^ 20 then s
  else s.tell Config.timeMaster (.time s.time)

/-- A tick of a device with a fatal record: its memory only refreshes (R427). -/
def State.idleTick (s : State) (adv : Fin 3) : State := { s.advance adv with draw := s.draw + 1 }

/-- The end of one global tick and the start of the next: deadlines of the tick that ends, then what the new one makes
due. Sixteen ticks are 64 core cycles, and 32,768 are 65,536 slice cycles, at the clocks of R7 (R281, R308). -/
def State.tick (s : State) (adv : Fin 3) : State :=
  let old := s.time
  let s := s.endTick.pushAll s.copiesDue
  let s := ((s.advance adv).exchange old).reserveDue.fireTimers
  let s := s.pushAll (s.pressureDue ++ s.dispatchDue ++
    (if s.time.toNat / 16 = old.toNat / 16 then [] else [.logicalClockAdvance]) ++
    (if s.time.toNat / 32768 = old.toNat / 32768 then [] else [.predictorDecay]) ++ [.claimSettle 0, .claimSettle 1].filter fun i =>
      match i with | .claimSettle d => (match (s.bootDie d).claimAt with | some t => decide (2 ^ 20 ≤ (s.time - t).toNat) | none => false) | _ => false)
  let s := [0, 1].foldl (fun (s : State) d => (s.sendHeartbeat d).lapse d) s
  let s := s.ueTick
  let late : List Instr := s.timeoutsDue ++ if s.siblingLate then [.siblingLockTimeout] else []
  let s := ({ s with parked := [] } : State).pushAll (s.parked.map (·.2) ++ late)
  { s with draw := s.draw + 1 }

def execGlobalTick (adv : Fin 3) (s : State) : Result := .next { (if s.fatal then s.idleTick adv else s.tick adv) with ticked := true }

/-- TIMER of %ipend is the comparison itself (R64): nothing else changes when it becomes true. -/
def execTimecmpMatch (_core : Nat) (s : State) : Result := .next s

/-- A write of 4 or 8 bytes to the control space by an agent of die 0 (R341). -/
def execRegisterWrite (off : Nat) (n : Nat) (v : DWord) (s : State) : Result :=
  if (n = 4 ∨ n = 8) ∧ off % n = 0 ∧ off < 2 ^ 32 ∧ !(0x10200000 ≤ off ∧ off < 0x10240000) then
    .next (s.setCtlBytes 0 (0x180000000000 + off) (toBytes n v.toNat)).drawn
  else .next s

/-- A cluster at an encoding that is no instruction: reserved length, or illegal with its SUB (R119, R120, R375). Its S bit is
not looked at (log entry 113). -/
def execUnassignedEncoding (sub : Option (Fin 4)) (s : State) : Result :=
  let t : Trap := match sub with | none => ⟨0x01, 0⟩ | some k => ⟨0x02, k.val⟩
  .next (finish false 0 (s.trapMask s.cur.cluster (fun _ => t) fun _ => Tops.zero))

end Sys2Proof.Machine
end

