-- ==== Sys2Proof/Machine/Dispatch.lean ====
section
/-! DEFINITION. The dispatch: one arm for each constructor of Instr. -/

namespace Sys2Proof.Machine

/-- The effect of an instruction or event. -/
def exec (i : Instr) (s : State) : Host.Outcome State Fault Refusal :=
  match i with
  | .iadd o => Sys2Proof.Machine.execIadd o s
  | .isub o => Sys2Proof.Machine.execIsub o s
  | .iadd3 o => Sys2Proof.Machine.execIadd3 o s
  | .ineg o => Sys2Proof.Machine.execIneg o s
  | .iabs o => Sys2Proof.Machine.execIabs o s
  | .imul o => Sys2Proof.Machine.execImul o s
  | .imulh o => Sys2Proof.Machine.execImulh o s
  | .imad o => Sys2Proof.Machine.execImad o s
  | .imadw o => Sys2Proof.Machine.execImadw o s
  | .imin o => Sys2Proof.Machine.execImin o s
  | .imax o => Sys2Proof.Machine.execImax o s
  | .and o => Sys2Proof.Machine.execAnd o s
  | .or o => Sys2Proof.Machine.execOr o s
  | .xor o => Sys2Proof.Machine.execXor o s
  | .not o => Sys2Proof.Machine.execNot o s
  | .andn o => Sys2Proof.Machine.execAndn o s
  | .orn o => Sys2Proof.Machine.execOrn o s
  | .shl o => Sys2Proof.Machine.execShl o s
  | .shr o => Sys2Proof.Machine.execShr o s
  | .sar o => Sys2Proof.Machine.execSar o s
  | .rotl o => Sys2Proof.Machine.execRotl o s
  | .rotr o => Sys2Proof.Machine.execRotr o s
  | .fshl o => Sys2Proof.Machine.execFshl o s
  | .fshr o => Sys2Proof.Machine.execFshr o s
  | .bfe o => Sys2Proof.Machine.execBfe o s
  | .bfi o => Sys2Proof.Machine.execBfi o s
  | .popc o => Sys2Proof.Machine.execPopc o s
  | .clz o => Sys2Proof.Machine.execClz o s
  | .brev o => Sys2Proof.Machine.execBrev o s
  | .ffs o => Sys2Proof.Machine.execFfs o s
  | .idiv o => Sys2Proof.Machine.execIdiv o s
  | .irem o => Sys2Proof.Machine.execIrem o s
  | .lea o => Sys2Proof.Machine.execLea o s
  | .leaw o => Sys2Proof.Machine.execLeaw o s
  | .icmp cc o => Sys2Proof.Machine.execIcmp cc o s
  | .sel o => Sys2Proof.Machine.execSel o s
  | .pand o => Sys2Proof.Machine.execPand o s
  | .por o => Sys2Proof.Machine.execPor o s
  | .pxor o => Sys2Proof.Machine.execPxor o s
  | .pnot o => Sys2Proof.Machine.execPnot o s
  | .mov o => Sys2Proof.Machine.execMov o s
  | .movN32 o => Sys2Proof.Machine.execMovN32 o s
  | .movu o => Sys2Proof.Machine.execMovu o s
  | .movp o => Sys2Proof.Machine.execMovp o s
  | .xget o => Sys2Proof.Machine.execXget o s
  | .xput o => Sys2Proof.Machine.execXput o s
  | .tget o => Sys2Proof.Machine.execTget o s
  | .tset o => Sys2Proof.Machine.execTset o s
  | .aget o => Sys2Proof.Machine.execAget o s
  | .aset o => Sys2Proof.Machine.execAset o s
  | .fadd o => Sys2Proof.Machine.execFadd o s
  | .fsub o => Sys2Proof.Machine.execFsub o s
  | .fmul o => Sys2Proof.Machine.execFmul o s
  | .ffma o => Sys2Proof.Machine.execFfma o s
  | .ffms o => Sys2Proof.Machine.execFfms o s
  | .fnma o => Sys2Proof.Machine.execFnma o s
  | .fmin o => Sys2Proof.Machine.execFmin o s
  | .fmax o => Sys2Proof.Machine.execFmax o s
  | .fcmp cc o => Sys2Proof.Machine.execFcmp cc o s
  | .rcp o => Sys2Proof.Machine.execRcp o s
  | .rsq o => Sys2Proof.Machine.execRsq o s
  | .sqrt o => Sys2Proof.Machine.execSqrt o s
  | .ex2 o => Sys2Proof.Machine.execEx2 o s
  | .lg2 o => Sys2Proof.Machine.execLg2 o s
  | .sin o => Sys2Proof.Machine.execSin o s
  | .cos o => Sys2Proof.Machine.execCos o s
  | .tanh o => Sys2Proof.Machine.execTanh o s
  | .cvt o => Sys2Proof.Machine.execCvt o s
  | .bpack o => Sys2Proof.Machine.execBpack o s
  | .bunpack o => Sys2Proof.Machine.execBunpack o s
  | .fdiv o => Sys2Proof.Machine.execFdiv o s
  | .bra o => Sys2Proof.Machine.execBra o s
  | .braJ32 o => Sys2Proof.Machine.execBraJ32 o s
  | .call o => Sys2Proof.Machine.execCall o s
  | .callx o => Sys2Proof.Machine.execCallx o s
  | .jmpx o => Sys2Proof.Machine.execJmpx o s
  | .ret o => Sys2Proof.Machine.execRet o s
  | .join o => Sys2Proof.Machine.execJoin o s
  | .joinTimeout w addr => Sys2Proof.Machine.execJoinTimeout w addr s
  | .exit o => Sys2Proof.Machine.execExit o s
  | .yield o => Sys2Proof.Machine.execYield o s
  | .brk o => Sys2Proof.Machine.execBrk o s
  | .shfl m o => Sys2Proof.Machine.execShfl m o s
  | .vote op o => Sys2Proof.Machine.execVote op o s
  | .rdux r => Sys2Proof.Machine.execRdux r s
  | .movC16 o => Sys2Proof.Machine.execMovC16 o s
  | .iaddC16 o => Sys2Proof.Machine.execIaddC16 o s
  | .isubC16 o => Sys2Proof.Machine.execIsubC16 o s
  | .andC16 o => Sys2Proof.Machine.execAndC16 o s
  | .orC16 o => Sys2Proof.Machine.execOrC16 o s
  | .xorC16 o => Sys2Proof.Machine.execXorC16 o s
  | .shlC16 o => Sys2Proof.Machine.execShlC16 o s
  | .shrC16 o => Sys2Proof.Machine.execShrC16 o s
  | .sarC16 o => Sys2Proof.Machine.execSarC16 o s
  | .imulC16 o => Sys2Proof.Machine.execImulC16 o s
  | .iminC16 o => Sys2Proof.Machine.execIminC16 o s
  | .imaxC16 o => Sys2Proof.Machine.execImaxC16 o s
  | .faddC16 o => Sys2Proof.Machine.execFaddC16 o s
  | .fmulC16 o => Sys2Proof.Machine.execFmulC16 o s
  | .fminC16 o => Sys2Proof.Machine.execFminC16 o s
  | .fmaxC16 o => Sys2Proof.Machine.execFmaxC16 o s
  | .ld f o => Sys2Proof.Machine.execLd f o s
  | .loadDataReturn w r => Sys2Proof.Machine.execLoadDataReturn w r s
  | .st f o => Sys2Proof.Machine.execSt f o s
  | .lds f o => Sys2Proof.Machine.execLds f o s
  | .sts f o => Sys2Proof.Machine.execSts f o s
  | .ldt o => Sys2Proof.Machine.execLdt o s
  | .stmap o => Sys2Proof.Machine.execStmap o s
  | .stunmap o => Sys2Proof.Machine.execStunmap o s
  | .pref l o => Sys2Proof.Machine.execPref l o s
  | .discard o => Sys2Proof.Machine.execDiscard o s
  | .driftP o => Sys2Proof.Machine.execDriftP o s
  | .driftD o => Sys2Proof.Machine.execDriftD o s
  | .driftQ o => Sys2Proof.Machine.execDriftQ o s
  | .rowCopyEnd id failed => Sys2Proof.Machine.execRowCopyEnd id failed s
  | .copybackRetry id failed => Sys2Proof.Machine.execCopybackRetry id failed s
  | .markedSlotCopyback id => Sys2Proof.Machine.execMarkedSlotCopyback id s
  | .repeatedActivationPromotion chunk => Sys2Proof.Machine.execRepeatedActivationPromotion chunk s
  | .fence o => Sys2Proof.Machine.execFence o s
  | .atom op o => Sys2Proof.Machine.execAtom op o s
  | .redf f o => Sys2Proof.Machine.execRedf f o s
  | .contributionApply slice k => Sys2Proof.Machine.execContributionApply slice k s
  | .enq o => Sys2Proof.Machine.execEnq o s
  | .deq o => Sys2Proof.Machine.execDeq o s
  | .waitv o => Sys2Proof.Machine.execWaitv o s
  | .waitvDeadline die k => Sys2Proof.Machine.execWaitvDeadline die k s
  | .wakev o => Sys2Proof.Machine.execWakev o s
  | .proxyWake die k => Sys2Proof.Machine.execProxyWake die k s
  | .barArrive o => Sys2Proof.Machine.execBarArrive o s
  | .barWait o => Sys2Proof.Machine.execBarWait o s
  | .barSync o => Sys2Proof.Machine.execBarSync o s
  | .barPend o => Sys2Proof.Machine.execBarPend o s
  | .twaitAny o => Sys2Proof.Machine.execTwaitAny o s
  | .twaitAll o => Sys2Proof.Machine.execTwaitAll o s
  | .tffr o => Sys2Proof.Machine.execTffr o s
  | .tclr o => Sys2Proof.Machine.execTclr o s
  | .mloop o => Sys2Proof.Machine.execMloop o s
  | .mloopComplete core tag => Sys2Proof.Machine.execMloopComplete core tag s
  | .mzero o => Sys2Proof.Machine.execMzero o s
  | .macq o => Sys2Proof.Machine.execMacq o s
  | .macqGrant slice line => Sys2Proof.Machine.execMacqGrant slice line s
  | .mrel o => Sys2Proof.Machine.execMrel o s
  | .countedRelease slice k => Sys2Proof.Machine.execCountedRelease slice k s
  | .mrelFin o => Sys2Proof.Machine.execMrelFin o s
  | .mread m o => Sys2Proof.Machine.execMread m o s
  | .mcvt df sat o => Sys2Proof.Machine.execMcvt df sat o s
  | .rowstat o => Sys2Proof.Machine.execRowstat o s
  | .redq f o => Sys2Proof.Machine.execRedq f o s
  | .mspill o => Sys2Proof.Machine.execMspill o s
  | .mfill o => Sys2Proof.Machine.execMfill o s
  | .copy o => Sys2Proof.Machine.execCopy o s
  | .copyComplete core tag => Sys2Proof.Machine.execCopyComplete core tag s
  | .mcast o => Sys2Proof.Machine.execMcast o s
  | .mcastComplete core tag => Sys2Proof.Machine.execMcastComplete core tag s
  | .msend o => Sys2Proof.Machine.execMsend o s
  | .messageReceive core => Sys2Proof.Machine.execMessageReceive core s
  | .launch o => Sys2Proof.Machine.execLaunch o s
  | .launchAccept => Sys2Proof.Machine.execLaunchAccept s
  | .dependencePoll queue => Sys2Proof.Machine.execDependencePoll queue s
  | .taskPlacement => Sys2Proof.Machine.execTaskPlacement s
  | .launchQueueAgeing queue => Sys2Proof.Machine.execLaunchQueueAgeing queue s
  | .taskStart task => Sys2Proof.Machine.execTaskStart task s
  | .warpSlotFree core slot => Sys2Proof.Machine.execWarpSlotFree core slot s
  | .dstop o => Sys2Proof.Machine.execDstop o s
  | .dresume o => Sys2Proof.Machine.execDresume o s
  | .warpSave core slot => Sys2Proof.Machine.execWarpSave core slot s
  | .taskResume task => Sys2Proof.Machine.execTaskResume task s
  | .sysc o => Sys2Proof.Machine.execSysc o s
  | .sqPressure core => Sys2Proof.Machine.execSqPressure core s
  | .sqtake o => Sys2Proof.Machine.execSqtake o s
  | .sqreply o => Sys2Proof.Machine.execSqreply o s
  | .gate o => Sys2Proof.Machine.execGate o s
  | .gateTimerFire die timer => Sys2Proof.Machine.execGateTimerFire die timer s
  | .fqtake o => Sys2Proof.Machine.execFqtake o s
  | .fqresume o => Sys2Proof.Machine.execFqresume o s
  | .tret o => Sys2Proof.Machine.execTret o s
  | .csrr o => Sys2Proof.Machine.execCsrr o s
  | .csrw o => Sys2Proof.Machine.execCsrw o s
  | .csrs o => Sys2Proof.Machine.execCsrs o s
  | .csrc o => Sys2Proof.Machine.execCsrc o s
  | .waymaskTakeEffect core => Sys2Proof.Machine.execWaymaskTakeEffect core s
  | .vrdi o => Sys2Proof.Machine.execVrdi o s
  | .vwri o => Sys2Proof.Machine.execVwri o s
  | .tlbi o => Sys2Proof.Machine.execTlbi o s
  | .tlbia o => Sys2Proof.Machine.execTlbia o s
  | .tlbig o => Sys2Proof.Machine.execTlbig o s
  | .cflush o => Sys2Proof.Machine.execCflush o s
  | .cinv o => Sys2Proof.Machine.execCinv o s
  | .icinv o => Sys2Proof.Machine.execIcinv o s
  | .osave o => Sys2Proof.Machine.execOsave o s
  | .odrop o => Sys2Proof.Machine.execOdrop o s
  | .interruptEntry core => Sys2Proof.Machine.execInterruptEntry core s
  | .timecmpMatch core => Sys2Proof.Machine.execTimecmpMatch core s
  | .globalTick adv => Sys2Proof.Machine.execGlobalTick adv s
  | .predictorDecay => Sys2Proof.Machine.execPredictorDecay s
  | .migrationStart => Sys2Proof.Machine.execMigrationStart s
  | .migrationEndForward => Sys2Proof.Machine.execMigrationEndForward s
  | .referenceClockLost => Sys2Proof.Machine.execReferenceClockLost s
  | .linkRetire router port => Sys2Proof.Machine.execLinkRetire router port s
  | .linkBounce router port => Sys2Proof.Machine.execLinkBounce router port s
  | .linkTrain router port ok => Sys2Proof.Machine.execLinkTrain router port ok s
  | .routeTableWrite unit entry v => Sys2Proof.Machine.execRouteTableWrite unit entry v s
  | .slstartGo core => Sys2Proof.Machine.execSlstartGo core s
  | .timeset v => Sys2Proof.Machine.execTimeset v s
  | .regdis slice v => Sys2Proof.Machine.execRegdis slice v s
  | .iommuInvAll => Sys2Proof.Machine.execIommuInvAll s
  | .iommuInvPartition arg => Sys2Proof.Machine.execIommuInvPartition arg s
  | .iommuInvRequester arg => Sys2Proof.Machine.execIommuInvRequester arg s
  | .iommuInvPasid arg => Sys2Proof.Machine.execIommuInvPasid arg s
  | .iommuInvRemap arg => Sys2Proof.Machine.execIommuInvRemap arg s
  | .ueDoorbell port qp count => Sys2Proof.Machine.execUeDoorbell port qp count s
  | .lostcmd v => Sys2Proof.Machine.execLostcmd v s
  | .scrubUnfenceKeep => Sys2Proof.Machine.execScrubUnfenceKeep s
  | .scrubUnfenceZero => Sys2Proof.Machine.execScrubUnfenceZero s
  | .joindevGo dev answer => Sys2Proof.Machine.execJoindevGo dev answer s
  | .hmcmdGo v => Sys2Proof.Machine.execHmcmdGo v s
  | .slotRetire id => Sys2Proof.Machine.execSlotRetire id s
  | .slotReturn id => Sys2Proof.Machine.execSlotReturn id s
  | .mcfgLock v => Sys2Proof.Machine.execMcfgLock v s
  | .powerOnReset => Sys2Proof.Machine.execPowerOnReset s
  | .siblingLockTimeout => Sys2Proof.Machine.execSiblingLockTimeout s
  | .measext die digest => Sys2Proof.Machine.execMeasext die digest s
  | .attgo die => Sys2Proof.Machine.execAttgo die s
  | .claimgo die => Sys2Proof.Machine.execClaimgo die s
  | .claimSettle die => Sys2Proof.Machine.execClaimSettle die s
  | .plango seq => Sys2Proof.Machine.execPlango seq s
  | .registerWrite off n v => Sys2Proof.Machine.execRegisterWrite off n v s
  | .unassignedEncoding sub => Sys2Proof.Machine.execUnassignedEncoding sub s
  | .logicalClockAdvance => Sys2Proof.Machine.execLogicalClockAdvance s
  | .engineBytesDelivered core tag => Sys2Proof.Machine.execEngineBytesDelivered core tag s
  | .mloopStepEnd core tag => Sys2Proof.Machine.execMloopStepEnd core tag s
  | .migrationCopyDone => Sys2Proof.Machine.execMigrationCopyDone s
  | .homeMoveDone => Sys2Proof.Machine.execHomeMoveDone s
  | .planemapWrite v => Sys2Proof.Machine.execPlanemapWrite v s
  | .timeSyncExchange m => Sys2Proof.Machine.execTimeSyncExchange m s
  | .cadastreRequest parcel r => Sys2Proof.Machine.execCadastreRequest parcel r s
  | .invalidationReceive parcel => Sys2Proof.Machine.execInvalidationReceive parcel s
  | .recallReceive parcel => Sys2Proof.Machine.execRecallReceive parcel s
  | .dramRefresh bank rfm => Sys2Proof.Machine.execDramRefresh bank rfm s
  | .dramPatrolRead site r => Sys2Proof.Machine.execDramPatrolRead site r s
  | .eccCountRead stack n => Sys2Proof.Machine.execEccCountRead stack n s
  | .fatalEvent src cause unit => Sys2Proof.Machine.execFatalEvent src cause unit s
  | .packetArrival router port p => Sys2Proof.Machine.execPacketArrival router port p s
  | .outputArbitration router port => Sys2Proof.Machine.execOutputArbitration router port s
  | .promotionCycle router port => Sys2Proof.Machine.execPromotionCycle router port s
  | .flitReplay router port eighth => Sys2Proof.Machine.execFlitReplay router port eighth s
  | .channelStall router port vc => Sys2Proof.Machine.execChannelStall router port vc s
  | .bouncedReinject unit => Sys2Proof.Machine.execBouncedReinject unit s
  | .routerGate router => Sys2Proof.Machine.execRouterGate router s
  | .routerWake router => Sys2Proof.Machine.execRouterWake router s
  | .endpointRequest r => Sys2Proof.Machine.execEndpointRequest r s
  | .interruptMessageWrite by_ data => Sys2Proof.Machine.execInterruptMessageWrite by_ data s
  | .rootPortCompletionTimeout port => Sys2Proof.Machine.execRootPortCompletionTimeout port s
  | .rootPortLinkDown port => Sys2Proof.Machine.execRootPortLinkDown port s
  | .rootPortAerEvent port unc bit => Sys2Proof.Machine.execRootPortAerEvent port unc bit s
  | .rootPortLinkTrained port rate => Sys2Proof.Machine.execRootPortLinkTrained port rate s
  | .ueDescriptorComplete port qp status readData => Sys2Proof.Machine.execUeDescriptorComplete port qp status readData s
  | .ueRemoteWrite port qp va bytes => Sys2Proof.Machine.execUeRemoteWrite port qp va bytes s
  | .ualinkPortDown port => Sys2Proof.Machine.execUalinkPortDown port s
  | .ualinkLinkRetry port => Sys2Proof.Machine.execUalinkLinkRetry port s
  | .homeTimeout dev recalled => Sys2Proof.Machine.execHomeTimeout dev recalled s
  | .fatalNoticeReceive dev => Sys2Proof.Machine.execFatalNoticeReceive dev s
  | .bootRomLoad die first second trainFail => Sys2Proof.Machine.execBootRomLoad die first second trainFail s
  | .claimReceive die c => Sys2Proof.Machine.execClaimReceive die c s
  | .stageDelivery die stage digest => Sys2Proof.Machine.execStageDelivery die stage digest s
  | .stageDeliveryAnswer die follower ok => Sys2Proof.Machine.execStageDeliveryAnswer die follower ok s
  | .heartbeatSend die => Sys2Proof.Machine.execHeartbeatSend die s
  | .heartbeatLapse die => Sys2Proof.Machine.execHeartbeatLapse die s
  | .surveyorTrigMeasure slacks plan noFull => Sys2Proof.Machine.execSurveyorTrigMeasure slacks plan noFull s
  | .surveyorTimingTest r plan noFull => Sys2Proof.Machine.execSurveyorTimingTest r plan noFull s
  | .temperatureWarning sensor => Sys2Proof.Machine.execTemperatureWarning sensor s
  | .temperatureTrip sensor => Sys2Proof.Machine.execTemperatureTrip sensor s
  | .sliceEviction slice line => Sys2Proof.Machine.execSliceEviction slice line s
  | .fillRequest core line => Sys2Proof.Machine.execFillRequest core line s
  | .storeAtHome core line => Sys2Proof.Machine.execStoreAtHome core line s
  | .proxyEntryEmptied die k => Sys2Proof.Machine.execProxyEntryEmptied die k s
  | .headReserve queue => Sys2Proof.Machine.execHeadReserve queue s
  | .slotCopybackTry id failed => Sys2Proof.Machine.execSlotCopybackTry id failed s

end Sys2Proof.Machine
end

