-- ==== Sys2Proof/Machine/Fetch.lean ====
section
/-! DEFINITION. Issue: which context, front and cluster comes next (R27, R28, R31, R43, R149, R322), and the fetch
of its instruction (R93, R94, R377, R399). -/

namespace Sys2Proof.Machine

/-! ### The choice of a cluster -/

/-- The lowest PC of the lanes ls that satisfies p. -/
def Warp.lowestPc (w : Warp) (p : Nat → Bool) (ls : List Nat) : Option Nat :=
  ls.foldl (fun acc l =>
    let pc := (w.lane l).pc.toNat
    if p pc then some (match acc with | some q => min q pc | none => pc) else acc) none

/-- The oldest lane of ls, the lowest number among equals. -/
def Warp.oldest (w : Warp) (ls : List Nat) : Option Nat :=
  ls.foldl (fun acc l =>
    match acc with
    | some q => if (w.lane q).age < (w.lane l).age then some l else some q
    | none => some l) none

/-- Where the front issues, and the front after the choice (R27, R31, R149). -/
def Warp.pickPc (w : Warp) (f : Front) : Nat × FrontSt :=
  let x := w.front f
  let ls := lanesOf (w.frontLanes f)
  let low := (w.lowestPc (fun _ => true) ls).getD 0
  let old := (w.oldest ls).filter fun l => decide (896 ≤ (w.lane l).age)
  let rotate (p : Nat) : Nat := (w.lowestPc (fun pc => decide (p < pc)) ls).getD low
  match old with
  | some l => ((w.lane l).pc.toNat, { (if 256 ≤ x.spin then x.clearSpin else x) with due := none })
  | none =>
    match x.due with
    | some p => (rotate p.toNat, { (if 256 ≤ x.spin then x.clearSpin else x) with due := none })
    | none => if 256 ≤ x.spin then (rotate low, x.clearSpin) else (low, x)

/-- The lanes of a front at a PC (R27). -/
def Warp.clusterAt (w : Warp) (f : Front) (pc : Nat) : Mask :=
  maskOf ((lanesOf (w.frontLanes f)).filter fun l => (w.lane l).pc.toNat = pc)

/-- The ages of the runnable lanes when the lanes of m issue (R31). -/
def Warp.ages (m : Mask) (w : Warp) : Warp :=
  { w with lanes := updAll Lane.absent (fun l y =>
      if y.st = .runnable then { y with age := if m.getLsbD l then 0 else y.age + 1 } else y) w.lanes }

/-! ### Fetch -/

/-- Why an instruction could not be fetched. -/
inductive FetchErr where
  | translation (x : XFault) (va : DWord)
  | data (sub : Nat)
  /-- No route to the home slice is open: the fetch waits (R16, R430). -/
  | held
  deriving DecidableEq, Repr

/-- The halfword at a physical address as core n sees it: an instruction copy that differs from memory may still
serve (R265). What serves may be poisoned, or its home refuse it (R408, R419). -/
def State.fetchAt (s : State) (n pa : Nat) : Except FetchErr Nat × State :=
  if s.place pa = .rom then (.ok (ofBytes (getBytes s.mem (localOf pa) 2)), s)
  else
    let a := s.fwd pa
    let (pl, k) := (a / 128, a % 128 / 32)
    let cut := s.wayCut n pa false
    let s := s.wakeWay n (128 + s.homeSlice pl)
    let bad := s.badData pa 2
    let (now, s) := if cut then (getBytes [] 0 2, s) else s.homeRead pa 2
    let fresh (s : State) : Except FetchErr Nat × State :=
      match bad with
      | some sub => (.error (.data sub), s)
      | none => (.ok (ofBytes now), s)
    match find (s.core n).icache pl with
    | some old =>
      let kept := getBytes old.data (a % 128) 2
      if cut ∨ (kept ≠ now ∨ old.bad.contains k ≠ bad.isSome) ∧ Config.choice s.draw (500000 + pa % 128) % 2 = 1 then
        (if old.bad.contains k then .error (.data 3) else .ok (ofBytes kept), s)
      else fresh s
    | none => fresh (s.modCore n fun c =>
        { c with icache := ins c.icache pl { data := (s.l2 pl).data, bad := poisonOf s.poison (pl * 128) 128 } })

/-- One halfword at a virtual address. -/
def State.fetchHalf (s : State) (cx : XCx) (va : DWord) : Except FetchErr Nat × State :=
  match s.translate cx .fetch va.toNat with
  | (.error x, s) => (.error (if x.waits then .held else .translation x va), s)
  | (.ok x, s) =>
    let pl := s.fwd x.pa / 128
    let s := s.peerNews x.pa
    if (find (s.core cx.core).icache pl).isNone && s.wayCut cx.core x.pa false then (.error .held, s)
    else match s.barred x.pa 2 with
    | some sub => (.error (.data sub), s)
    | none => s.fetchAt cx.core x.pa

/-- Halfwords k, k + 1, … of an instruction, `fuel` of them, after those in `acc`. -/
def State.fetchMore (cx : XCx) (va : DWord) : Nat → Nat → Nat → State → Except FetchErr Nat × State
  | 0, _, acc, s => (.ok acc, s)
  | fuel + 1, k, acc, s =>
    match s.fetchHalf cx (va + BitVec.ofNat 64 (2 * k)) with
    | (.error e, s) => (.error e, s)
    | (.ok h, s) => State.fetchMore cx va fuel (k + 1) (acc + h * 2 ^ (16 * k)) s

/-- Halfwords of the instruction that starts with h; one for the reserved length (R93, R94). -/
def halfwords (h : Nat) : Nat :=
  if h % 2 = 0 then 1
  else match h / 2 % 4 with | 0 => 2 | 1 => 4 | 2 => 6 | _ => 1

/-- The bits of the instruction at an address, and its length in bytes. -/
def State.fetch (s : State) (cx : XCx) (va : DWord) : Except FetchErr (BitVec 96 × Nat) × State :=
  match s.fetchHalf cx va with
  | (.error e, s) => (.error e, s)
  | (.ok h, s) =>
    match State.fetchMore cx va (halfwords h - 1) 1 h s with
    | (.error e, s) => (.error e, s)
    | (.ok x, s) => (.ok (BitVec.ofNat 96 x, 2 * halfwords h), s)

/-- A CSR access to a number, or a write of one, that no state has (R60): SUB 1, beside a reserved field too. -/
def csrUnlisted (bits : BitVec 96) : Bool :=
  bits.extractLsb' 4 7 == 0x75 &&
    (match csrInfo (bits.extractLsb' 51 12) with
      | none => true
      | some i => bits.extractLsb' 32 5 != 0 && !i.supW)

/-- What the bits stand for: an instruction, or the row that unassigned encodings have (R119, R120). An unlisted length comes
before an unlisted CSR number (log entry 115). -/
def decodeOr (bits : BitVec 96) : Instr :=
  match decode bits with
  | .ok i => i
  | .error .reservedLength => .unassignedEncoding none
  | .error .unassigned => .unassignedEncoding (some 1)
  | .error .length => .unassignedEncoding (some 2)
  | .error .reserved => .unassignedEncoding (some (if csrUnlisted bits then 1 else 3))

/-- The context an address is fetched in. -/
def State.fetchCx (s : State) (w : Who) (f : Front) : XCx :=
  { core := w.core, ptroot := (s.warpOf w).ptroot, asid := (s.warpOf w).asid, user := f == .user }

/-- The machine about to issue the lanes of front f of context w that stand at pc. -/
def State.aim (s : State) (w : Who) (f : Front) (pc : Nat) : State :=
  { s with cur := { who := w, front := f, cluster := (s.warpOf w).clusterAt f pc, pc := BitVec.ofNat 63 pc, words := 0, len := 2 } }

/-! ### Readiness and the choice of a front (R28) -/

/-- Every link is up and every route as after reset: nothing is cut off (R326, R362). -/
def State.plainNet (s : State) : Bool :=
  (s.routers.all fun e => e.2.linkst == 0) && (s.cores.all fun e => e.2.routes.isEmpty) &&
    s.slices.all fun e => e.2.routes.isEmpty && !e.2.retired

/-- No fetch at the address where context w would issue can wait for a UALink port (R436). -/
def State.nearFetch (s : State) (w : Who) (f : Front) : Bool :=
  (List.range 16).all s.linkUp ||
    !(s.warpOf w).ptroot.getLsbD 0 && decide (devOf (2 * ((s.warpOf w).pickPc f).1) = s.devnum)

/-- The front has collected the operands of the instruction that it would issue: neither an engine instruction whose tag or
quarter is taken (R224, R321) nor one whose fetch waits for a route (R16, R430) is collected. -/
def State.collected (s : State) (w : Who) (f : Front) : Bool :=
  let c := s.core w.core
  if c.tagUsed = 0 ∧ c.runs = [] ∧ s.plainNet ∧ s.nearFetch w f then true
  else
    let s := s.aim w f ((s.warpOf w).pickPc f).1
    match s.fetch (s.fetchCx w f) (s.cur.pc ++ 0#1) with
    | (.ok (bits, _), s) => !s.engineHeld (decodeOr bits)
    | (.error .held, _) => false
    | (.error _, _) => true

/-- A front that nothing holds: no switch marker, entry to a handler or wait of the front itself (R29, R378). -/
def Warp.frontFree (w : Warp) (f : Front) : Bool :=
  w.frontLanes f != 0 && !w.stopping && (w.front f).hold == .none &&
    !(f == .sup && w.user.loads.any fun m => m &&& w.sup.entry != 0) && !((w.front f).parked && w.outstanding f)

/-- A front that may issue (R28). -/
def State.frontReady (s : State) (w : Who) (f : Front) : Bool := (s.warpOf w).frontFree f && s.collected w f

/-- The front of context w that issues, if one is ready (R28). -/
def State.pickFront (s : State) (w : Who) : Option Front :=
  match s.frontReady w .user, s.frontReady w .sup with
  | true, true => some (if (s.warpOf w).last = some .user then .sup else .user)
  | true, false => some .user
  | false, true => some .sup
  | false, false => none

/-! ### The choice of a context -/

/-- The supervisor lane may issue or take an interrupt: one that is admitted is taken before the next instruction, once
no result of the lane is outstanding (R343). -/
def State.slReady (s : State) (n : Nat) : Bool :=
  if s.interruptAdmitted n then s.interruptDue n else !(s.core n).sl.halt && s.frontReady ⟨n, .sl⟩ .sup

/-- The slot that issued longest ago, or never, among the ready ones (R322). -/
def State.oldestReady (s : State) (n : Nat) : Option Nat :=
  let c := s.core n
  let ready := (c.slots.filter fun e => (s.pickFront ⟨n, .slot e.1⟩).isSome).map (·.1)
  match ready.filter fun k => !c.order.contains k with
  | k :: _ => some k
  | [] => c.order.find? fun k => ready.contains k

/-- What core n issues next: the supervisor lane at most every second time (R43). -/
def State.coreNext (s : State) (n : Nat) : Option Ctx :=
  match s.slReady n && !(s.core n).slAge, s.oldestReady n with
  | true, _ => some .sl
  | false, some k => some (.slot k)
  | false, none => if s.slReady n then some .sl else none

/-- The next context in rotation over the cores after core `after`. -/
def State.nextReady (s : State) : Option Who :=
  let ready := (s.cores.filter fun e => (s.coreNext e.1).isSome).map (·.1)
  let n := match ready.find? fun n => decide (s.last.core < n) with
    | some n => some n
    | none => ready.head?
  match n with
  | some n => (s.coreNext n).map fun x => ⟨n, x⟩
  | none => none

/-- The context that the default schedule issues: the next in rotation, unless a round of the rotation ends whose tick
has not come. -/
def State.turn (s : State) : Option Who :=
  if s.fatal then none
  else match s.nextReady with
    | some w => if w.core ≤ s.last.core ∧ !s.ticked then none else some w
    | none => none

/-! ### Issue -/

/-- The core's order of issue after an issue (R43, R322). -/
def Core.issued (x : Ctx) (c : Core) : Core :=
  match x with
  | .sl => { c with slAge := true }
  | .slot k => { c with slAge := false, order := (c.order.filter fun j => j ≠ k) ++ [k] }

/-- The issue of front f of context w: markers whose results are all written end, the ages and the rotation are booked,
and `cur` names the cluster. -/
def State.beginIssue (s : State) (w : Who) (f : Front) : State :=
  let x := ((s.warpOf w).unpark .user s.draw).unpark .sup s.draw
  let x := if f = .sup then x.settleEntry s.draw else x
  let (pc, fs) := x.pickPc f
  let s := s.setWarpOf w ((x.setFront f fs).ages (x.clusterAt f pc))
  { (s.modCore w.core (Core.issued w.ctx)).aim w f pc with last := w }

/-- The fetch failed: every lane of the cluster meets the fault, its words read as 0 (R377, R399), or stands where it is
until a route is open. -/
def State.fetchFault (s : State) (e : FetchErr) : State :=
  let s := match e with
    | .translation x va =>
      let n := s.cur.who.core
      ((lanesOf s.cur.cluster).foldl (fun s l => s.faultLane .fetch x va Tops.zero l) s).fqFlush n (s.core n).fqCount
    | .data sub => s.trapMask s.cur.cluster (fun _ => ⟨0x14, sub⟩) fun _ => Tops.zero
    | .held => s
  finish false 0 s

/-- The issue of a context: the instruction to execute, or the machine after a fetch that failed; the machine
itself where no front is ready. -/
def State.issue (s : State) (w : Who) : Option Instr × State :=
  match s.pickFront w with
  | none => (none, s)
  | some f =>
    let s := s.beginIssue w f
    match s.fetch (s.fetchCx w f) (s.cur.pc ++ 0#1) with
    | (.error e, s) => (none, s.fetchFault e)
    | (.ok (bits, len), s) => (some (decodeOr bits), { s with cur := { s.cur with words := bits, len := len } })

/-- The state that issues next without its schedule: nothing pending, and bytes of instruction x in memory at the
issue address of that context. A translated address, or one outside local memory, takes the bytes where the fetch
looks. -/
def State.placeFetch (s : State) (x : Nat) : State :=
  let s : State := { s with tape := [], backlog := [], ticked := true, fatal := false }
  let w := s.nextReady.getD ⟨0, .sl⟩
  let f := (s.pickFront w).getD .sup
  let pc := ((s.warpOf w).pickPc f).1
  match s.translate (s.fetchCx w f) .fetch (2 * pc) with
  | (.ok a, s') =>
    if s'.place a.pa = .rom then { s with mem := putBytes s.mem (localOf a.pa) (toBytes 12 x) }
    else s.devWrite a.pa (toBytes 12 x)
  | (.error _, _) => s

end Sys2Proof.Machine
end

