-- ==== Sys2Proof/Machine/Step.lean ====
section
/-! DEFINITION. One step of the machine: the next entry of the schedule, a pending event of the machine's own, the
next ready context, or a global tick. -/

namespace Sys2Proof.Machine

/-- The issue of context w: the interrupt of a supervisor lane that admits one, else the instruction at its issue
address (R343). -/
def stepIssue (w : Who) (s : State) : Host.Outcome State Fault Refusal :=
  if w.ctx = .sl ∧ s.interruptDue w.core then exec (.interruptEntry w.core) s
  else if w.ctx = .sl ∧ ((s.core w.core).sl.halt ∨ s.interruptAdmitted w.core) then .next s
  else
    match s.issue w with
    | (some i, s) => exec i s
    | (none, s) => .next s

/-- What a device with a fatal record still does: its clock and its refresh go on until a reset (R427). -/
def actsFatal : Instr → Bool
  | .globalTick _ | .dramRefresh _ _ | .powerOnReset => true
  | _ => false

/-- An event comes about; none that a device with a fatal record takes part in does (R427). -/
def stepEvent (i : Instr) (s : State) : Host.Outcome State Fault Refusal :=
  if s.fatal && !actsFatal i then .next s else exec i s

/-- One step (log entry 1): the schedule, then the backlog, then the ready contexts in rotation with one global tick to
each round. A device with a fatal record issues nothing (R427). -/
def step (s : State) : Host.Outcome State Fault Refusal :=
  match s.tape with
  | .event i :: ts => stepEvent i { s with tape := ts }
  | .issue w :: ts => if s.fatal then .next { s with tape := ts } else stepIssue w { s with tape := ts }
  | [] =>
    match s.backlog with
    | i :: is => stepEvent i { s with backlog := is }
    | [] =>
      match s.turn with
      | some w => stepIssue w { s with ticked := false }
      | none => exec (.globalTick s.tickAdv) s

/-- The machine with an instruction of nbits bits, w, where the next step fetches: the bytes of memory at the issue
address of the context that issues next, 12 of them (the longest instruction). -/
def State.withFetchWord (s : State) (nbits w : Nat) : State :=
  s.placeFetch (w % 2 ^ nbits)

end Sys2Proof.Machine
end

