-- ==== Sys2Proof/Laws/Table.lean ====
section
/-! SUPPORT. The indexed stores: what a key holds after each operation, and that each keeps the canonical form. -/

namespace Sys2Proof.Machine

variable {α : Type}

/-! ### Looking up after a change -/

theorem look_ins (d : α) (t : Table α) (k j : Nat) (v : α) :
    look d (ins t k v) j = if j = k then v else look d t j := by
  induction t with
  | nil =>
    by_cases h : j = k
    · subst h; simp [ins, look]
    · simp [ins, look, h, Ne.symm h]
  | cons e t ih =>
    obtain ⟨i, w⟩ := e
    simp only [ins]
    split
    · simp only [look]
      by_cases h : j = k
      · rw [if_pos h, if_pos h.symm]
      · rw [if_neg h, if_neg (Ne.symm h)]
    · split
      · rename_i hik
        subst hik
        simp only [look]
        by_cases h : j = i
        · rw [if_pos h, if_pos h.symm]
        · rw [if_neg h, if_neg (Ne.symm h), if_neg (Ne.symm h)]
      · rename_i hik
        simp only [look]
        rw [ih]
        by_cases h : i = j
        · rw [if_pos h, if_pos h, if_neg (fun hk => hik (h.trans hk))]
        · rw [if_neg h, if_neg h]

theorem look_del (d : α) (t : Table α) (k j : Nat) : look d (del t k) j = if j = k then d else look d t j := by
  induction t with
  | nil => simp [del, look]
  | cons e t ih =>
    obtain ⟨i, w⟩ := e
    have h : del ((i, w) :: t) k = if i = k then del t k else (i, w) :: del t k := by
      by_cases hi : i = k <;> simp [del, hi]
    rw [h]
    by_cases hi : i = k
    · subst i; rw [if_pos rfl, ih]; simp only [look]; split <;> simp_all
      intro h; simp_all
    · rw [if_neg hi]; simp only [look, ih]; split <;> split <;> simp_all

/-- What a key holds after a write: the value written there, and what it held before everywhere else. -/
theorem look_put [DecidableEq α] (d : α) (t : Table α) (k j : Nat) (v : α) :
    look d (put d t k v) j = if j = k then v else look d t j := by
  unfold put; split
  · subst v; exact look_del d t k j
  · exact look_ins d t k j v

@[simp] theorem look_put_self [DecidableEq α] (d : α) (t : Table α) (k : Nat) (v : α) : look d (put d t k v) k = v := by
  simp [look_put]

theorem look_put_of_ne [DecidableEq α] (d : α) (t : Table α) {k j : Nat} (v : α) (h : j ≠ k) :
    look d (put d t k v) j = look d t j := by
  simp [look_put, h]

theorem look_upd [DecidableEq α] (d : α) (t : Table α) (k j : Nat) (f : α → α) :
    look d (upd d t k f) j = if j = k then f (look d t k) else look d t j := look_put d t k j _

theorem find_ins (t : Table α) (k j : Nat) (v : α) :
    find (ins t k v) j = if j = k then some v else find t j := by
  induction t with
  | nil =>
    by_cases h : j = k
    · subst h; simp [ins, find]
    · simp [ins, find, h, Ne.symm h]
  | cons e t ih =>
    obtain ⟨i, w⟩ := e
    simp only [ins]
    split
    · simp only [find]
      by_cases h : j = k
      · rw [if_pos h, if_pos h.symm]
      · rw [if_neg h, if_neg (Ne.symm h)]
    · split
      · rename_i hik
        subst hik
        simp only [find]
        by_cases h : j = i
        · rw [if_pos h, if_pos h.symm]
        · rw [if_neg h, if_neg (Ne.symm h), if_neg (Ne.symm h)]
      · rename_i hik
        simp only [find]
        rw [ih]
        by_cases h : i = j
        · rw [if_pos h, if_pos h, if_neg (fun hk => hik (h.trans hk))]
        · rw [if_neg h, if_neg h]

/-- A key that is not listed holds the default. -/
theorem look_of_not_mem (d : α) (t : Table α) (j : Nat) (h : ∀ e ∈ t, e.1 ≠ j) : look d t j = d := by
  induction t with
  | nil => rfl
  | cons e t ih =>
    obtain ⟨i, w⟩ := e
    have hi : i ≠ j := h (i, w) (by simp)
    simp only [look, hi, if_false]
    exact ih fun e he => h e (by simp [he])

theorem look_foldl_put [DecidableEq α] (d : α) (g : Nat → α) (l acc : Table α) (j : Nat) :
    look d (l.foldl (fun acc e => put d acc e.1 (g e.1)) acc) j = if (∃ e ∈ l, e.1 = j) then g j else look d acc j := by
  induction l generalizing acc with
  | nil => simp
  | cons e l ih =>
    rw [List.foldl_cons, ih]
    by_cases h : ∃ e' ∈ l, e'.1 = j
    · rw [if_pos h, if_pos]
      obtain ⟨e', he, hj⟩ := h
      exact ⟨e', by simp [he], hj⟩
    · rw [if_neg h, look_put]
      by_cases he : j = e.1
      · rw [if_pos he, if_pos ⟨e, by simp, he.symm⟩, he]
      · rw [if_neg he, if_neg]
        rintro ⟨e', hm, hj⟩
        rcases List.mem_cons.mp hm with rfl | hm
        · exact he hj.symm
        · exact h ⟨e', hm, hj⟩

/-- Every entry of an indexed store after a change of all of them. The default must stay the default. -/
theorem look_updAll [DecidableEq α] (d : α) (g : Nat → α → α) (hg : ∀ k, g k d = d) (t : Table α) (j : Nat) :
    look d (updAll d g t) j = g j (look d t j) := by
  unfold updAll
  rw [look_foldl_put d (fun k => g k (look d t k)) t t j]
  by_cases h : ∃ e ∈ t, e.1 = j
  · rw [if_pos h]
  · have hd : look d t j = d := look_of_not_mem d t j fun e he hj => h ⟨e, he, hj⟩
    rw [if_neg h, hd, hg]

/-! ### The canonical form -/

theorem rising_cons {j : Nat} {v : α} {t : Table α} :
    rising ((j, v) :: t) = true ↔ (∀ e ∈ t, j < e.1) ∧ rising t = true := by
  induction t generalizing j v with
  | nil => simp [rising]
  | cons e t ih =>
    obtain ⟨k, w⟩ := e
    rw [show rising ((j, v) :: (k, w) :: t) = (decide (j < k) && rising ((k, w) :: t)) from rfl]
    rw [Bool.and_eq_true, decide_eq_true_iff]
    constructor
    · rintro ⟨hjk, hr⟩
      refine ⟨?_, hr⟩
      intro e he
      rcases List.mem_cons.mp he with rfl | he
      · exact hjk
      · exact Nat.lt_trans hjk ((ih.mp hr).1 e he)
    · rintro ⟨h, hr⟩
      exact ⟨h (k, w) (by simp), hr⟩

theorem mem_ins {t : Table α} {k : Nat} {v : α} {e : Nat × α} (h : e ∈ ins t k v) : e = (k, v) ∨ e ∈ t := by
  induction t with
  | nil => simp [ins] at h; exact .inl h
  | cons x t ih =>
    obtain ⟨i, w⟩ := x
    simp only [ins] at h
    split at h
    · rcases List.mem_cons.mp h with h | h
      · exact .inl h
      · exact .inr h
    · split at h
      · rcases List.mem_cons.mp h with h | h
        · exact .inl h
        · exact .inr (by simp [h])
      · rcases List.mem_cons.mp h with h | h
        · exact .inr (by simp [h])
        · rcases ih h with h | h
          · exact .inl h
          · exact .inr (by simp [h])

theorem rising_ins {t : Table α} (k : Nat) (v : α) (h : rising t = true) : rising (ins t k v) = true := by
  induction t with
  | nil => simp [ins, rising]
  | cons x t ih =>
    obtain ⟨i, w⟩ := x
    obtain ⟨hlt, hr⟩ := rising_cons.mp h
    simp only [ins]
    split
    · rename_i hk
      refine rising_cons.mpr ⟨?_, h⟩
      intro e he
      rcases List.mem_cons.mp he with rfl | he
      · exact hk
      · exact Nat.lt_trans hk (hlt e he)
    · split
      · subst i; exact rising_cons.mpr ⟨hlt, hr⟩
      · rename_i h1 h2
        refine rising_cons.mpr ⟨?_, ih hr⟩
        intro e he
        rcases mem_ins he with rfl | he
        · exact Nat.lt_of_le_of_ne (Nat.le_of_not_lt h1) h2
        · exact hlt e he

theorem rising_filter {t : Table α} (p : Nat × α → Bool) (h : rising t = true) : rising (t.filter p) = true := by
  induction t with
  | nil => rfl
  | cons x t ih =>
    obtain ⟨i, w⟩ := x
    obtain ⟨hlt, hr⟩ := rising_cons.mp h
    rw [List.filter_cons]
    split
    · refine rising_cons.mpr ⟨?_, ih hr⟩
      intro e he
      exact hlt e (List.mem_filter.mp he).1
    · exact ih hr

theorem canon_iff [DecidableEq α] {d : α} {t : Table α} :
    canon d t = true ↔ rising t = true ∧ ∀ e ∈ t, e.2 ≠ d := by
  simp [canon]

theorem canon_nil [DecidableEq α] (d : α) : canon d [] = true := rfl

theorem canon_filter [DecidableEq α] {d : α} {t : Table α} (p : Nat × α → Bool) (h : canon d t = true) :
    canon d (t.filter p) = true := by
  obtain ⟨hr, hd⟩ := canon_iff.mp h
  exact canon_iff.mpr ⟨rising_filter p hr, fun e he => hd e (List.mem_filter.mp he).1⟩

theorem canon_del [DecidableEq α] {d : α} {t : Table α} (k : Nat) (h : canon d t = true) : canon d (del t k) = true :=
  canon_filter _ h

theorem canon_ins [DecidableEq α] {d : α} {t : Table α} (k : Nat) {v : α} (hv : v ≠ d) (h : canon d t = true) :
    canon d (ins t k v) = true := by
  obtain ⟨hr, hd⟩ := canon_iff.mp h
  refine canon_iff.mpr ⟨rising_ins k v hr, ?_⟩
  intro e he
  rcases mem_ins he with rfl | he
  · exact hv
  · exact hd e he

/-- A write keeps the canonical form: the default is not listed. -/
theorem canon_put [DecidableEq α] {d : α} {t : Table α} (k : Nat) (v : α) (h : canon d t = true) :
    canon d (put d t k v) = true := by
  unfold put; split
  · exact canon_del k h
  · exact canon_ins k (by assumption) h

theorem canon_upd [DecidableEq α] {d : α} {t : Table α} (k : Nat) (f : α → α) (h : canon d t = true) :
    canon d (upd d t k f) = true := canon_put k _ h

/-- A fold of steps each of which keeps a property keeps it. -/
theorem foldl_keeps {β : Type} (P : α → Prop) (f : α → β → α) (hf : ∀ a b, P a → P (f a b)) (l : List β) (a : α) (h : P a) :
    P (l.foldl f a) := by
  induction l generalizing a with
  | nil => exact h
  | cons b l ih => exact ih _ (hf a b h)

/-- A fold of steps none of which changes a view leaves the view as it was. -/
theorem foldl_view {β γ : Type} (g : α → γ) (f : α → β → α) (hf : ∀ a b, g (f a b) = g a) (l : List β) (a : α) :
    g (l.foldl f a) = g a :=
  foldl_keeps (fun x => g x = g a) f (fun x b h => (hf x b).trans h) l a rfl

theorem canon_updAll [DecidableEq α] {d : α} (g : Nat → α → α) {t : Table α} (h : canon d t = true) :
    canon d (updAll d g t) = true :=
  foldl_keeps (fun x => canon d x = true) _ (fun _ _ hx => canon_put _ _ hx) t t h

/-! ### Lanes of a mask -/

theorem mem_lanesOf {m : Mask} {l : Nat} : l ∈ lanesOf m ↔ m.getLsbD l = true := by
  simp only [lanesOf, List.mem_filter, List.mem_range]
  constructor
  · exact fun h => h.2
  · intro h
    refine ⟨?_, h⟩
    apply Decidable.byContradiction
    intro hl
    rw [BitVec.getLsbD_of_ge m l (by omega)] at h
    exact Bool.noConfusion h

theorem lane_lt {m : Mask} {l : Nat} (h : l ∈ lanesOf m) : l < 32 := by
  simp only [lanesOf, List.mem_filter, List.mem_range] at h
  exact h.1

end Sys2Proof.Machine
end

