-- ==== Sys2Proof/Laws/State.lean ====
section
/-! SUPPORT. The updates of the state: what each field holds after each of them, and what a core, a slice and a warp read
after one of them changed. -/

namespace Sys2Proof.Machine

/-! ### setCore -/

@[simp] theorem State.setCore_slices (s : State) (n : Nat) (c : Core) : (s.setCore n c).slices = s.slices := rfl
@[simp] theorem State.setCore_mem (s : State) (n : Nat) (c : Core) : (s.setCore n c).mem = s.mem := rfl
@[simp] theorem State.setCore_peer (s : State) (n : Nat) (c : Core) : (s.setCore n c).peer = s.peer := rfl
@[simp] theorem State.setCore_poison (s : State) (n : Nat) (c : Core) : (s.setCore n c).poison = s.poison := rfl
@[simp] theorem State.setCore_devnum (s : State) (n : Nat) (c : Core) : (s.setCore n c).devnum = s.devnum := rfl
@[simp] theorem State.setCore_pinned (s : State) (n : Nat) (c : Core) : (s.setCore n c).pinned = s.pinned := rfl
@[simp] theorem State.setCore_homemap (s : State) (n : Nat) (c : Core) : (s.setCore n c).homemap = s.homemap := rfl
@[simp] theorem State.setCore_asidtb (s : State) (n : Nat) (c : Core) : (s.setCore n c).asidtb = s.asidtb := rfl
@[simp] theorem State.setCore_ff (s : State) (n : Nat) (c : Core) : (s.setCore n c).ff = s.ff := rfl
@[simp] theorem State.setCore_peerTime (s : State) (n : Nat) (c : Core) : (s.setCore n c).peerTime = s.peerTime := rfl
@[simp] theorem State.setCore_devTime (s : State) (n : Nat) (c : Core) : (s.setCore n c).devTime = s.devTime := rfl
@[simp] theorem State.setCore_time (s : State) (n : Nat) (c : Core) : (s.setCore n c).time = s.time := rfl
@[simp] theorem State.setCore_gaz (s : State) (n : Nat) (c : Core) : (s.setCore n c).gaz = s.gaz := rfl
@[simp] theorem State.setCore_elog (s : State) (n : Nat) (c : Core) : (s.setCore n c).elog = s.elog := rfl
@[simp] theorem State.setCore_disp (s : State) (n : Nat) (c : Core) : (s.setCore n c).disp = s.disp := rfl
@[simp] theorem State.setCore_saved (s : State) (n : Nat) (c : Core) : (s.setCore n c).saved = s.saved := rfl
@[simp] theorem State.setCore_savedBars (s : State) (n : Nat) (c : Core) : (s.setCore n c).savedBars = s.savedBars := rfl
@[simp] theorem State.setCore_areas (s : State) (n : Nat) (c : Core) : (s.setCore n c).areas = s.areas := rfl
@[simp] theorem State.setCore_areaWrites (s : State) (n : Nat) (c : Core) : (s.setCore n c).areaWrites = s.areaWrites := rfl
@[simp] theorem State.setCore_savedRuns (s : State) (n : Nat) (c : Core) : (s.setCore n c).savedRuns = s.savedRuns := rfl
@[simp] theorem State.setCore_savedWins (s : State) (n : Nat) (c : Core) : (s.setCore n c).savedWins = s.savedWins := rfl
@[simp] theorem State.setCore_timers (s : State) (n : Nat) (c : Core) : (s.setCore n c).timers = s.timers := rfl
@[simp] theorem State.setCore_memctl (s : State) (n : Nat) (c : Core) : (s.setCore n c).memctl = s.memctl := rfl
@[simp] theorem State.setCore_fabric (s : State) (n : Nat) (c : Core) : (s.setCore n c).fabric = s.fabric := rfl
@[simp] theorem State.setCore_io (s : State) (n : Nat) (c : Core) : (s.setCore n c).io = s.io := rfl
@[simp] theorem State.setCore_ue (s : State) (n : Nat) (c : Core) : (s.setCore n c).ue = s.ue := rfl
@[simp] theorem State.setCore_boot (s : State) (n : Nat) (c : Core) : (s.setCore n c).boot = s.boot := rfl
@[simp] theorem State.setCore_survey (s : State) (n : Nat) (c : Core) : (s.setCore n c).survey = s.survey := rfl
@[simp] theorem State.setCore_routers (s : State) (n : Nat) (c : Core) : (s.setCore n c).routers = s.routers := rfl
@[simp] theorem State.setCore_ifaces (s : State) (n : Nat) (c : Core) : (s.setCore n c).ifaces = s.ifaces := rfl
@[simp] theorem State.setCore_msgs (s : State) (n : Nat) (c : Core) : (s.setCore n c).msgs = s.msgs := rfl
@[simp] theorem State.setCore_buses (s : State) (n : Nat) (c : Core) : (s.setCore n c).buses = s.buses := rfl
@[simp] theorem State.setCore_out (s : State) (n : Nat) (c : Core) : (s.setCore n c).out = s.out := rfl
@[simp] theorem State.setCore_fatal (s : State) (n : Nat) (c : Core) : (s.setCore n c).fatal = s.fatal := rfl
@[simp] theorem State.setCore_fatalRec (s : State) (n : Nat) (c : Core) : (s.setCore n c).fatalRec = s.fatalRec := rfl
@[simp] theorem State.setCore_timesetOpen (s : State) (n : Nat) (c : Core) : (s.setCore n c).timesetOpen = s.timesetOpen := rfl
@[simp] theorem State.setCore_reqLcl (s : State) (n : Nat) (c : Core) : (s.setCore n c).reqLcl = s.reqLcl := rfl
@[simp] theorem State.setCore_agent (s : State) (n : Nat) (c : Core) : (s.setCore n c).agent = s.agent := rfl
@[simp] theorem State.setCore_cut (s : State) (n : Nat) (c : Core) : (s.setCore n c).cut = s.cut := rfl
@[simp] theorem State.setCore_parked (s : State) (n : Nat) (c : Core) : (s.setCore n c).parked = s.parked := rfl
@[simp] theorem State.setCore_bornAt (s : State) (n : Nat) (c : Core) : (s.setCore n c).bornAt = s.bornAt := rfl
@[simp] theorem State.setCore_ticked (s : State) (n : Nat) (c : Core) : (s.setCore n c).ticked = s.ticked := rfl
@[simp] theorem State.setCore_cur (s : State) (n : Nat) (c : Core) : (s.setCore n c).cur = s.cur := rfl
@[simp] theorem State.setCore_draw (s : State) (n : Nat) (c : Core) : (s.setCore n c).draw = s.draw := rfl
@[simp] theorem State.setCore_tape (s : State) (n : Nat) (c : Core) : (s.setCore n c).tape = s.tape := rfl
@[simp] theorem State.setCore_backlog (s : State) (n : Nat) (c : Core) : (s.setCore n c).backlog = s.backlog := rfl
@[simp] theorem State.setCore_last (s : State) (n : Nat) (c : Core) : (s.setCore n c).last = s.last := rfl

/-! ### modCore -/

@[simp] theorem State.modCore_slices (s : State) (n : Nat) (f : Core → Core) : (s.modCore n f).slices = s.slices := rfl
@[simp] theorem State.modCore_mem (s : State) (n : Nat) (f : Core → Core) : (s.modCore n f).mem = s.mem := rfl
@[simp] theorem State.modCore_peer (s : State) (n : Nat) (f : Core → Core) : (s.modCore n f).peer = s.peer := rfl
@[simp] theorem State.modCore_poison (s : State) (n : Nat) (f : Core → Core) : (s.modCore n f).poison = s.poison := rfl
@[simp] theorem State.modCore_devnum (s : State) (n : Nat) (f : Core → Core) : (s.modCore n f).devnum = s.devnum := rfl
@[simp] theorem State.modCore_pinned (s : State) (n : Nat) (f : Core → Core) : (s.modCore n f).pinned = s.pinned := rfl
@[simp] theorem State.modCore_homemap (s : State) (n : Nat) (f : Core → Core) : (s.modCore n f).homemap = s.homemap := rfl
@[simp] theorem State.modCore_asidtb (s : State) (n : Nat) (f : Core → Core) : (s.modCore n f).asidtb = s.asidtb := rfl
@[simp] theorem State.modCore_ff (s : State) (n : Nat) (f : Core → Core) : (s.modCore n f).ff = s.ff := rfl
@[simp] theorem State.modCore_peerTime (s : State) (n : Nat) (f : Core → Core) : (s.modCore n f).peerTime = s.peerTime := rfl
@[simp] theorem State.modCore_devTime (s : State) (n : Nat) (f : Core → Core) : (s.modCore n f).devTime = s.devTime := rfl
@[simp] theorem State.modCore_time (s : State) (n : Nat) (f : Core → Core) : (s.modCore n f).time = s.time := rfl
@[simp] theorem State.modCore_gaz (s : State) (n : Nat) (f : Core → Core) : (s.modCore n f).gaz = s.gaz := rfl
@[simp] theorem State.modCore_elog (s : State) (n : Nat) (f : Core → Core) : (s.modCore n f).elog = s.elog := rfl
@[simp] theorem State.modCore_disp (s : State) (n : Nat) (f : Core → Core) : (s.modCore n f).disp = s.disp := rfl
@[simp] theorem State.modCore_saved (s : State) (n : Nat) (f : Core → Core) : (s.modCore n f).saved = s.saved := rfl
@[simp] theorem State.modCore_savedBars (s : State) (n : Nat) (f : Core → Core) : (s.modCore n f).savedBars = s.savedBars := rfl
@[simp] theorem State.modCore_areas (s : State) (n : Nat) (f : Core → Core) : (s.modCore n f).areas = s.areas := rfl
@[simp] theorem State.modCore_areaWrites (s : State) (n : Nat) (f : Core → Core) : (s.modCore n f).areaWrites = s.areaWrites := rfl
@[simp] theorem State.modCore_savedRuns (s : State) (n : Nat) (f : Core → Core) : (s.modCore n f).savedRuns = s.savedRuns := rfl
@[simp] theorem State.modCore_savedWins (s : State) (n : Nat) (f : Core → Core) : (s.modCore n f).savedWins = s.savedWins := rfl
@[simp] theorem State.modCore_timers (s : State) (n : Nat) (f : Core → Core) : (s.modCore n f).timers = s.timers := rfl
@[simp] theorem State.modCore_memctl (s : State) (n : Nat) (f : Core → Core) : (s.modCore n f).memctl = s.memctl := rfl
@[simp] theorem State.modCore_fabric (s : State) (n : Nat) (f : Core → Core) : (s.modCore n f).fabric = s.fabric := rfl
@[simp] theorem State.modCore_io (s : State) (n : Nat) (f : Core → Core) : (s.modCore n f).io = s.io := rfl
@[simp] theorem State.modCore_ue (s : State) (n : Nat) (f : Core → Core) : (s.modCore n f).ue = s.ue := rfl
@[simp] theorem State.modCore_boot (s : State) (n : Nat) (f : Core → Core) : (s.modCore n f).boot = s.boot := rfl
@[simp] theorem State.modCore_survey (s : State) (n : Nat) (f : Core → Core) : (s.modCore n f).survey = s.survey := rfl
@[simp] theorem State.modCore_routers (s : State) (n : Nat) (f : Core → Core) : (s.modCore n f).routers = s.routers := rfl
@[simp] theorem State.modCore_ifaces (s : State) (n : Nat) (f : Core → Core) : (s.modCore n f).ifaces = s.ifaces := rfl
@[simp] theorem State.modCore_msgs (s : State) (n : Nat) (f : Core → Core) : (s.modCore n f).msgs = s.msgs := rfl
@[simp] theorem State.modCore_buses (s : State) (n : Nat) (f : Core → Core) : (s.modCore n f).buses = s.buses := rfl
@[simp] theorem State.modCore_out (s : State) (n : Nat) (f : Core → Core) : (s.modCore n f).out = s.out := rfl
@[simp] theorem State.modCore_fatal (s : State) (n : Nat) (f : Core → Core) : (s.modCore n f).fatal = s.fatal := rfl
@[simp] theorem State.modCore_fatalRec (s : State) (n : Nat) (f : Core → Core) : (s.modCore n f).fatalRec = s.fatalRec := rfl
@[simp] theorem State.modCore_timesetOpen (s : State) (n : Nat) (f : Core → Core) : (s.modCore n f).timesetOpen = s.timesetOpen := rfl
@[simp] theorem State.modCore_reqLcl (s : State) (n : Nat) (f : Core → Core) : (s.modCore n f).reqLcl = s.reqLcl := rfl
@[simp] theorem State.modCore_agent (s : State) (n : Nat) (f : Core → Core) : (s.modCore n f).agent = s.agent := rfl
@[simp] theorem State.modCore_cut (s : State) (n : Nat) (f : Core → Core) : (s.modCore n f).cut = s.cut := rfl
@[simp] theorem State.modCore_parked (s : State) (n : Nat) (f : Core → Core) : (s.modCore n f).parked = s.parked := rfl
@[simp] theorem State.modCore_bornAt (s : State) (n : Nat) (f : Core → Core) : (s.modCore n f).bornAt = s.bornAt := rfl
@[simp] theorem State.modCore_ticked (s : State) (n : Nat) (f : Core → Core) : (s.modCore n f).ticked = s.ticked := rfl
@[simp] theorem State.modCore_cur (s : State) (n : Nat) (f : Core → Core) : (s.modCore n f).cur = s.cur := rfl
@[simp] theorem State.modCore_draw (s : State) (n : Nat) (f : Core → Core) : (s.modCore n f).draw = s.draw := rfl
@[simp] theorem State.modCore_tape (s : State) (n : Nat) (f : Core → Core) : (s.modCore n f).tape = s.tape := rfl
@[simp] theorem State.modCore_backlog (s : State) (n : Nat) (f : Core → Core) : (s.modCore n f).backlog = s.backlog := rfl
@[simp] theorem State.modCore_last (s : State) (n : Nat) (f : Core → Core) : (s.modCore n f).last = s.last := rfl

/-! ### setWarpOf -/

@[simp] theorem State.setWarpOf_slices (s : State) (w : Who) (x : Warp) : (s.setWarpOf w x).slices = s.slices := rfl
@[simp] theorem State.setWarpOf_mem (s : State) (w : Who) (x : Warp) : (s.setWarpOf w x).mem = s.mem := rfl
@[simp] theorem State.setWarpOf_peer (s : State) (w : Who) (x : Warp) : (s.setWarpOf w x).peer = s.peer := rfl
@[simp] theorem State.setWarpOf_poison (s : State) (w : Who) (x : Warp) : (s.setWarpOf w x).poison = s.poison := rfl
@[simp] theorem State.setWarpOf_devnum (s : State) (w : Who) (x : Warp) : (s.setWarpOf w x).devnum = s.devnum := rfl
@[simp] theorem State.setWarpOf_pinned (s : State) (w : Who) (x : Warp) : (s.setWarpOf w x).pinned = s.pinned := rfl
@[simp] theorem State.setWarpOf_homemap (s : State) (w : Who) (x : Warp) : (s.setWarpOf w x).homemap = s.homemap := rfl
@[simp] theorem State.setWarpOf_asidtb (s : State) (w : Who) (x : Warp) : (s.setWarpOf w x).asidtb = s.asidtb := rfl
@[simp] theorem State.setWarpOf_ff (s : State) (w : Who) (x : Warp) : (s.setWarpOf w x).ff = s.ff := rfl
@[simp] theorem State.setWarpOf_peerTime (s : State) (w : Who) (x : Warp) : (s.setWarpOf w x).peerTime = s.peerTime := rfl
@[simp] theorem State.setWarpOf_devTime (s : State) (w : Who) (x : Warp) : (s.setWarpOf w x).devTime = s.devTime := rfl
@[simp] theorem State.setWarpOf_time (s : State) (w : Who) (x : Warp) : (s.setWarpOf w x).time = s.time := rfl
@[simp] theorem State.setWarpOf_gaz (s : State) (w : Who) (x : Warp) : (s.setWarpOf w x).gaz = s.gaz := rfl
@[simp] theorem State.setWarpOf_elog (s : State) (w : Who) (x : Warp) : (s.setWarpOf w x).elog = s.elog := rfl
@[simp] theorem State.setWarpOf_disp (s : State) (w : Who) (x : Warp) : (s.setWarpOf w x).disp = s.disp := rfl
@[simp] theorem State.setWarpOf_saved (s : State) (w : Who) (x : Warp) : (s.setWarpOf w x).saved = s.saved := rfl
@[simp] theorem State.setWarpOf_savedBars (s : State) (w : Who) (x : Warp) : (s.setWarpOf w x).savedBars = s.savedBars := rfl
@[simp] theorem State.setWarpOf_areas (s : State) (w : Who) (x : Warp) : (s.setWarpOf w x).areas = s.areas := rfl
@[simp] theorem State.setWarpOf_areaWrites (s : State) (w : Who) (x : Warp) : (s.setWarpOf w x).areaWrites = s.areaWrites := rfl
@[simp] theorem State.setWarpOf_savedRuns (s : State) (w : Who) (x : Warp) : (s.setWarpOf w x).savedRuns = s.savedRuns := rfl
@[simp] theorem State.setWarpOf_savedWins (s : State) (w : Who) (x : Warp) : (s.setWarpOf w x).savedWins = s.savedWins := rfl
@[simp] theorem State.setWarpOf_timers (s : State) (w : Who) (x : Warp) : (s.setWarpOf w x).timers = s.timers := rfl
@[simp] theorem State.setWarpOf_memctl (s : State) (w : Who) (x : Warp) : (s.setWarpOf w x).memctl = s.memctl := rfl
@[simp] theorem State.setWarpOf_fabric (s : State) (w : Who) (x : Warp) : (s.setWarpOf w x).fabric = s.fabric := rfl
@[simp] theorem State.setWarpOf_io (s : State) (w : Who) (x : Warp) : (s.setWarpOf w x).io = s.io := rfl
@[simp] theorem State.setWarpOf_ue (s : State) (w : Who) (x : Warp) : (s.setWarpOf w x).ue = s.ue := rfl
@[simp] theorem State.setWarpOf_boot (s : State) (w : Who) (x : Warp) : (s.setWarpOf w x).boot = s.boot := rfl
@[simp] theorem State.setWarpOf_survey (s : State) (w : Who) (x : Warp) : (s.setWarpOf w x).survey = s.survey := rfl
@[simp] theorem State.setWarpOf_routers (s : State) (w : Who) (x : Warp) : (s.setWarpOf w x).routers = s.routers := rfl
@[simp] theorem State.setWarpOf_ifaces (s : State) (w : Who) (x : Warp) : (s.setWarpOf w x).ifaces = s.ifaces := rfl
@[simp] theorem State.setWarpOf_msgs (s : State) (w : Who) (x : Warp) : (s.setWarpOf w x).msgs = s.msgs := rfl
@[simp] theorem State.setWarpOf_buses (s : State) (w : Who) (x : Warp) : (s.setWarpOf w x).buses = s.buses := rfl
@[simp] theorem State.setWarpOf_out (s : State) (w : Who) (x : Warp) : (s.setWarpOf w x).out = s.out := rfl
@[simp] theorem State.setWarpOf_fatal (s : State) (w : Who) (x : Warp) : (s.setWarpOf w x).fatal = s.fatal := rfl
@[simp] theorem State.setWarpOf_fatalRec (s : State) (w : Who) (x : Warp) : (s.setWarpOf w x).fatalRec = s.fatalRec := rfl
@[simp] theorem State.setWarpOf_timesetOpen (s : State) (w : Who) (x : Warp) : (s.setWarpOf w x).timesetOpen = s.timesetOpen := rfl
@[simp] theorem State.setWarpOf_reqLcl (s : State) (w : Who) (x : Warp) : (s.setWarpOf w x).reqLcl = s.reqLcl := rfl
@[simp] theorem State.setWarpOf_agent (s : State) (w : Who) (x : Warp) : (s.setWarpOf w x).agent = s.agent := rfl
@[simp] theorem State.setWarpOf_cut (s : State) (w : Who) (x : Warp) : (s.setWarpOf w x).cut = s.cut := rfl
@[simp] theorem State.setWarpOf_parked (s : State) (w : Who) (x : Warp) : (s.setWarpOf w x).parked = s.parked := rfl
@[simp] theorem State.setWarpOf_bornAt (s : State) (w : Who) (x : Warp) : (s.setWarpOf w x).bornAt = s.bornAt := rfl
@[simp] theorem State.setWarpOf_ticked (s : State) (w : Who) (x : Warp) : (s.setWarpOf w x).ticked = s.ticked := rfl
@[simp] theorem State.setWarpOf_cur (s : State) (w : Who) (x : Warp) : (s.setWarpOf w x).cur = s.cur := rfl
@[simp] theorem State.setWarpOf_draw (s : State) (w : Who) (x : Warp) : (s.setWarpOf w x).draw = s.draw := rfl
@[simp] theorem State.setWarpOf_tape (s : State) (w : Who) (x : Warp) : (s.setWarpOf w x).tape = s.tape := rfl
@[simp] theorem State.setWarpOf_backlog (s : State) (w : Who) (x : Warp) : (s.setWarpOf w x).backlog = s.backlog := rfl
@[simp] theorem State.setWarpOf_last (s : State) (w : Who) (x : Warp) : (s.setWarpOf w x).last = s.last := rfl

/-! ### modWarp -/

@[simp] theorem State.modWarp_slices (s : State) (f : Warp → Warp) : (s.modWarp f).slices = s.slices := rfl
@[simp] theorem State.modWarp_mem (s : State) (f : Warp → Warp) : (s.modWarp f).mem = s.mem := rfl
@[simp] theorem State.modWarp_peer (s : State) (f : Warp → Warp) : (s.modWarp f).peer = s.peer := rfl
@[simp] theorem State.modWarp_poison (s : State) (f : Warp → Warp) : (s.modWarp f).poison = s.poison := rfl
@[simp] theorem State.modWarp_devnum (s : State) (f : Warp → Warp) : (s.modWarp f).devnum = s.devnum := rfl
@[simp] theorem State.modWarp_pinned (s : State) (f : Warp → Warp) : (s.modWarp f).pinned = s.pinned := rfl
@[simp] theorem State.modWarp_homemap (s : State) (f : Warp → Warp) : (s.modWarp f).homemap = s.homemap := rfl
@[simp] theorem State.modWarp_asidtb (s : State) (f : Warp → Warp) : (s.modWarp f).asidtb = s.asidtb := rfl
@[simp] theorem State.modWarp_ff (s : State) (f : Warp → Warp) : (s.modWarp f).ff = s.ff := rfl
@[simp] theorem State.modWarp_peerTime (s : State) (f : Warp → Warp) : (s.modWarp f).peerTime = s.peerTime := rfl
@[simp] theorem State.modWarp_devTime (s : State) (f : Warp → Warp) : (s.modWarp f).devTime = s.devTime := rfl
@[simp] theorem State.modWarp_time (s : State) (f : Warp → Warp) : (s.modWarp f).time = s.time := rfl
@[simp] theorem State.modWarp_gaz (s : State) (f : Warp → Warp) : (s.modWarp f).gaz = s.gaz := rfl
@[simp] theorem State.modWarp_elog (s : State) (f : Warp → Warp) : (s.modWarp f).elog = s.elog := rfl
@[simp] theorem State.modWarp_disp (s : State) (f : Warp → Warp) : (s.modWarp f).disp = s.disp := rfl
@[simp] theorem State.modWarp_saved (s : State) (f : Warp → Warp) : (s.modWarp f).saved = s.saved := rfl
@[simp] theorem State.modWarp_savedBars (s : State) (f : Warp → Warp) : (s.modWarp f).savedBars = s.savedBars := rfl
@[simp] theorem State.modWarp_areas (s : State) (f : Warp → Warp) : (s.modWarp f).areas = s.areas := rfl
@[simp] theorem State.modWarp_areaWrites (s : State) (f : Warp → Warp) : (s.modWarp f).areaWrites = s.areaWrites := rfl
@[simp] theorem State.modWarp_savedRuns (s : State) (f : Warp → Warp) : (s.modWarp f).savedRuns = s.savedRuns := rfl
@[simp] theorem State.modWarp_savedWins (s : State) (f : Warp → Warp) : (s.modWarp f).savedWins = s.savedWins := rfl
@[simp] theorem State.modWarp_timers (s : State) (f : Warp → Warp) : (s.modWarp f).timers = s.timers := rfl
@[simp] theorem State.modWarp_memctl (s : State) (f : Warp → Warp) : (s.modWarp f).memctl = s.memctl := rfl
@[simp] theorem State.modWarp_fabric (s : State) (f : Warp → Warp) : (s.modWarp f).fabric = s.fabric := rfl
@[simp] theorem State.modWarp_io (s : State) (f : Warp → Warp) : (s.modWarp f).io = s.io := rfl
@[simp] theorem State.modWarp_ue (s : State) (f : Warp → Warp) : (s.modWarp f).ue = s.ue := rfl
@[simp] theorem State.modWarp_boot (s : State) (f : Warp → Warp) : (s.modWarp f).boot = s.boot := rfl
@[simp] theorem State.modWarp_survey (s : State) (f : Warp → Warp) : (s.modWarp f).survey = s.survey := rfl
@[simp] theorem State.modWarp_routers (s : State) (f : Warp → Warp) : (s.modWarp f).routers = s.routers := rfl
@[simp] theorem State.modWarp_ifaces (s : State) (f : Warp → Warp) : (s.modWarp f).ifaces = s.ifaces := rfl
@[simp] theorem State.modWarp_msgs (s : State) (f : Warp → Warp) : (s.modWarp f).msgs = s.msgs := rfl
@[simp] theorem State.modWarp_buses (s : State) (f : Warp → Warp) : (s.modWarp f).buses = s.buses := rfl
@[simp] theorem State.modWarp_out (s : State) (f : Warp → Warp) : (s.modWarp f).out = s.out := rfl
@[simp] theorem State.modWarp_fatal (s : State) (f : Warp → Warp) : (s.modWarp f).fatal = s.fatal := rfl
@[simp] theorem State.modWarp_fatalRec (s : State) (f : Warp → Warp) : (s.modWarp f).fatalRec = s.fatalRec := rfl
@[simp] theorem State.modWarp_timesetOpen (s : State) (f : Warp → Warp) : (s.modWarp f).timesetOpen = s.timesetOpen := rfl
@[simp] theorem State.modWarp_reqLcl (s : State) (f : Warp → Warp) : (s.modWarp f).reqLcl = s.reqLcl := rfl
@[simp] theorem State.modWarp_agent (s : State) (f : Warp → Warp) : (s.modWarp f).agent = s.agent := rfl
@[simp] theorem State.modWarp_cut (s : State) (f : Warp → Warp) : (s.modWarp f).cut = s.cut := rfl
@[simp] theorem State.modWarp_parked (s : State) (f : Warp → Warp) : (s.modWarp f).parked = s.parked := rfl
@[simp] theorem State.modWarp_bornAt (s : State) (f : Warp → Warp) : (s.modWarp f).bornAt = s.bornAt := rfl
@[simp] theorem State.modWarp_ticked (s : State) (f : Warp → Warp) : (s.modWarp f).ticked = s.ticked := rfl
@[simp] theorem State.modWarp_cur (s : State) (f : Warp → Warp) : (s.modWarp f).cur = s.cur := rfl
@[simp] theorem State.modWarp_draw (s : State) (f : Warp → Warp) : (s.modWarp f).draw = s.draw := rfl
@[simp] theorem State.modWarp_tape (s : State) (f : Warp → Warp) : (s.modWarp f).tape = s.tape := rfl
@[simp] theorem State.modWarp_backlog (s : State) (f : Warp → Warp) : (s.modWarp f).backlog = s.backlog := rfl
@[simp] theorem State.modWarp_last (s : State) (f : Warp → Warp) : (s.modWarp f).last = s.last := rfl

/-! ### setSlice -/

@[simp] theorem State.setSlice_cores (s : State) (n : Nat) (c : Slice) : (s.setSlice n c).cores = s.cores := rfl
@[simp] theorem State.setSlice_mem (s : State) (n : Nat) (c : Slice) : (s.setSlice n c).mem = s.mem := rfl
@[simp] theorem State.setSlice_peer (s : State) (n : Nat) (c : Slice) : (s.setSlice n c).peer = s.peer := rfl
@[simp] theorem State.setSlice_poison (s : State) (n : Nat) (c : Slice) : (s.setSlice n c).poison = s.poison := rfl
@[simp] theorem State.setSlice_devnum (s : State) (n : Nat) (c : Slice) : (s.setSlice n c).devnum = s.devnum := rfl
@[simp] theorem State.setSlice_pinned (s : State) (n : Nat) (c : Slice) : (s.setSlice n c).pinned = s.pinned := rfl
@[simp] theorem State.setSlice_homemap (s : State) (n : Nat) (c : Slice) : (s.setSlice n c).homemap = s.homemap := rfl
@[simp] theorem State.setSlice_asidtb (s : State) (n : Nat) (c : Slice) : (s.setSlice n c).asidtb = s.asidtb := rfl
@[simp] theorem State.setSlice_ff (s : State) (n : Nat) (c : Slice) : (s.setSlice n c).ff = s.ff := rfl
@[simp] theorem State.setSlice_peerTime (s : State) (n : Nat) (c : Slice) : (s.setSlice n c).peerTime = s.peerTime := rfl
@[simp] theorem State.setSlice_devTime (s : State) (n : Nat) (c : Slice) : (s.setSlice n c).devTime = s.devTime := rfl
@[simp] theorem State.setSlice_time (s : State) (n : Nat) (c : Slice) : (s.setSlice n c).time = s.time := rfl
@[simp] theorem State.setSlice_gaz (s : State) (n : Nat) (c : Slice) : (s.setSlice n c).gaz = s.gaz := rfl
@[simp] theorem State.setSlice_elog (s : State) (n : Nat) (c : Slice) : (s.setSlice n c).elog = s.elog := rfl
@[simp] theorem State.setSlice_disp (s : State) (n : Nat) (c : Slice) : (s.setSlice n c).disp = s.disp := rfl
@[simp] theorem State.setSlice_saved (s : State) (n : Nat) (c : Slice) : (s.setSlice n c).saved = s.saved := rfl
@[simp] theorem State.setSlice_savedBars (s : State) (n : Nat) (c : Slice) : (s.setSlice n c).savedBars = s.savedBars := rfl
@[simp] theorem State.setSlice_areas (s : State) (n : Nat) (c : Slice) : (s.setSlice n c).areas = s.areas := rfl
@[simp] theorem State.setSlice_areaWrites (s : State) (n : Nat) (c : Slice) : (s.setSlice n c).areaWrites = s.areaWrites := rfl
@[simp] theorem State.setSlice_savedRuns (s : State) (n : Nat) (c : Slice) : (s.setSlice n c).savedRuns = s.savedRuns := rfl
@[simp] theorem State.setSlice_savedWins (s : State) (n : Nat) (c : Slice) : (s.setSlice n c).savedWins = s.savedWins := rfl
@[simp] theorem State.setSlice_timers (s : State) (n : Nat) (c : Slice) : (s.setSlice n c).timers = s.timers := rfl
@[simp] theorem State.setSlice_memctl (s : State) (n : Nat) (c : Slice) : (s.setSlice n c).memctl = s.memctl := rfl
@[simp] theorem State.setSlice_fabric (s : State) (n : Nat) (c : Slice) : (s.setSlice n c).fabric = s.fabric := rfl
@[simp] theorem State.setSlice_io (s : State) (n : Nat) (c : Slice) : (s.setSlice n c).io = s.io := rfl
@[simp] theorem State.setSlice_ue (s : State) (n : Nat) (c : Slice) : (s.setSlice n c).ue = s.ue := rfl
@[simp] theorem State.setSlice_boot (s : State) (n : Nat) (c : Slice) : (s.setSlice n c).boot = s.boot := rfl
@[simp] theorem State.setSlice_survey (s : State) (n : Nat) (c : Slice) : (s.setSlice n c).survey = s.survey := rfl
@[simp] theorem State.setSlice_routers (s : State) (n : Nat) (c : Slice) : (s.setSlice n c).routers = s.routers := rfl
@[simp] theorem State.setSlice_ifaces (s : State) (n : Nat) (c : Slice) : (s.setSlice n c).ifaces = s.ifaces := rfl
@[simp] theorem State.setSlice_msgs (s : State) (n : Nat) (c : Slice) : (s.setSlice n c).msgs = s.msgs := rfl
@[simp] theorem State.setSlice_buses (s : State) (n : Nat) (c : Slice) : (s.setSlice n c).buses = s.buses := rfl
@[simp] theorem State.setSlice_out (s : State) (n : Nat) (c : Slice) : (s.setSlice n c).out = s.out := rfl
@[simp] theorem State.setSlice_fatal (s : State) (n : Nat) (c : Slice) : (s.setSlice n c).fatal = s.fatal := rfl
@[simp] theorem State.setSlice_fatalRec (s : State) (n : Nat) (c : Slice) : (s.setSlice n c).fatalRec = s.fatalRec := rfl
@[simp] theorem State.setSlice_timesetOpen (s : State) (n : Nat) (c : Slice) : (s.setSlice n c).timesetOpen = s.timesetOpen := rfl
@[simp] theorem State.setSlice_reqLcl (s : State) (n : Nat) (c : Slice) : (s.setSlice n c).reqLcl = s.reqLcl := rfl
@[simp] theorem State.setSlice_agent (s : State) (n : Nat) (c : Slice) : (s.setSlice n c).agent = s.agent := rfl
@[simp] theorem State.setSlice_cut (s : State) (n : Nat) (c : Slice) : (s.setSlice n c).cut = s.cut := rfl
@[simp] theorem State.setSlice_parked (s : State) (n : Nat) (c : Slice) : (s.setSlice n c).parked = s.parked := rfl
@[simp] theorem State.setSlice_bornAt (s : State) (n : Nat) (c : Slice) : (s.setSlice n c).bornAt = s.bornAt := rfl
@[simp] theorem State.setSlice_ticked (s : State) (n : Nat) (c : Slice) : (s.setSlice n c).ticked = s.ticked := rfl
@[simp] theorem State.setSlice_cur (s : State) (n : Nat) (c : Slice) : (s.setSlice n c).cur = s.cur := rfl
@[simp] theorem State.setSlice_draw (s : State) (n : Nat) (c : Slice) : (s.setSlice n c).draw = s.draw := rfl
@[simp] theorem State.setSlice_tape (s : State) (n : Nat) (c : Slice) : (s.setSlice n c).tape = s.tape := rfl
@[simp] theorem State.setSlice_backlog (s : State) (n : Nat) (c : Slice) : (s.setSlice n c).backlog = s.backlog := rfl
@[simp] theorem State.setSlice_last (s : State) (n : Nat) (c : Slice) : (s.setSlice n c).last = s.last := rfl

/-! ### modSlice -/

@[simp] theorem State.modSlice_cores (s : State) (n : Nat) (f : Slice → Slice) : (s.modSlice n f).cores = s.cores := rfl
@[simp] theorem State.modSlice_mem (s : State) (n : Nat) (f : Slice → Slice) : (s.modSlice n f).mem = s.mem := rfl
@[simp] theorem State.modSlice_peer (s : State) (n : Nat) (f : Slice → Slice) : (s.modSlice n f).peer = s.peer := rfl
@[simp] theorem State.modSlice_poison (s : State) (n : Nat) (f : Slice → Slice) : (s.modSlice n f).poison = s.poison := rfl
@[simp] theorem State.modSlice_devnum (s : State) (n : Nat) (f : Slice → Slice) : (s.modSlice n f).devnum = s.devnum := rfl
@[simp] theorem State.modSlice_pinned (s : State) (n : Nat) (f : Slice → Slice) : (s.modSlice n f).pinned = s.pinned := rfl
@[simp] theorem State.modSlice_homemap (s : State) (n : Nat) (f : Slice → Slice) : (s.modSlice n f).homemap = s.homemap := rfl
@[simp] theorem State.modSlice_asidtb (s : State) (n : Nat) (f : Slice → Slice) : (s.modSlice n f).asidtb = s.asidtb := rfl
@[simp] theorem State.modSlice_ff (s : State) (n : Nat) (f : Slice → Slice) : (s.modSlice n f).ff = s.ff := rfl
@[simp] theorem State.modSlice_peerTime (s : State) (n : Nat) (f : Slice → Slice) : (s.modSlice n f).peerTime = s.peerTime := rfl
@[simp] theorem State.modSlice_devTime (s : State) (n : Nat) (f : Slice → Slice) : (s.modSlice n f).devTime = s.devTime := rfl
@[simp] theorem State.modSlice_time (s : State) (n : Nat) (f : Slice → Slice) : (s.modSlice n f).time = s.time := rfl
@[simp] theorem State.modSlice_gaz (s : State) (n : Nat) (f : Slice → Slice) : (s.modSlice n f).gaz = s.gaz := rfl
@[simp] theorem State.modSlice_elog (s : State) (n : Nat) (f : Slice → Slice) : (s.modSlice n f).elog = s.elog := rfl
@[simp] theorem State.modSlice_disp (s : State) (n : Nat) (f : Slice → Slice) : (s.modSlice n f).disp = s.disp := rfl
@[simp] theorem State.modSlice_saved (s : State) (n : Nat) (f : Slice → Slice) : (s.modSlice n f).saved = s.saved := rfl
@[simp] theorem State.modSlice_savedBars (s : State) (n : Nat) (f : Slice → Slice) : (s.modSlice n f).savedBars = s.savedBars := rfl
@[simp] theorem State.modSlice_areas (s : State) (n : Nat) (f : Slice → Slice) : (s.modSlice n f).areas = s.areas := rfl
@[simp] theorem State.modSlice_areaWrites (s : State) (n : Nat) (f : Slice → Slice) : (s.modSlice n f).areaWrites = s.areaWrites := rfl
@[simp] theorem State.modSlice_savedRuns (s : State) (n : Nat) (f : Slice → Slice) : (s.modSlice n f).savedRuns = s.savedRuns := rfl
@[simp] theorem State.modSlice_savedWins (s : State) (n : Nat) (f : Slice → Slice) : (s.modSlice n f).savedWins = s.savedWins := rfl
@[simp] theorem State.modSlice_timers (s : State) (n : Nat) (f : Slice → Slice) : (s.modSlice n f).timers = s.timers := rfl
@[simp] theorem State.modSlice_memctl (s : State) (n : Nat) (f : Slice → Slice) : (s.modSlice n f).memctl = s.memctl := rfl
@[simp] theorem State.modSlice_fabric (s : State) (n : Nat) (f : Slice → Slice) : (s.modSlice n f).fabric = s.fabric := rfl
@[simp] theorem State.modSlice_io (s : State) (n : Nat) (f : Slice → Slice) : (s.modSlice n f).io = s.io := rfl
@[simp] theorem State.modSlice_ue (s : State) (n : Nat) (f : Slice → Slice) : (s.modSlice n f).ue = s.ue := rfl
@[simp] theorem State.modSlice_boot (s : State) (n : Nat) (f : Slice → Slice) : (s.modSlice n f).boot = s.boot := rfl
@[simp] theorem State.modSlice_survey (s : State) (n : Nat) (f : Slice → Slice) : (s.modSlice n f).survey = s.survey := rfl
@[simp] theorem State.modSlice_routers (s : State) (n : Nat) (f : Slice → Slice) : (s.modSlice n f).routers = s.routers := rfl
@[simp] theorem State.modSlice_ifaces (s : State) (n : Nat) (f : Slice → Slice) : (s.modSlice n f).ifaces = s.ifaces := rfl
@[simp] theorem State.modSlice_msgs (s : State) (n : Nat) (f : Slice → Slice) : (s.modSlice n f).msgs = s.msgs := rfl
@[simp] theorem State.modSlice_buses (s : State) (n : Nat) (f : Slice → Slice) : (s.modSlice n f).buses = s.buses := rfl
@[simp] theorem State.modSlice_out (s : State) (n : Nat) (f : Slice → Slice) : (s.modSlice n f).out = s.out := rfl
@[simp] theorem State.modSlice_fatal (s : State) (n : Nat) (f : Slice → Slice) : (s.modSlice n f).fatal = s.fatal := rfl
@[simp] theorem State.modSlice_fatalRec (s : State) (n : Nat) (f : Slice → Slice) : (s.modSlice n f).fatalRec = s.fatalRec := rfl
@[simp] theorem State.modSlice_timesetOpen (s : State) (n : Nat) (f : Slice → Slice) : (s.modSlice n f).timesetOpen = s.timesetOpen := rfl
@[simp] theorem State.modSlice_reqLcl (s : State) (n : Nat) (f : Slice → Slice) : (s.modSlice n f).reqLcl = s.reqLcl := rfl
@[simp] theorem State.modSlice_agent (s : State) (n : Nat) (f : Slice → Slice) : (s.modSlice n f).agent = s.agent := rfl
@[simp] theorem State.modSlice_cut (s : State) (n : Nat) (f : Slice → Slice) : (s.modSlice n f).cut = s.cut := rfl
@[simp] theorem State.modSlice_parked (s : State) (n : Nat) (f : Slice → Slice) : (s.modSlice n f).parked = s.parked := rfl
@[simp] theorem State.modSlice_bornAt (s : State) (n : Nat) (f : Slice → Slice) : (s.modSlice n f).bornAt = s.bornAt := rfl
@[simp] theorem State.modSlice_ticked (s : State) (n : Nat) (f : Slice → Slice) : (s.modSlice n f).ticked = s.ticked := rfl
@[simp] theorem State.modSlice_cur (s : State) (n : Nat) (f : Slice → Slice) : (s.modSlice n f).cur = s.cur := rfl
@[simp] theorem State.modSlice_draw (s : State) (n : Nat) (f : Slice → Slice) : (s.modSlice n f).draw = s.draw := rfl
@[simp] theorem State.modSlice_tape (s : State) (n : Nat) (f : Slice → Slice) : (s.modSlice n f).tape = s.tape := rfl
@[simp] theorem State.modSlice_backlog (s : State) (n : Nat) (f : Slice → Slice) : (s.modSlice n f).backlog = s.backlog := rfl
@[simp] theorem State.modSlice_last (s : State) (n : Nat) (f : Slice → Slice) : (s.modSlice n f).last = s.last := rfl

/-! ### setMem -/

@[simp] theorem State.setMem_cores (s : State) (f : MemCtl → MemCtl) : (s.setMem f).cores = s.cores := rfl
@[simp] theorem State.setMem_slices (s : State) (f : MemCtl → MemCtl) : (s.setMem f).slices = s.slices := rfl
@[simp] theorem State.setMem_mem (s : State) (f : MemCtl → MemCtl) : (s.setMem f).mem = s.mem := rfl
@[simp] theorem State.setMem_peer (s : State) (f : MemCtl → MemCtl) : (s.setMem f).peer = s.peer := rfl
@[simp] theorem State.setMem_poison (s : State) (f : MemCtl → MemCtl) : (s.setMem f).poison = s.poison := rfl
@[simp] theorem State.setMem_devnum (s : State) (f : MemCtl → MemCtl) : (s.setMem f).devnum = s.devnum := rfl
@[simp] theorem State.setMem_pinned (s : State) (f : MemCtl → MemCtl) : (s.setMem f).pinned = s.pinned := rfl
@[simp] theorem State.setMem_homemap (s : State) (f : MemCtl → MemCtl) : (s.setMem f).homemap = s.homemap := rfl
@[simp] theorem State.setMem_asidtb (s : State) (f : MemCtl → MemCtl) : (s.setMem f).asidtb = s.asidtb := rfl
@[simp] theorem State.setMem_ff (s : State) (f : MemCtl → MemCtl) : (s.setMem f).ff = s.ff := rfl
@[simp] theorem State.setMem_peerTime (s : State) (f : MemCtl → MemCtl) : (s.setMem f).peerTime = s.peerTime := rfl
@[simp] theorem State.setMem_devTime (s : State) (f : MemCtl → MemCtl) : (s.setMem f).devTime = s.devTime := rfl
@[simp] theorem State.setMem_time (s : State) (f : MemCtl → MemCtl) : (s.setMem f).time = s.time := rfl
@[simp] theorem State.setMem_gaz (s : State) (f : MemCtl → MemCtl) : (s.setMem f).gaz = s.gaz := rfl
@[simp] theorem State.setMem_elog (s : State) (f : MemCtl → MemCtl) : (s.setMem f).elog = s.elog := rfl
@[simp] theorem State.setMem_disp (s : State) (f : MemCtl → MemCtl) : (s.setMem f).disp = s.disp := rfl
@[simp] theorem State.setMem_saved (s : State) (f : MemCtl → MemCtl) : (s.setMem f).saved = s.saved := rfl
@[simp] theorem State.setMem_savedBars (s : State) (f : MemCtl → MemCtl) : (s.setMem f).savedBars = s.savedBars := rfl
@[simp] theorem State.setMem_areas (s : State) (f : MemCtl → MemCtl) : (s.setMem f).areas = s.areas := rfl
@[simp] theorem State.setMem_areaWrites (s : State) (f : MemCtl → MemCtl) : (s.setMem f).areaWrites = s.areaWrites := rfl
@[simp] theorem State.setMem_savedRuns (s : State) (f : MemCtl → MemCtl) : (s.setMem f).savedRuns = s.savedRuns := rfl
@[simp] theorem State.setMem_savedWins (s : State) (f : MemCtl → MemCtl) : (s.setMem f).savedWins = s.savedWins := rfl
@[simp] theorem State.setMem_timers (s : State) (f : MemCtl → MemCtl) : (s.setMem f).timers = s.timers := rfl
@[simp] theorem State.setMem_fabric (s : State) (f : MemCtl → MemCtl) : (s.setMem f).fabric = s.fabric := rfl
@[simp] theorem State.setMem_io (s : State) (f : MemCtl → MemCtl) : (s.setMem f).io = s.io := rfl
@[simp] theorem State.setMem_ue (s : State) (f : MemCtl → MemCtl) : (s.setMem f).ue = s.ue := rfl
@[simp] theorem State.setMem_boot (s : State) (f : MemCtl → MemCtl) : (s.setMem f).boot = s.boot := rfl
@[simp] theorem State.setMem_survey (s : State) (f : MemCtl → MemCtl) : (s.setMem f).survey = s.survey := rfl
@[simp] theorem State.setMem_routers (s : State) (f : MemCtl → MemCtl) : (s.setMem f).routers = s.routers := rfl
@[simp] theorem State.setMem_ifaces (s : State) (f : MemCtl → MemCtl) : (s.setMem f).ifaces = s.ifaces := rfl
@[simp] theorem State.setMem_msgs (s : State) (f : MemCtl → MemCtl) : (s.setMem f).msgs = s.msgs := rfl
@[simp] theorem State.setMem_buses (s : State) (f : MemCtl → MemCtl) : (s.setMem f).buses = s.buses := rfl
@[simp] theorem State.setMem_out (s : State) (f : MemCtl → MemCtl) : (s.setMem f).out = s.out := rfl
@[simp] theorem State.setMem_fatal (s : State) (f : MemCtl → MemCtl) : (s.setMem f).fatal = s.fatal := rfl
@[simp] theorem State.setMem_fatalRec (s : State) (f : MemCtl → MemCtl) : (s.setMem f).fatalRec = s.fatalRec := rfl
@[simp] theorem State.setMem_timesetOpen (s : State) (f : MemCtl → MemCtl) : (s.setMem f).timesetOpen = s.timesetOpen := rfl
@[simp] theorem State.setMem_reqLcl (s : State) (f : MemCtl → MemCtl) : (s.setMem f).reqLcl = s.reqLcl := rfl
@[simp] theorem State.setMem_agent (s : State) (f : MemCtl → MemCtl) : (s.setMem f).agent = s.agent := rfl
@[simp] theorem State.setMem_cut (s : State) (f : MemCtl → MemCtl) : (s.setMem f).cut = s.cut := rfl
@[simp] theorem State.setMem_parked (s : State) (f : MemCtl → MemCtl) : (s.setMem f).parked = s.parked := rfl
@[simp] theorem State.setMem_bornAt (s : State) (f : MemCtl → MemCtl) : (s.setMem f).bornAt = s.bornAt := rfl
@[simp] theorem State.setMem_ticked (s : State) (f : MemCtl → MemCtl) : (s.setMem f).ticked = s.ticked := rfl
@[simp] theorem State.setMem_cur (s : State) (f : MemCtl → MemCtl) : (s.setMem f).cur = s.cur := rfl
@[simp] theorem State.setMem_draw (s : State) (f : MemCtl → MemCtl) : (s.setMem f).draw = s.draw := rfl
@[simp] theorem State.setMem_tape (s : State) (f : MemCtl → MemCtl) : (s.setMem f).tape = s.tape := rfl
@[simp] theorem State.setMem_backlog (s : State) (f : MemCtl → MemCtl) : (s.setMem f).backlog = s.backlog := rfl
@[simp] theorem State.setMem_last (s : State) (f : MemCtl → MemCtl) : (s.setMem f).last = s.last := rfl

/-! ### emit -/

@[simp] theorem State.emit_cores (s : State) (e : Emit) : (s.emit e).cores = s.cores := rfl
@[simp] theorem State.emit_slices (s : State) (e : Emit) : (s.emit e).slices = s.slices := rfl
@[simp] theorem State.emit_mem (s : State) (e : Emit) : (s.emit e).mem = s.mem := rfl
@[simp] theorem State.emit_peer (s : State) (e : Emit) : (s.emit e).peer = s.peer := rfl
@[simp] theorem State.emit_poison (s : State) (e : Emit) : (s.emit e).poison = s.poison := rfl
@[simp] theorem State.emit_devnum (s : State) (e : Emit) : (s.emit e).devnum = s.devnum := rfl
@[simp] theorem State.emit_pinned (s : State) (e : Emit) : (s.emit e).pinned = s.pinned := rfl
@[simp] theorem State.emit_homemap (s : State) (e : Emit) : (s.emit e).homemap = s.homemap := rfl
@[simp] theorem State.emit_asidtb (s : State) (e : Emit) : (s.emit e).asidtb = s.asidtb := rfl
@[simp] theorem State.emit_ff (s : State) (e : Emit) : (s.emit e).ff = s.ff := rfl
@[simp] theorem State.emit_peerTime (s : State) (e : Emit) : (s.emit e).peerTime = s.peerTime := rfl
@[simp] theorem State.emit_devTime (s : State) (e : Emit) : (s.emit e).devTime = s.devTime := rfl
@[simp] theorem State.emit_time (s : State) (e : Emit) : (s.emit e).time = s.time := rfl
@[simp] theorem State.emit_gaz (s : State) (e : Emit) : (s.emit e).gaz = s.gaz := rfl
@[simp] theorem State.emit_elog (s : State) (e : Emit) : (s.emit e).elog = s.elog := rfl
@[simp] theorem State.emit_disp (s : State) (e : Emit) : (s.emit e).disp = s.disp := rfl
@[simp] theorem State.emit_saved (s : State) (e : Emit) : (s.emit e).saved = s.saved := rfl
@[simp] theorem State.emit_savedBars (s : State) (e : Emit) : (s.emit e).savedBars = s.savedBars := rfl
@[simp] theorem State.emit_areas (s : State) (e : Emit) : (s.emit e).areas = s.areas := rfl
@[simp] theorem State.emit_areaWrites (s : State) (e : Emit) : (s.emit e).areaWrites = s.areaWrites := rfl
@[simp] theorem State.emit_savedRuns (s : State) (e : Emit) : (s.emit e).savedRuns = s.savedRuns := rfl
@[simp] theorem State.emit_savedWins (s : State) (e : Emit) : (s.emit e).savedWins = s.savedWins := rfl
@[simp] theorem State.emit_timers (s : State) (e : Emit) : (s.emit e).timers = s.timers := rfl
@[simp] theorem State.emit_memctl (s : State) (e : Emit) : (s.emit e).memctl = s.memctl := rfl
@[simp] theorem State.emit_fabric (s : State) (e : Emit) : (s.emit e).fabric = s.fabric := rfl
@[simp] theorem State.emit_io (s : State) (e : Emit) : (s.emit e).io = s.io := rfl
@[simp] theorem State.emit_ue (s : State) (e : Emit) : (s.emit e).ue = s.ue := rfl
@[simp] theorem State.emit_boot (s : State) (e : Emit) : (s.emit e).boot = s.boot := rfl
@[simp] theorem State.emit_survey (s : State) (e : Emit) : (s.emit e).survey = s.survey := rfl
@[simp] theorem State.emit_routers (s : State) (e : Emit) : (s.emit e).routers = s.routers := rfl
@[simp] theorem State.emit_ifaces (s : State) (e : Emit) : (s.emit e).ifaces = s.ifaces := rfl
@[simp] theorem State.emit_msgs (s : State) (e : Emit) : (s.emit e).msgs = s.msgs := rfl
@[simp] theorem State.emit_buses (s : State) (e : Emit) : (s.emit e).buses = s.buses := rfl
@[simp] theorem State.emit_fatal (s : State) (e : Emit) : (s.emit e).fatal = s.fatal := rfl
@[simp] theorem State.emit_fatalRec (s : State) (e : Emit) : (s.emit e).fatalRec = s.fatalRec := rfl
@[simp] theorem State.emit_timesetOpen (s : State) (e : Emit) : (s.emit e).timesetOpen = s.timesetOpen := rfl
@[simp] theorem State.emit_reqLcl (s : State) (e : Emit) : (s.emit e).reqLcl = s.reqLcl := rfl
@[simp] theorem State.emit_agent (s : State) (e : Emit) : (s.emit e).agent = s.agent := rfl
@[simp] theorem State.emit_cut (s : State) (e : Emit) : (s.emit e).cut = s.cut := rfl
@[simp] theorem State.emit_parked (s : State) (e : Emit) : (s.emit e).parked = s.parked := rfl
@[simp] theorem State.emit_bornAt (s : State) (e : Emit) : (s.emit e).bornAt = s.bornAt := rfl
@[simp] theorem State.emit_ticked (s : State) (e : Emit) : (s.emit e).ticked = s.ticked := rfl
@[simp] theorem State.emit_cur (s : State) (e : Emit) : (s.emit e).cur = s.cur := rfl
@[simp] theorem State.emit_draw (s : State) (e : Emit) : (s.emit e).draw = s.draw := rfl
@[simp] theorem State.emit_tape (s : State) (e : Emit) : (s.emit e).tape = s.tape := rfl
@[simp] theorem State.emit_backlog (s : State) (e : Emit) : (s.emit e).backlog = s.backlog := rfl
@[simp] theorem State.emit_last (s : State) (e : Emit) : (s.emit e).last = s.last := rfl

/-! ### push -/

@[simp] theorem State.push_cores (s : State) (i : Instr) : (s.push i).cores = s.cores := rfl
@[simp] theorem State.push_slices (s : State) (i : Instr) : (s.push i).slices = s.slices := rfl
@[simp] theorem State.push_mem (s : State) (i : Instr) : (s.push i).mem = s.mem := rfl
@[simp] theorem State.push_peer (s : State) (i : Instr) : (s.push i).peer = s.peer := rfl
@[simp] theorem State.push_poison (s : State) (i : Instr) : (s.push i).poison = s.poison := rfl
@[simp] theorem State.push_devnum (s : State) (i : Instr) : (s.push i).devnum = s.devnum := rfl
@[simp] theorem State.push_pinned (s : State) (i : Instr) : (s.push i).pinned = s.pinned := rfl
@[simp] theorem State.push_homemap (s : State) (i : Instr) : (s.push i).homemap = s.homemap := rfl
@[simp] theorem State.push_asidtb (s : State) (i : Instr) : (s.push i).asidtb = s.asidtb := rfl
@[simp] theorem State.push_ff (s : State) (i : Instr) : (s.push i).ff = s.ff := rfl
@[simp] theorem State.push_peerTime (s : State) (i : Instr) : (s.push i).peerTime = s.peerTime := rfl
@[simp] theorem State.push_devTime (s : State) (i : Instr) : (s.push i).devTime = s.devTime := rfl
@[simp] theorem State.push_time (s : State) (i : Instr) : (s.push i).time = s.time := rfl
@[simp] theorem State.push_gaz (s : State) (i : Instr) : (s.push i).gaz = s.gaz := rfl
@[simp] theorem State.push_elog (s : State) (i : Instr) : (s.push i).elog = s.elog := rfl
@[simp] theorem State.push_disp (s : State) (i : Instr) : (s.push i).disp = s.disp := rfl
@[simp] theorem State.push_saved (s : State) (i : Instr) : (s.push i).saved = s.saved := rfl
@[simp] theorem State.push_savedBars (s : State) (i : Instr) : (s.push i).savedBars = s.savedBars := rfl
@[simp] theorem State.push_areas (s : State) (i : Instr) : (s.push i).areas = s.areas := rfl
@[simp] theorem State.push_areaWrites (s : State) (i : Instr) : (s.push i).areaWrites = s.areaWrites := rfl
@[simp] theorem State.push_savedRuns (s : State) (i : Instr) : (s.push i).savedRuns = s.savedRuns := rfl
@[simp] theorem State.push_savedWins (s : State) (i : Instr) : (s.push i).savedWins = s.savedWins := rfl
@[simp] theorem State.push_timers (s : State) (i : Instr) : (s.push i).timers = s.timers := rfl
@[simp] theorem State.push_memctl (s : State) (i : Instr) : (s.push i).memctl = s.memctl := rfl
@[simp] theorem State.push_fabric (s : State) (i : Instr) : (s.push i).fabric = s.fabric := rfl
@[simp] theorem State.push_io (s : State) (i : Instr) : (s.push i).io = s.io := rfl
@[simp] theorem State.push_ue (s : State) (i : Instr) : (s.push i).ue = s.ue := rfl
@[simp] theorem State.push_boot (s : State) (i : Instr) : (s.push i).boot = s.boot := rfl
@[simp] theorem State.push_survey (s : State) (i : Instr) : (s.push i).survey = s.survey := rfl
@[simp] theorem State.push_routers (s : State) (i : Instr) : (s.push i).routers = s.routers := rfl
@[simp] theorem State.push_ifaces (s : State) (i : Instr) : (s.push i).ifaces = s.ifaces := rfl
@[simp] theorem State.push_msgs (s : State) (i : Instr) : (s.push i).msgs = s.msgs := rfl
@[simp] theorem State.push_buses (s : State) (i : Instr) : (s.push i).buses = s.buses := rfl
@[simp] theorem State.push_out (s : State) (i : Instr) : (s.push i).out = s.out := rfl
@[simp] theorem State.push_fatal (s : State) (i : Instr) : (s.push i).fatal = s.fatal := rfl
@[simp] theorem State.push_fatalRec (s : State) (i : Instr) : (s.push i).fatalRec = s.fatalRec := rfl
@[simp] theorem State.push_timesetOpen (s : State) (i : Instr) : (s.push i).timesetOpen = s.timesetOpen := rfl
@[simp] theorem State.push_reqLcl (s : State) (i : Instr) : (s.push i).reqLcl = s.reqLcl := rfl
@[simp] theorem State.push_agent (s : State) (i : Instr) : (s.push i).agent = s.agent := rfl
@[simp] theorem State.push_cut (s : State) (i : Instr) : (s.push i).cut = s.cut := rfl
@[simp] theorem State.push_parked (s : State) (i : Instr) : (s.push i).parked = s.parked := rfl
@[simp] theorem State.push_bornAt (s : State) (i : Instr) : (s.push i).bornAt = s.bornAt := rfl
@[simp] theorem State.push_ticked (s : State) (i : Instr) : (s.push i).ticked = s.ticked := rfl
@[simp] theorem State.push_cur (s : State) (i : Instr) : (s.push i).cur = s.cur := rfl
@[simp] theorem State.push_draw (s : State) (i : Instr) : (s.push i).draw = s.draw := rfl
@[simp] theorem State.push_tape (s : State) (i : Instr) : (s.push i).tape = s.tape := rfl
@[simp] theorem State.push_last (s : State) (i : Instr) : (s.push i).last = s.last := rfl

/-! ### Cores, slices, warps -/

theorem State.core_setCore (s : State) (n m : Nat) (c : Core) : (s.setCore n c).core m = if m = n then c else s.core m :=
  look_put Core.init s.cores n m c

@[simp] theorem State.core_setCore_self (s : State) (n : Nat) (c : Core) : (s.setCore n c).core n = c := by
  simp [State.core_setCore]

theorem State.core_modCore (s : State) (n m : Nat) (f : Core → Core) :
    (s.modCore n f).core m = if m = n then f (s.core n) else s.core m :=
  State.core_setCore s n m (f (s.core n))

@[simp] theorem State.core_modCore_self (s : State) (n : Nat) (f : Core → Core) : (s.modCore n f).core n = f (s.core n) := by
  simp [State.core_modCore]

theorem State.slice_setSlice (s : State) (n m : Nat) (c : Slice) :
    (s.setSlice n c).slice m = if m = n then c else s.slice m :=
  look_put Slice.init s.slices n m c

theorem State.slice_modSlice (s : State) (n m : Nat) (f : Slice → Slice) :
    (s.modSlice n f).slice m = if m = n then f (s.slice n) else s.slice m :=
  State.slice_setSlice s n m (f (s.slice n))

@[simp] theorem Core.warp_setWarp_self (c : Core) (x : Ctx) (w : Warp) : (c.setWarp x w).warp x = w := by
  cases x <;> simp [Core.warp, Core.setWarp]

/-- The other warps of a core are as they were. -/
theorem Core.warp_setWarp_of_ne (c : Core) {x y : Ctx} (w : Warp) (h : y ≠ x) : (c.setWarp x w).warp y = c.warp y := by
  cases x <;> cases y <;> simp_all [Core.warp, Core.setWarp, look_put]

@[simp] theorem State.warpOf_setWarpOf_self (s : State) (w : Who) (x : Warp) : (s.setWarpOf w x).warpOf w = x := by
  simp [State.warpOf, State.setWarpOf]

/-- Changing one warp leaves every other warp of the device as it was. -/
theorem State.warpOf_setWarpOf_of_ne (s : State) {w v : Who} (x : Warp) (h : v ≠ w) :
    (s.setWarpOf w x).warpOf v = s.warpOf v := by
  obtain ⟨n, a⟩ := w
  obtain ⟨m, b⟩ := v
  simp only [State.warpOf, State.setWarpOf, State.core_modCore]
  by_cases hn : m = n
  · subst hn
    rw [if_pos rfl]
    exact Core.warp_setWarp_of_ne _ _ fun hb => h (by rw [hb])
  · rw [if_neg hn]

@[simp] theorem State.warp_modWarp (s : State) (f : Warp → Warp) : (s.modWarp f).warp = f s.warp := by
  simp [State.warp, State.modWarp, State.modWarpOf, State.setWarpOf, State.warpOf, State.modCore]

theorem State.warpOf_modWarp_of_ne (s : State) (f : Warp → Warp) {w : Who} (h : w ≠ s.cur.who) :
    (s.modWarp f).warpOf w = s.warpOf w := State.warpOf_setWarpOf_of_ne s _ h

/-- The other cores are as they were. -/
theorem State.core_modWarp_of_ne (s : State) (f : Warp → Warp) {n : Nat} (h : n ≠ s.cur.who.core) :
    (s.modWarp f).core n = s.core n := by
  simp [State.modWarp, State.modWarpOf, State.setWarpOf, State.core_modCore, h]

/-! ### Lanes of a warp -/

theorem Warp.lane_setLane (w : Warp) (l k : Nat) (y : Lane) : (w.setLane l y).lane k = if k = l then y else w.lane k :=
  look_put Lane.absent w.lanes l k y

theorem Warp.lane_foldl_setLane (g : Nat → Lane) (ls : List Nat) (w : Warp) (k : Nat) :
    (ls.foldl (fun w' l => w'.setLane l (g l)) w).lane k = if k ∈ ls then g k else w.lane k := by
  induction ls generalizing w with
  | nil => simp
  | cons l ls ih =>
    rw [List.foldl_cons, ih, Warp.lane_setLane]
    by_cases hk : k ∈ ls
    · rw [if_pos hk, if_pos (List.mem_cons_of_mem _ hk)]
    · rw [if_neg hk]
      by_cases hl : k = l
      · rw [if_pos hl, if_pos (by simp [hl]), hl]
      · rw [if_neg hl, if_neg (by simp [hk, hl])]

/-- A change of the lanes of a mask: those lanes change as told, from what they were, and no other lane. -/
theorem Warp.lane_onLanes (w : Warp) (m : Mask) (f : Nat → Lane → Lane) (k : Nat) :
    (w.onLanes m f).lane k = if m.getLsbD k then f k (w.lane k) else w.lane k := by
  unfold Warp.onLanes
  rw [Warp.lane_foldl_setLane (fun l => f l (w.lane l))]
  by_cases h : m.getLsbD k = true
  · rw [if_pos (mem_lanesOf.mpr h), if_pos h]
  · rw [if_neg (fun hk => h (mem_lanesOf.mp hk)), if_neg h]

/-- It changes nothing else of the warp. -/
theorem Warp.onLanes_rest (w : Warp) (m : Mask) (f : Nat → Lane → Lane) :
    w.onLanes m f = { w with lanes := (w.onLanes m f).lanes } := by
  unfold Warp.onLanes
  have h : ({ (lanesOf m).foldl (fun w' l => w'.setLane l (f l (w.lane l))) w with lanes := w.lanes } : Warp) = w :=
    foldl_view (fun x : Warp => ({ x with lanes := w.lanes } : Warp)) (fun w' l => w'.setLane l (f l (w.lane l)))
      (fun _ _ => rfl) (lanesOf m) w
  generalize (lanesOf m).foldl (fun w' l => w'.setLane l (f l (w.lane l))) w = x at h ⊢
  cases x; cases w; simp_all

end Sys2Proof.Machine
end

