-- ==== Sys2Proof/Laws/Memory.lean ====
section
/-! SUPPORT. Every operation on memory keeps the canonical form of the DRAM bytes. -/

namespace Sys2Proof.Machine

/-- The DRAM bytes are in canonical form. Irreducible, so that no proof looks into an operation to compare two states. -/
@[irreducible] def MemOk (s : State) : Prop := Memory.wf s.mem = true

theorem memOk_iff {s : State} : MemOk s ↔ Memory.wf s.mem = true := by unfold MemOk; exact Iff.rfl

/-- An operation that leaves the bytes alone keeps their form. -/
theorem MemOk.congr {s t : State} (h : MemOk s) (e : t.mem = s.mem) : MemOk t := by
  rw [memOk_iff, e]; exact memOk_iff.mp h

theorem memOk_reset : MemOk State.reset := memOk_iff.mpr rfl

/-- Bytes written at consecutive addresses. -/
theorem wf_putBytes {t : Table Byte} (a : Nat) (bs : List Byte) (h : Memory.wf t = true) : Memory.wf (putBytes t a bs) = true := by
  induction bs generalizing t a with
  | nil => exact h
  | cons b bs ih => exact ih _ (canon_put _ _ h)

theorem memOk_foldl {β : Type} {f : State → β → State} (hf : ∀ s b, MemOk s → MemOk (f s b)) (l : List β) {s : State}
    (h : MemOk s) : MemOk (l.foldl f s) := foldl_keeps MemOk f hf l s h

theorem memOk_setCore {s : State} (n : Nat) (c : Core) (h : MemOk s) : MemOk (s.setCore n c) := h.congr rfl
theorem memOk_modCore {s : State} (n : Nat) (f : Core → Core) (h : MemOk s) : MemOk (s.modCore n f) := h.congr rfl
theorem memOk_setWarpOf {s : State} (w : Who) (x : Warp) (h : MemOk s) : MemOk (s.setWarpOf w x) := h.congr rfl
theorem memOk_modWarpOf {s : State} (w : Who) (f : Warp → Warp) (h : MemOk s) : MemOk (s.modWarpOf w f) := h.congr rfl
theorem memOk_modWarp {s : State} (f : Warp → Warp) (h : MemOk s) : MemOk (s.modWarp f) := h.congr rfl
theorem memOk_setSlice {s : State} (n : Nat) (c : Slice) (h : MemOk s) : MemOk (s.setSlice n c) := h.congr rfl
theorem memOk_modSlice {s : State} (n : Nat) (f : Slice → Slice) (h : MemOk s) : MemOk (s.modSlice n f) := h.congr rfl
theorem memOk_emit {s : State} (e : Emit) (h : MemOk s) : MemOk (s.emit e) := h.congr rfl
theorem memOk_setL2 {s : State} (pl : Nat) (x : L2Line) (h : MemOk s) : MemOk (s.setL2 pl x) := h.congr rfl
theorem memOk_dropSlice {s : State} (pl : Nat) (h : MemOk s) : MemOk (s.dropSlice pl) := h.congr rfl

/-! ### Parcels and rows -/

theorem memOk_recallFrom {s : State} (p d : Nat) (i : Bool) (h : MemOk s) : MemOk (s.recallFrom p d i) := by
  rw [memOk_iff] at h ⊢
  unfold State.recallFrom
  generalize List.range 2048 = l
  exact foldl_keeps (fun t => Memory.wf t = true) _ (fun _ _ hx => canon_put _ _ hx) _ _ h

theorem memOk_sendOn {s : State} (w : Waiting) (h : MemOk s) : MemOk (s.sendOn w) := by
  unfold State.sendOn
  split
  · exact h.congr rfl
  · exact h.congr rfl

theorem memOk_ualink {s : State} (d pa : Nat) (m : PeerMsg) (h : MemOk s) : MemOk (s.ualink d pa m) := by
  unfold State.ualink
  apply memOk_sendOn
  split
  · exact h.congr rfl
  · exact h
theorem memOk_toHome {s : State} (pa : Nat) (m : PeerMsg) (h : MemOk s) : MemOk (s.toHome pa m) := memOk_ualink _ _ _ h
theorem memOk_notePeer {s : State} (base : Nat) (d : Table Byte) (h : MemOk s) : MemOk (s.notePeer base d) := by
  unfold State.notePeer
  generalize List.range 128 = l
  exact h.congr rfl
theorem memOk_peerMay {s : State} (p : Nat) (h : MemOk s) : MemOk (s.peerMay p) := h.congr rfl

theorem memOk_claim {s : State} (pa : Nat) (w : Bool) (h : MemOk s) : MemOk (s.claim pa w) := by
  unfold State.claim
  extract_lets parcel set_ hd s1 s2 h2
  have hset : ∀ r x, MemOk r → MemOk (set_ r x) := fun r x hr => hr.congr rfl
  split
  · split
    · exact h
    · exact hset _ _ (memOk_recallFrom _ _ _ h)
    · split
      · exact hset _ _ (memOk_foldl (fun s d hs => memOk_ualink d _ .invalidate hs) _ h)
      · exact h
  · have h2 : MemOk s2 := by
      show MemOk (if _ then _ else _)
      split
      · exact memOk_toHome _ _ (memOk_peerMay _ h)
      · exact memOk_peerMay _ h
    exact h2.congr rfl

theorem memOk_touchRow {s : State} (pa lcl : Nat) (w : Bool) (h : MemOk s) : MemOk (s.touchRow pa lcl w) := by
  unfold State.touchRow
  extract_lets b closed m
  split
  · exact h.congr rfl
  · exact h.congr rfl

/-! ### Slices -/

theorem memOk_wakeAhead {s : State} (u : Nat) (r : Word) (h : MemOk s) : MemOk (s.wakeAhead u r) := by
  unfold State.wakeAhead
  exact memOk_foldl (fun x n (hs : MemOk x) => (hs.congr rfl : MemOk (x.modRouter n _))) _ h
theorem memOk_wakeWay {s : State} (u v : Nat) (h : MemOk s) : MemOk (s.wakeWay u v) :=
  memOk_wakeAhead _ _ (memOk_wakeAhead _ _ h)

theorem memOk_needWay {s : State} (pa : Nat) (w : Bool) (h : MemOk s) : MemOk (s.needWay pa w) := by
  unfold State.needWay
  split
  · exact h
  · extract_lets s1
    have h1 : MemOk s1 := memOk_wakeWay _ _ h
    split
    · exact h1.congr rfl
    · exact h1

theorem memOk_fillSlice {s : State} (pl : Nat) (h : MemOk s) : MemOk (s.fillSlice pl) := by
  unfold State.fillSlice
  extract_lets s0 isPeer s1 s2 hh sl data t s3
  have h : MemOk s0 := memOk_needWay _ _ h
  split
  · exact h
  · apply memOk_setSlice
    have h1 : MemOk s1 := memOk_claim _ _ h
    have h2 : MemOk s2 := by
      show MemOk (if _ then _ else _)
      split
      · exact memOk_toHome _ _ h1
      · exact memOk_touchRow _ _ _ h1
    show MemOk (if _ then _ else _)
    split
    · exact memOk_notePeer _ _ h2
    · exact h2

theorem memOk_writeLine {s : State} (pl : Nat) (d : Table Byte) (h : MemOk s) : MemOk (s.writeLine pl d) := by
  unfold State.writeLine
  extract_lets base s1
  split
  · have ht := memOk_touchRow base s.reqLcl true h
    rw [memOk_iff] at ht ⊢
    show Memory.wf (if _ then _ else _) = true
    split
    · exact wf_putBytes _ _ ht
    · exact ht
  · exact memOk_notePeer _ _ (memOk_toHome _ _ h)

theorem memOk_cleanSlice {s : State} (pl : Nat) (h : MemOk s) : MemOk (s.cleanSlice pl) := by
  unfold State.cleanSlice
  split
  · split
    · exact memOk_setL2 _ _ (memOk_writeLine _ _ h)
    · exact h
  · exact h

theorem memOk_evictSlice {s : State} (pl : Nat) (h : MemOk s) : MemOk (s.evictSlice pl) := by
  unfold State.evictSlice
  split
  · exact memOk_dropSlice _ (memOk_modSlice _ _ (memOk_cleanSlice _ h))
  · exact h

/-! ### Accesses at the home slice -/

theorem memOk_homeRead {s : State} (pa n : Nat) (h : MemOk s) : MemOk (s.homeRead pa n).2 := memOk_fillSlice _ h

theorem memOk_recallLease {s : State} (n pl : Nat) (c : Bool) (h : MemOk s) : MemOk (s.recallLease n pl c) := by
  unfold State.recallLease
  extract_lets hh s1
  have h : MemOk s1 := memOk_wakeWay _ _ h
  split
  · split
    · exact h
    · exact memOk_modSlice _ _ h
  · exact h

theorem memOk_lineStore {s : State} (pl ct : Nat) (bs : List (Nat × Byte)) (h : MemOk s) : MemOk (s.lineStore pl ct bs).2 :=
  (memOk_fillSlice pl (memOk_claim (pl * 128) true (memOk_needWay (pl * 128) true h))).congr rfl

theorem memOk_storedBy {s : State} (n pl : Nat) (bs : List (Nat × Byte)) (old t : Nat) (h : MemOk s) :
    MemOk (s.storedBy n pl bs old t) := memOk_modCore _ _ h

theorem memOk_coreStore {s : State} (n pl : Nat) (bs : List (Nat × Byte)) (c : Bool) (h : MemOk s) :
    MemOk (s.coreStore n pl bs c) := by
  unfold State.coreStore
  extract_lets s1 old
  have h1 : MemOk s1 := memOk_fillSlice _ (memOk_claim _ _ (memOk_recallLease n pl c h))
  have hl := memOk_lineStore pl (s1.core n).ct bs h1
  split
  rename_i e
  rw [e] at hl
  exact memOk_storedBy _ _ _ _ _ hl

theorem memOk_homeStore {s : State} (n pa : Nat) (bs : List Byte) (c : Bool) (h : MemOk s) : MemOk (s.homeStore n pa bs c) :=
  (memOk_coreStore n (s.fwd pa / 128) (offsets (s.fwd pa % 128) bs) c h).congr rfl

theorem memOk_devStore {s : State} (pa : Nat) (bs : List Byte) (h : MemOk s) : MemOk (s.devStore pa bs) :=
  (memOk_lineStore (s.fwd pa / 128) 0 (offsets (s.fwd pa % 128) bs) h).congr rfl

theorem memOk_devWrite {s : State} (pa : Nat) (bs : List Byte) (h : MemOk s) : MemOk (s.devWrite pa bs) :=
  memOk_foldl (fun _ _ hs => memOk_devStore _ _ hs) _ h

theorem memOk_devRead {s : State} (pa n : Nat) (h : MemOk s) : MemOk (s.devRead pa n).2 := by
  induction n with
  | zero => exact h
  | succ n ih => exact memOk_homeRead (pa + n) 1 ih

theorem memOk_readNat {s : State} (pa n : Nat) (h : MemOk s) : MemOk (s.readNat pa n).2 := memOk_devRead pa n h

/-! ### Accesses of a core -/

theorem memOk_fillL1 {s : State} (n pl : Nat) (h : MemOk s) : MemOk (s.fillL1 n pl) := by
  unfold State.fillL1
  extract_lets s1 x e s2
  exact memOk_modCore _ _ (memOk_setL2 _ _ (memOk_fillSlice _ (memOk_recallLease _ _ _ h)))

theorem memOk_peerBytes {s : State} (pa n : Nat) (h : MemOk s) : MemOk (s.peerBytes pa n).2 := (memOk_peerMay (pa / 2048) h).congr rfl

theorem memOk_peerPut {s : State} (k pa : Nat) (bs : List Byte) (h : MemOk s) : MemOk (s.peerPut k pa bs) :=
  memOk_storedBy _ _ _ _ _ (h.congr rfl)

theorem memOk_peerRaw {s : State} (n pa k : Nat) (h : MemOk s) : MemOk (s.peerRaw n pa k).2 := by
  unfold State.peerRaw
  extract_lets s1
  have hb := memOk_peerBytes pa k (memOk_evictSlice (pa / 128) (memOk_recallLease n (pa / 128) true h))
  split
  rename_i e
  rw [e] at hb
  extract_lets s2
  have h2 : MemOk s2 := memOk_foldl (fun _ _ hs => memOk_toHome _ _ hs) _ hb
  exact h2.congr rfl

theorem memOk_peerRawPut {s : State} (n pa : Nat) (bs : List Byte) (h : MemOk s) : MemOk (s.peerRawPut n pa bs) :=
  memOk_peerPut _ _ _ (memOk_foldl (fun _ _ hs => memOk_toHome _ _ hs) _
    (memOk_evictSlice (pa / 128) (memOk_recallLease n (pa / 128) true h)))

theorem memOk_readLine {s : State} (n mt : Nat) (acq : Bool) (pa k : Nat) (h : MemOk s) :
    MemOk (s.readLine n mt acq pa k).2 := by
  unfold State.readLine
  extract_lets pa' pl c atSlice
  have hat : ∀ x, MemOk x → MemOk (atSlice x).2 := fun x hx => hx.congr rfl
  split
  · exact h
  · split
    · exact memOk_peerRaw _ _ _ h
    · split
      · have ha := hat _ (memOk_fillSlice pl (memOk_evictSlice pl (memOk_recallLease n pl true h)))
        split
        rename_i e
        rw [e] at ha
        exact memOk_evictSlice _ ha
      · split
        · split
          · exact h.congr rfl
          · exact hat _ (memOk_fillL1 _ _ h)
        · exact hat _ (memOk_fillSlice _ (memOk_recallLease _ _ _ h))

theorem memOk_readMem {s : State} (n mt : Nat) (acq : Bool) (pa k : Nat) (h : MemOk s) :
    MemOk (s.readMem n mt acq pa k).2 := by
  unfold State.readMem
  exact foldl_keeps (fun r : List Byte × State => MemOk r.2) _ (fun r e hr => memOk_readLine n mt acq e.1 e.2 hr) _ _ h

theorem memOk_rawStore {s : State} (n pa : Nat) (bs : List Byte) (h : MemOk s) : MemOk (s.rawStore n pa bs) := by
  unfold State.rawStore
  split
  · exact memOk_peerRawPut _ _ _ h
  · exact memOk_evictSlice _ (memOk_homeStore _ _ _ _ h)

theorem memOk_writeMem {s : State} (n mt pa : Nat) (bs : List Byte) (h : MemOk s) : MemOk (s.writeMem n mt pa bs) := by
  unfold State.writeMem
  extract_lets pa'
  split
  · exact h
  · refine memOk_foldl (fun s e hs => ?_) _ h
    show MemOk (if mt = 2 then s.rawStore n e.1 e.2 else s.homeStore n e.1 e.2)
    split
    · exact memOk_rawStore _ _ _ hs
    · exact memOk_homeStore _ _ _ _ hs

/-! ### Translation -/

theorem memOk_keep {s : State} (n : Nat) (e : TlbEntry) (h : MemOk s) : MemOk (s.keep n e) := memOk_modCore _ _ h

theorem memOk_oneOf {α : Type} {s : State} (x : α) (xs : List α) (h : MemOk s) : MemOk (s.oneOf x xs).2 := by
  unfold State.oneOf
  split
  · exact h
  · exact h.congr rfl

theorem memOk_readPte {s : State} (u at_ level from_ : Nat) (h : MemOk s) : MemOk (s.readPte u at_ level from_).2 := by
  have hr := memOk_readNat at_ 8 (memOk_wakeWay u (128 + s.homeSlice (s.fwd at_ / 128)) h)
  unfold State.readPte
  split
  · exact h
  · split
    · exact memOk_needWay _ _ h
    · split
      · exact h
      · split
        rename_i e
        rw [e] at hr
        exact hr

theorem memOk_walk {s : State} (n u : Nat) (asid : Word) (va table level from_ fuel : Nat) (h : MemOk s) :
    MemOk (s.walk n u asid va table level from_ fuel).2 := by
  induction fuel generalizing s table level from_ with
  | zero => exact h
  | succ fuel ih =>
    unfold State.walk
    extract_lets at_
    have hp := memOk_readPte u at_ level from_ h
    split
    rename_i e
    rw [e] at hp
    extract_lets now differ
    have ho := memOk_oneOf now (differ.map .ok) hp
    split
    rename_i e'
    rw [e'] at ho
    split
    · exact ho
    · extract_lets s1
      have h1 : MemOk s1 := memOk_keep _ _ ho
      split
      · exact h1
      · exact ih _ _ _ h1

theorem memOk_setAD {s : State} (n : Nat) (e : TlbEntry) (acc : Acc) (h : MemOk s) : MemOk (s.setAD n e acc) := by
  have hr := memOk_readNat e.at_ 8 h
  unfold State.setAD
  extract_lets need
  split
  · exact h
  · split
    rename_i e
    rw [e] at hr
    exact memOk_keep _ _ (memOk_homeStore _ _ _ _ hr)

theorem memOk_leafFor {s : State} (cx : XCx) (va : Nat) (h : MemOk s) : MemOk (s.leafFor cx va).2 := by
  have hw := memOk_walk cx.core (s.agent.getD cx.core) cx.asid va (bitsN cx.ptroot.toNat 55 16 * 65536) 0 0 4 h
  unfold State.leafFor
  extract_lets old
  split
  rename_i e
  rw [e] at hw
  exact memOk_oneOf _ _ hw

theorem memOk_translate {s : State} (cx : XCx) (acc : Acc) (va : Nat) (h : MemOk s) : MemOk (s.translate cx acc va).2 := by
  have hl := memOk_leafFor cx va h
  unfold State.translate
  split
  · split
    · exact h
    · extract_lets mt
      split
      · exact h
      · exact h
  · split
    · rename_i e; rw [e] at hl; exact hl
    · rename_i e
      rw [e] at hl
      split
      · exact hl
      · extract_lets pa mt
        split
        · exact hl
        · split
          · exact hl
          · split
            · exact memOk_needWay _ _ hl
            · exact memOk_setAD _ _ _ hl

theorem memOk_asidRoot {s : State} (asid : Nat) (h : MemOk s) : MemOk (s.asidRoot asid).2 := by
  unfold State.asidRoot
  split
  · exact h
  · extract_lets at_
    have hr := memOk_readNat (s.devnum * 2 ^ 45 + at_) 8 h
    split
    · exact h
    · split
      rename_i e
      rw [e] at hr
      split <;> exact hr

theorem memOk_translateAsid {s : State} (asid : Nat) (acc : Acc) (va : Nat) (h : MemOk s) :
    MemOk (s.translateAsid asid acc va).2 := by
  have ha := memOk_asidRoot asid h
  unfold State.translateAsid
  split
  · rename_i e; rw [e] at ha; exact ha
  · rename_i r s1 e
    rw [e] at ha
    have ht := memOk_translate ⟨0, r, BitVec.ofNat 32 asid, false⟩ acc va ha
    split
    · rename_i e'; rw [e'] at ht; exact ht
    · rename_i e'; rw [e'] at ht; exact ht

end Sys2Proof.Machine
end

