-- ==== Sys2Proof/Safety.lean ====
section
/-! DEFINITION. What counts as a safe run, and the terms in which claims speak of an issue and of memory. -/

namespace Sys2Proof

/-- A run of n steps from s that neither faults nor is refused. -/
def runs : Nat → Machine.State → Prop
  | 0, _ => True
  | n + 1, s => ∃ t, Machine.step s = .next t ∧ runs n t

/-- A state from which every run goes on for ever. -/
def Safe (s : Machine.State) : Prop := ∀ n, runs n s

namespace Machine

/-! ### The issue under way -/

/-- The active lanes of an instruction with guard g (R103). -/
def State.activeOf (g : Guard) (s : State) : Mask := (s.rdCx 0 .none).active g s.cur.cluster

/-- The lanes of the cluster whose guard is false. -/
def State.idleOf (g : Guard) (s : State) : Mask := s.cur.cluster &&& ~~~s.activeOf g

/-- What an instruction works with: its sources as read at issue, and its active lanes. -/
def State.issueOf (s : State) (g : Guard) (lit : Option Word) (perm : Perm) (kinds : SrcKinds) : Issue :=
  { cx := s.rdCx (lit.getD 0) perm, act := s.activeOf g, kinds := kinds }

/-- Nothing of R120 and R375 stops the instruction before its own effect: no illegal-instruction condition that its
encoding and the warp's allocation raise, the state that its privilege needs, and an implemented form. -/
def Executes (i : Instr) (s : State) : Prop :=
  illegalSub { v := s.warp.vAlloc, s := s.warp.sAlloc, sl := inSl s } i = none ∧
    (s.cur.front = .user → privSub i = none) ∧ unimplemented i = false

/-- The issue of i ends with the effect s': the lanes of adv and the lanes whose guard is false go past it. -/
def EndsWith (i : Instr) (g : Guard) (s s' : State) (adv : Mask) : Prop :=
  exec i s = .next (finish g.sw (s.idleOf g ||| adv) s')

/-- The lanes act in turn and none stops. -/
def lanesRun (f : Nat → State → Option Stop × State) : List Nat → State → Option State
  | [], s => some s
  | l :: ls, s =>
    match f l s with
    | (none, s) => lanesRun f ls s
    | (some _, _) => none

/-- The lanes of the active set have a result on its way, where there are any (R111). -/
def State.resultDue (s : State) (act : Mask) : State := if act = 0 then s else s.outstanding act

/-! ### Memory -/

/-- The byte that this device holds of an address of its own: in the home slice, else in memory. -/
def State.held (s : State) (pa : Nat) : Byte :=
  match find (s.slice (s.homeSlice (pa / 128))).lines (pa / 128) with
  | some x => look 0 x.data (pa % 128)
  | none => look 0 s.mem (localOf pa)

/-- No parcel of this home is owned by a peer or fenced. -/
def State.parcelsFree (s : State) : Prop :=
  ∀ p, (look Parcel.init s.fabric.cad p).fenced = none ∧ ∀ d, (look Parcel.init s.fabric.cad p).st ≠ .owned d

/-- No page of memory is being copied, and none is forwarded (R314). -/
abbrev State.still (s : State) : Prop := s.memctl.migSt ≠ .copying ∧ s.memctl.migSt ≠ .forwarding

/-- The issuing warp reaches memory by physical addresses, past no window of its core, and no page is being moved. -/
def State.plainSpace (s : State) : Prop :=
  s.warp.ptroot.getLsbD 0 = false ∧ (s.core s.cur.who.core).windows = [] ∧ s.still ∧ s.parcelsFree

/-- n bytes at a lie in this device's DRAM, in stacks that are trained, at addresses that a root with V = 0 maps (R269,
R362). -/
def State.dramAt (s : State) (a n : Nat) : Prop :=
  a + n ≤ 2 ^ 56 ∧ ∀ i < n, s.place (a + i) = .dram ∧ s.trainedAt (a + i) = true

/-- Core k reaches the home slices of n bytes at a over the links as they stand (R16, R430). -/
def State.linked (s : State) (k a n : Nat) : Prop := ∀ i < n, s.reaches k (128 + s.homeSlice ((a + i) / 128)) = true

/-- n aligned bytes at a are plain memory of this device for the issue under way (`dramAt`, `linked`). -/
def State.there (s : State) (a n : Nat) : Prop := a % n = 0 ∧ s.dramAt a n ∧ s.linked s.cur.who.core a n

end Machine

end Sys2Proof
end

