-- ==== Sys2Proof/Laws/Ops.lean ====
section
/-! SUPPORT. What the shared operations of issue do: the frame of an instruction, the end of an issue, lanes in turn. -/

namespace Sys2Proof.Machine

/-! ### The frame of an instruction -/

/-- An instruction that nothing stops has its own effect. -/
theorem runInstr_executes {i : Instr} {g : Guard} {lit : Option Word} {perm : Perm} {kinds : SrcKinds}
    {dyn : RdCx → State → List Nat} {body : Issue → State → Done} {s : State} (h : Executes i s)
    (hd : dyn (s.rdCx (lit.getD 0) perm) s = []) :
    runInstr i g lit perm kinds dyn body s =
      .next (finish g.sw (s.idleOf g ||| (body (s.issueOf g lit perm kinds) s).adv) (body (s.issueOf g lit perm kinds) s).s) := by
  obtain ⟨hl, hp, hu⟩ := h
  have hp' : (if s.cur.front = .user then privSub i else none) = none := by
    split
    · exact hp (by assumption)
    · rfl
  have hl' : illegalSub { v := (s.rdCx (lit.getD 0) perm).w.vAlloc, s := (s.rdCx (lit.getD 0) perm).w.sAlloc, sl := inSl s } i = none := hl
  simp only [runInstr, hl', hd, hp', hu]
  rfl

/-- An instruction without conditions of its own ends as its body does. -/
theorem endsWith_of_body {i : Instr} {g : Guard} {lit : Option Word} {perm : Perm} {kinds : SrcKinds}
    {body : Issue → State → Done} {s s' : State} {adv : Mask} (h : Executes i s)
    (he : exec i s = runInstr i g lit perm kinds noDyn body s) (hb : body (s.issueOf g lit perm kinds) s = ⟨s', adv⟩) :
    EndsWith i g s s' adv := by
  unfold EndsWith
  rw [he, runInstr_executes h rfl, hb]

/-! ### The end of an issue -/

/-- The end of an issue changes the issuing core and the draw counter, nothing else of the device. -/
theorem finish_rest (sw : Bool) (adv : Mask) (s : State) :
    finish sw adv s = { s with cores := (finish sw adv s).cores, draw := s.draw + 1 } := rfl

/-- It leaves every other core as it was. -/
theorem finish_core_of_ne (sw : Bool) (adv : Mask) (s : State) {n : Nat} (h : n ≠ s.cur.who.core) :
    (finish sw adv s).core n = s.core n := by
  exact State.core_modWarp_of_ne s (fun w =>
    if sw then ((w.advance adv s.cur.len).bookkeep s.cur.front s.cur.cluster).marker s.cur.front s.draw
    else (w.advance adv s.cur.len).bookkeep s.cur.front s.cur.cluster) h

/-- It leaves every other warp as it was. -/
theorem finish_warpOf_of_ne (sw : Bool) (adv : Mask) (s : State) {w : Who} (h : w ≠ s.cur.who) :
    (finish sw adv s).warpOf w = s.warpOf w := by
  exact State.warpOf_modWarp_of_ne s (fun w =>
    if sw then ((w.advance adv s.cur.len).bookkeep s.cur.front s.cur.cluster).marker s.cur.front s.draw
    else (w.advance adv s.cur.len).bookkeep s.cur.front s.cur.cluster) h

@[simp] theorem finish_mem (sw : Bool) (adv : Mask) (s : State) : (finish sw adv s).mem = s.mem := rfl
@[simp] theorem finish_slices (sw : Bool) (adv : Mask) (s : State) : (finish sw adv s).slices = s.slices := rfl
@[simp] theorem finish_time (sw : Bool) (adv : Mask) (s : State) : (finish sw adv s).time = s.time := rfl
@[simp] theorem finish_draw (sw : Bool) (adv : Mask) (s : State) : (finish sw adv s).draw = s.draw + 1 := rfl

/-! ### Lanes in turn -/

theorem maskOf_foldl_laneBit (ls : List Nat) (m : Mask) : ls.foldl (fun m l => m ||| laneBit l) m = m ||| maskOf ls := by
  unfold maskOf
  induction ls generalizing m with
  | nil => simp
  | cons l ls ih => rw [List.foldl_cons, List.foldl_cons, ih, ih (0 ||| laneBit l)]; simp [BitVec.or_assoc]

theorem laneBit_getLsbD (l i : Nat) (h : i < 32) : (laneBit l).getLsbD i = decide (i = l) := by
  simp only [laneBit, BitVec.getLsbD_ofNat, h, decide_true, Bool.true_and, Nat.testBit_two_pow]
  exact decide_eq_decide.mpr eq_comm

theorem maskOf_getLsbD (ls : List Nat) (i : Nat) (h : i < 32) : (maskOf ls).getLsbD i = decide (i ∈ ls) := by
  induction ls with
  | nil => simp [maskOf]
  | cons l ls ih =>
    have e : maskOf (l :: ls) = laneBit l ||| maskOf ls := by
      show ls.foldl (fun m l => m ||| laneBit l) (0 ||| laneBit l) = _
      rw [maskOf_foldl_laneBit]; simp
    rw [e, BitVec.getLsbD_or, laneBit_getLsbD _ _ h, ih]
    simp [List.mem_cons]

/-- A mask is the mask of its lanes. -/
@[simp] theorem maskOf_lanesOf (m : Mask) : maskOf (lanesOf m) = m := by
  apply BitVec.eq_of_getLsbD_eq
  intro i hi
  rw [maskOf_getLsbD _ _ hi]
  cases hm : m.getLsbD i
  · exact decide_eq_false fun h => by rw [mem_lanesOf, hm] at h; exact Bool.noConfusion h
  · exact decide_eq_true (mem_lanesOf.mpr hm)

theorem laneLoop_foldl (f : Nat → State → Option Stop × State) (k : Nat → Tops) (ls : List Nat) (m : Mask) (s t : State)
    (h : lanesRun f ls s = some t) :
    ls.foldl (fun (acc : Mask × State) l =>
      match f l acc.2 with
      | (none, s) => (acc.1 ||| laneBit l, s)
      | (some e, s) => (acc.1, s.stopAt e (k l) l)) (m, s) = (m ||| maskOf ls, t) := by
  induction ls generalizing m s with
  | nil => simp only [lanesRun, Option.some.injEq] at h; subst h; simp [maskOf]
  | cons l ls ih =>
    simp only [lanesRun] at h
    rw [List.foldl_cons]
    split at h
    · rename_i e
      simp only [e]
      rw [ih _ _ h]
      congr 1
      show m ||| laneBit l ||| maskOf ls = m ||| ls.foldl (fun m l => m ||| laneBit l) (0 ||| laneBit l)
      rw [maskOf_foldl_laneBit]
      simp [BitVec.or_assoc]
    · exact absurd h (by simp)

/-- Lanes none of which stops all advance, from the state the last of them leaves. -/
theorem laneLoop_of_run {x : Issue} {f : Nat → State → Option Stop × State} {s t : State}
    (h : lanesRun f (lanesOf x.act) s = some t) :
    laneLoop x f s = ⟨t.fqFlush s.cur.who.core (s.core s.cur.who.core).fqCount, x.act⟩ := by
  have hr := laneLoop_foldl f (x.cx.tops x.kinds) (lanesOf x.act) 0 s t h
  exact (congrArg (fun r : Mask × State =>
    (⟨r.2.fqFlush s.cur.who.core (s.core s.cur.who.core).fqCount, r.1⟩ : Done)) hr).trans (by simp)

end Sys2Proof.Machine
end

