-- ==== Sys2Proof/WellFormed.lean ====
section
/-! DEFINITION. Which instructions are well formed: those that have an encoding and raise no illegal-instruction
condition on a warp with the greatest allocation. -/

namespace Sys2Proof

/-- The greatest allocation of R50. -/
def maxAlloc : Machine.LegalCx := { v := 256, s := 64, sl := false }

/-- The length of an encoding is one that the major map lists for its major and minor (R117); a compact form has one
length. -/
def Encoded.listed (e : Encoded) : Bool :=
  let f := Fields.ofBits e.bits
  e.bytes == 2 ||
    match lengthsOf f.major.toNat (if f.major = 0x30 then 0 else f.minor.toNat) with
    | some ls => ls.any fun l => l.bytes == e.bytes
    | none => false

/-- An instruction with an encoding of a listed length and no illegal-instruction condition of R119 within itself. Events
have no encoding and are not well formed in this sense. -/
def Instr.wf (i : Instr) : Bool :=
  (match encode i with | some e => e.listed | none => false) && (Machine.illegalSub maxAlloc i).isNone

end Sys2Proof
end

