-- ==== Sys2Proof/Certificates/Slice0/Obligations.lean ====
section
/-! DEFINITION. The statements about the model, and the terms they are made in. -/

namespace Sys2Proof.Machine

/-! ### Terms -/

/-- i leaves the issuing warp as f makes it of the warp as it was, and nothing else of the device but what every issue
ends with; its active lanes go past it. -/
def Leaves (i : Instr) (g : Guard) (lit : Option Word) (perm : Perm) (f : Issue → Warp → Warp) : Prop :=
  ∀ s, Executes i s → EndsWith i g s (s.modWarp (f (s.issueOf g lit perm {}))) (s.activeOf g)

/-- The same, made once for the issue and not at all where no lane is active (R103). -/
def LeavesOnce (i : Instr) (g : Guard) (lit : Option Word) (perm : Perm) (f : Issue → Warp → Warp) : Prop :=
  ∀ s, Executes i s →
    EndsWith i g s (if s.activeOf g = 0 then s else s.modWarp (f (s.issueOf g lit perm {}))) (s.activeOf g)

/-- The n registers of D, or of the uniform file under UD, receive v (R130, R131). -/
def IntDoes (i : Instr) (o : WForm IMod) (n : Nat) (v : RdCx → Nat → Nat) : Prop :=
  Leaves i o.g o.lit o.perm (iWrite o.m.ud o.d n v)

/-- Element by element, f of one, two or three sources, each of the kind of MOD (R130). -/
def Int1 (i : WForm IMod → Instr) (f : Nat → Int → Int) : Prop :=
  ∀ o, IntDoes (i o) o (IMod.kind o.m).regs fun cx l => IMod.elems o.m (fun n x _ _ => f n x) (cx.srcA l o.a (IMod.kind o.m)) 0 0
def Int2 (i : WForm IMod → Instr) (f : Nat → Int → Int → Int) : Prop :=
  ∀ o, IntDoes (i o) o (IMod.kind o.m).regs fun cx l =>
    IMod.elems o.m (fun n x y _ => f n x y) (cx.srcA l o.a (IMod.kind o.m)) (cx.srcB l o.b (IMod.kind o.m)) 0
def Int3 (i : WForm IMod → Instr) (f : Nat → Int → Int → Int → Int) : Prop :=
  ∀ o, IntDoes (i o) o (IMod.kind o.m).regs fun cx l =>
    IMod.elems o.m f (cx.srcA l o.a (IMod.kind o.m)) (cx.srcB l o.b (IMod.kind o.m)) (cx.srcC l o.c (IMod.kind o.m))

/-- An element as an unsigned number of n bits, and as a two's complement one. -/
def asU (n : Nat) (x : Int) : Nat := (BitVec.ofInt n x).toNat
def asS (n : Nat) (x : Int) : Int := (BitVec.ofInt n x).toInt

/-- A bitwise function of two elements. -/
def bitwise (f : (n : Nat) → BitVec n → BitVec n → BitVec n) (n : Nat) (x y : Int) : Int :=
  (f n (BitVec.ofInt n x) (BitVec.ofInt n y)).toNat

/-- A compact form writes f of its two registers as 32-bit numbers to the first (R116, R156). -/
def C16Int (i : C16 → Instr) (f : Int → Int → Int) : Prop :=
  ∀ o : C16, Leaves (i o) (c16Guard o) none .none (iWrite false (o.vd.setWidth 8) 1 fun cx l =>
    truncI 32 (f (asS 32 (cx.srcA l (c16Reg o.vd) .i32)) (asS 32 (cx.srcB l (c16Reg o.vs) .i32))))

/-- Per active lane, the predicate D receives f. -/
def PredDoes (i : Instr) (o : WForm μ) (f : RdCx → Nat → Bool) : Prop := Leaves i o.g o.lit o.perm (pWrite o.d f)

/-- The 32-bit value of a register moves to D. -/
def MoveDoes (i : Instr) (g : Guard) (lit : Option Word) (perm : Perm) (ud : Bool) (d : BitVec 8) (n : Nat)
    (v : RdCx → Nat → Nat) : Prop :=
  Leaves i g lit perm (iWrite ud d n v)

/-- Each active lane writes its result of r and the exceptions of all of them are ORed into %fmode (R61, R158), always
where ARITHEN is 0; a lane whose exceptions meet ARITHEN does neither and takes the arithmetic trap (R383). -/
def FltDoes (i : Instr) (g : Guard) (lit : Option Word) (perm : Perm) (k : SrcKinds)
    (r : RdCx → FCap → Nat → Nat × Flags) (write : RdCx → Nat → Nat → Lane → Lane) : Prop :=
  ∀ s, Executes i s →
    let x := s.issueOf g lit perm k
    let v := r x.cx (FCap.ofFmode s.warp.fmode)
    let en := (s.core s.cur.who.core).arithen
    let after (m : Mask) : State := s.modWarp fun w =>
      (w.onLanes m fun l y => write x.cx l (v l).1 y).raise s.cur.front ((lanesOf m).foldl (fun fl l => fl ||| (v l).2) 0)
    (en = 0 → EndsWith i g s (after x.act) x.act) ∧
    ((∀ l ∈ lanesOf x.act, (v l).2 &&& en = 0) → EndsWith i g s (after x.act) x.act) ∧
    ∀ ok bad : Mask, ok ||| bad = x.act → (∀ l ∈ lanesOf ok, (v l).2 &&& en = 0) → (∀ l ∈ lanesOf bad, (v l).2 &&& en ≠ 0) →
      EndsWith i g s ((after ok).trapMask bad (fun l => ⟨0x06, (v l).2.toNat⟩) (x.cx.tops k)) ok

/-- The elements of a float kind, with the rounding of MOD. -/
def Flt1 (i : WForm FMod → Instr) (f : FloatFmt → FCap → Rm → Nat → Nat × Flags) : Prop :=
  ∀ o, FltDoes (i o) o.g o.lit o.perm (wSrcs o (some (FMod.kind o.m)) none none) (fun cx c l =>
    let k := FMod.kind o.m
    mapElemsF k.elem.1 k.elem.2 fun e =>
      f (fmtOf o.m.fmt) c (rndMode c o.m.rnd) (elemOf k.elem.1 e (cx.srcA l o.a k))) (writeVs o.d 1)
def Flt2 (i : WForm FMod → Instr) (f : FloatFmt → FCap → Rm → Nat → Nat → Nat × Flags) : Prop :=
  ∀ o, FltDoes (i o) o.g o.lit o.perm (wSrcs o (some (FMod.kind o.m)) (some (FMod.kind o.m)) none) (fun cx c l =>
    let k := FMod.kind o.m
    mapElemsF k.elem.1 k.elem.2 fun e =>
      f (fmtOf o.m.fmt) c (rndMode c o.m.rnd) (elemOf k.elem.1 e (cx.srcA l o.a k))
        (elemOf k.elem.1 e (cx.srcB l o.b k))) (writeVs o.d 1)
def Flt3 (i : WForm FMod → Instr) (f : FloatFmt → FCap → Rm → Nat → Nat → Nat → Nat × Flags) : Prop :=
  ∀ o, FltDoes (i o) o.g o.lit o.perm (wSrcs o (some (FMod.kind o.m)) (some (FMod.kind o.m)) (some (FMod.kind o.m))) (fun cx c l =>
    let k := FMod.kind o.m
    mapElemsF k.elem.1 k.elem.2 fun e =>
      f (fmtOf o.m.fmt) c (rndMode c o.m.rnd) (elemOf k.elem.1 e (cx.srcA l o.a k))
        (elemOf k.elem.1 e (cx.srcB l o.b k)) (elemOf k.elem.1 e (cx.srcC l o.c k))) (writeVs o.d 1)
def C16Flt (i : C16 → Instr) (f : FCap → Nat → Nat → Nat × Flags) : Prop :=
  ∀ o : C16, FltDoes (i o) (c16Guard o) none .none (c16Kinds o .f32)
    (fun cx c l => f c (cx.srcA l (c16Reg o.vd) .f32) (cx.srcB l (c16Reg o.vs) .f32)) (writeVs (o.vd.setWidth 8) 1)

/-- Every active lane takes trap t with the sources of kinds k, and no active lane goes past the instruction. -/
def TrapsActive (i : Instr) (g : Guard) (lit : Option Word) (perm : Perm) (k : SrcKinds) (t : Trap) (s : State) : Prop :=
  EndsWith i g s (s.trapMask (s.activeOf g) (fun _ => t) ((s.rdCx (lit.getD 0) perm).tops k)) 0

/-- T(l) of R151: the active lanes of l's tile. -/
def tileOf (t : Nat) (act : Mask) (l : Nat) : List Nat := (lanesOf act).filter fun m => m / t = l / t

/-- The active lanes of the issue go to their targets; where `counts`, a target at or below the branch's own address
counts for the front's spin counter, which the supervisor lane does not have (R42, R144). -/
def State.jumped (s : State) (g : Guard) (counts : Bool) (target : Nat → BitVec 63) : State :=
  let act := s.activeOf g
  s.modWarp fun w =>
    let w := w.onLanes act fun l y => { y with pc := target l }
    if counts && !inSl s && (lanesOf act).any fun l => decide ((target l).toNat ≤ s.cur.pc.toNat) then
      w.setFront s.cur.front ((w.front s.cur.front).countSpin s.cur.pc s.cur.cluster)
    else w

/-- The trap registers of R377 hold the trap, the instruction and its sources, whatever is read when. -/
def Lane.heldTrap (s : State) (t : Trap) (k : Tops) (y : Lane) : Prop :=
  ∀ draw n, y.tpc.read draw n = s.cur.pc ++ 0#1 ∧
    y.tcause.read draw n = BitVec.ofNat 32 (t.sub % 256 * 256 + t.cause % 256) ∧
    (∀ j < 3, (look zeroV y.tword j).read draw n = s.cur.words.extractLsb' (32 * j) 32) ∧
    (look zeroV y.top 0).read draw n = k.a ∧ (look zeroV y.top 1).read draw n = k.b ∧
    (look zeroV y.top 2).read draw n = k.c

/-- From s₁ on the active lanes act by f in turn; where none stops, i ends with what they leave, and a result is due where
`due` says that it has one. The core's fault count word is written where the count moved (R455). -/
def LanesDo (i : Instr) (g : Guard) (s s₁ : State) (f : Nat → State → Option Stop × State) (due : Bool) : Prop :=
  ∀ t, lanesRun f (lanesOf (s.activeOf g)) s₁ = some t →
    let t := t.fqFlush s₁.cur.who.core (s₁.core s₁.cur.who.core).fqCount
    EndsWith i g s (if due then t.resultDue (s.activeOf g) else t) (s.activeOf g)

/-- What holds of the state that an instruction's release leaves, where nothing stops the release (R306, R419). -/
def State.afterRelease (s : State) (plainIsDev : Bool) (m : MMod) (g : Guard) (p : State → Prop) : Prop :=
  ∀ s₁, s.release plainIsDev m.scope (ordRel m.ord) (s.activeOf g) = (none, s₁) → p s₁

/-- x is the one window of core n, its entries keep distinct lines of this device's DRAM, and no page is being moved. -/
def State.soleWindow (s : State) (n : Nat) (x : Window) : Prop :=
  (s.core n).windows = [x] ∧ s.still ∧ s.parcelsFree ∧ (x.entries.map (·.1)).Pairwise (· < ·) ∧
    (x.entries.map fun e => e.2.line).Nodup ∧
    ∀ e ∈ x.entries, s.dramAt (e.2.line * 128) 128 ∧ s.linked n (e.2.line * 128) 128 ∧ ∀ d ∈ e.2.dirty, d.1 < 128

/-- From s to t the issuing warp keeps all but the vector registers that dest names by lane and number, the program
counters and ages of its lanes, and the books of its fronts. -/
def State.onlyWrites (s t : State) (dest : Nat → Nat → Prop) : Prop :=
  t.warp = { s.warp with lanes := t.warp.lanes, user := t.warp.user, sup := t.warp.sup, last := t.warp.last } ∧
  ∀ l, t.warp.lane l = { s.warp.lane l with v := (t.warp.lane l).v, pc := (t.warp.lane l).pc, age := (t.warp.lane l).age } ∧
    ∀ r, ¬ dest l r → look zeroV (t.warp.lane l).v r = look zeroV (s.warp.lane l).v r

/-- What is for device dev about address pa has left on the UALink port of its plane, or waits while that port is down (R359, R436). -/
def State.sends (s : State) (dev pa : Nat) (m : PeerMsg) : Prop :=
  if s.linkUp (s.planePort pa) = true then ∃ tag, .ualink (s.planePort pa) dev pa tag m ∈ s.out
  else ∃ w ∈ s.fabric.stuck, w.dev = dev ∧ w.pa = pa ∧ w.msg = m

/-- Register r of lane l receives x from the issuing front between s and t. -/
def State.gives (s t : State) (l r x : Nat) : Prop :=
  look zeroV (t.warp.lane l).v r = Cell.write s.cur.front (BitVec.ofNat 32 x) (look zeroV (s.warp.lane l).v r)

/-- Network interface u of the device acts on i by f where each of its requests finds its way; else i waits, behind what waits
for u already (R327, R430; log entry 127). -/
def UnitDoes (i : Instr) (u : Nat) (f : State → State) (s : State) : Prop :=
  let t := f { s with agent := some u, cut := false }
  ((∃ e ∈ s.parked, e.1 = u) → exec i s = .next { s with parked := s.parked ++ [(u, i)], draw := s.draw + 1 }) ∧
  ((∀ e ∈ s.parked, e.1 ≠ u) →
    (t.cut = true → exec i s = .next { s with parked := s.parked ++ [(u, i)], draw := s.draw + 2 }) ∧
    (t.cut = false → exec i s = .next { t with agent := s.agent, cut := s.cut, draw := t.draw + 1 }))

/-- i answers a next state of which p holds. -/
def Answers (i : Instr) (s : State) (p : State → Prop) : Prop := ∃ t, exec i s = .next t ∧ p t

end Sys2Proof.Machine

open Sys2Proof Sys2Proof.Machine

/-! ### Issue and decoding -/

/-- R93, R94: the context that issues runs the instruction that the bits at its issue address decode to. Around it `step`
makes the choice of the front and cluster (`beginIssue`) and takes first an interrupt that the supervisor lane admits. An event
that is next on the schedule, or next in the backlog, comes about by its own row (log entry 1). -/
def Obligations.StepRunsDecoded : Prop :=
  (∀ (s : State) (i : Instr), s.fatal = false →
    (∀ ts, s.tape = .event i :: ts → step s = exec i { s with tape := ts }) ∧
    (∀ is, s.tape = [] → s.backlog = i :: is → step s = exec i { s with backlog := is })) ∧
  ∀ (s s₀ t : State) (w : Who) (f : Front) (bits : BitVec 96) (len : Nat) (i : Instr),
    s.fatal = false →
    ((∃ ts, s.tape = .issue w :: ts ∧ s₀ = { s with tape := ts }) ∨
      (s.tape = [] ∧ s.backlog = [] ∧ s.turn = some w ∧ s₀ = { s with ticked := false })) →
    (w.ctx = .sl → s₀.interruptAdmitted w.core = false ∧ (s₀.core w.core).sl.halt = false) →
    s₀.pickFront w = some f →
    (s₀.beginIssue w f).fetch ((s₀.beginIssue w f).fetchCx w f) ((s₀.beginIssue w f).cur.pc ++ 0#1) =
      (.ok (bits, len), t) →
    decode bits = .ok i →
    step s = exec i { t with cur := { t.cur with words := bits, len := len } }

/-- R3, R93, R94, R342: at a physical address of the boot ROM, the bytes in order of address from the low end are the bits
that an issue fetches, as many as the lowest bits of the first halfword say. -/
def Sys2Proof.Machine.FetchFromRom : Prop :=
  ∀ (s : State) (cx : XCx) (va : DWord), cx.ptroot.getLsbD 0 = false → va.toNat + 12 ≤ 2 ^ 56 →
    (∀ i < 12, s.place (va.toNat + i) = .rom) → s.still → s.parcelsFree → s.poison = [] →
    let h := halfwords (ofBytes (getBytes s.mem (localOf va.toNat) 2))
    (s.fetch cx va).1 = .ok (BitVec.ofNat 96 (ofBytes (getBytes s.mem (localOf va.toNat) (2 * h))), 2 * h)

/-- R3, R93, R94, R265, R269: the same at a physical address of this device's DRAM, for a core that keeps no instruction
copies and reaches the home slices: the bytes are those of the home slices and of memory. -/
def Sys2Proof.Machine.FetchFromDram : Prop :=
  ∀ (s : State) (cx : XCx) (va : DWord), cx.ptroot.getLsbD 0 = false → s.dramAt va.toNat 12 → va.toNat % 2 = 0 →
    s.parcelsFree → s.still → s.poison = [] → (s.core cx.core).icache = [] →
    s.linked cx.core va.toNat 12 →
    let byte (i : Nat) : Byte := s.held (va.toNat + i)
    let h := halfwords (ofBytes [byte 0, byte 1])
    (s.fetch cx va).1 = .ok (BitVec.ofNat 96 (ofBytes ((List.range (2 * h)).map byte)), 2 * h)

/-- R95 to R109, R116, R117: words of several families, and what they stand for. -/
def Obligations.DecodeWords : Prop :=
  let g : Guard := { sw := false, pn := false, pi := 7 }
  decode 0x2A0019000282520B = .ok (.fadd
    { g := { sw := true, pn := true, pi := 2 }, d := 4, a := .v 5, b := .v 6, c := .zero, perm := .bf2,
      m := { rnd := .rtz, fmt := .f32 }, lit := none }) ∧
  decode 0x38C4 = .ok (.iaddC16 { sw := false, vd := 3, vs := 7 }) ∧
  decode 0x0A000E400100B803 = .ok (.iadd
    { g := g, d := 1, a := .v 2, b := .v 3, c := .zero, perm := .none,
      m := { w := .x16, z := false, sat := true, ud := false }, lit := none }) ∧
  decode 0x008000840180BA63 = .ok (.cvt
    { g := g, d := 1, a := .v 3, del := 2, sel := 0, sf := .f32, df := .e4m3, rnd := .rne, sat := false }) ∧
  decode 0x0005022180003D2B = .ok (.deq
    { g := { g with sw := true }, d := 0, a := .s 0, b := .zero, gsel := 0, m := { scope := .dev, ord := .acq },
      off := .short 0 }) ∧
  decode 0x1E04562081023D33 = .ok (.waitv
    { g := g, d := 4, a := .s 2, b := .s 21, c := .imm 64, gsel := 0, ty := .z32, m := { scope := .dev, ord := .acq } }) ∧
  decode 0x0A002000E08A0F03 = .ok (.sysc
    { g := { g with pi := 1 }, d := 20, a := .imm 65, b := .v 8, c := .zero, perm := .none, m := .nil, lit := none })

/-- R95 to R109, R116, R117: decoding the encoding of a well-formed instruction gives the instruction back. -/
def Obligations.EncodeDecode : Prop :=
  ∀ (i : Instr) (e : Encoded), i.wf = true → encode i = some e → decode e.bits = .ok i

/-- R93: bits beyond an instruction's length do not enter its decoding. -/
def Sys2Proof.Machine.DecodeReadsItsLength : Prop :=
  ∀ (x y : BitVec 96) (n : Nat), lengthCode x = some n → (∀ i < 8 * n, x.getLsbD i = y.getLsbD i) → decode x = decode y

/-! ### The integer family -/

/-- R132: what the arithmetic instructions write, by the table of the rule; IMADW reads its third source and writes its
result as 64-bit pairs. -/
def Sys2Proof.Machine.IntegerArithmetic : Prop :=
  Int2 .iadd (fun _ x y => x + y) ∧ Int2 .isub (fun _ x y => x - y) ∧ Int3 .iadd3 (fun _ x y z => x + y + z) ∧
  Int1 .ineg (fun _ x => -x) ∧ Int1 .iabs (fun _ x => (x.natAbs : Int)) ∧ Int2 .imul (fun _ x y => x * y) ∧
  Int2 .imulh (fun n x y => x * y / 2 ^ n) ∧ Int3 .imad (fun _ x y z => x * y + z) ∧
  Int2 .imin (fun _ x y => min x y) ∧ Int2 .imax (fun _ x y => max x y) ∧
  ∀ o : WForm IMod, IntDoes (.imadw o) o 2 fun cx l =>
    IMod.cut o.m 64 (iRead o.m.z 32 (cx.srcA l o.a .i32) * iRead o.m.z 32 (cx.srcB l o.b .i32) +
      iRead o.m.z 64 (cx.srcC l o.c .i64))

/-- R133: the bitwise instructions, on the elements as words of n bits. -/
def Sys2Proof.Machine.IntegerBitwise : Prop :=
  Int2 .and (bitwise fun _ x y => x &&& y) ∧ Int2 .or (bitwise fun _ x y => x ||| y) ∧
  Int2 .xor (bitwise fun _ x y => x ^^^ y) ∧ Int1 .not (fun n x => ((~~~BitVec.ofInt n x).toNat : Int)) ∧
  Int2 .andn (bitwise fun _ x y => x &&& ~~~y) ∧ Int2 .orn (bitwise fun _ x y => x ||| ~~~y)

/-- R134: the shifts; the amount is the element of b read as unsigned. -/
def Sys2Proof.Machine.IntegerShifts : Prop :=
  Int2 .shl (fun n x y => x * 2 ^ min (asU n y) n) ∧
  Int2 .shr (fun n x y => ((BitVec.ofInt n x >>> asU n y).toNat : Int)) ∧
  Int2 .sar (fun n x y => ((BitVec.ofInt n x).sshiftRight (asU n y)).toInt) ∧
  Int2 .rotl (fun n x y => (((BitVec.ofInt n x).rotateLeft (asU n y % n)).toNat : Int)) ∧
  Int2 .rotr (fun n x y => (((BitVec.ofInt n x).rotateRight (asU n y % n)).toNat : Int)) ∧
  Int3 .fshl (fun n x y z =>
    ((((BitVec.ofInt n x ++ BitVec.ofInt n z) <<< (asU n y % n)).extractLsb' n n).toNat : Int)) ∧
  Int3 .fshr (fun n x y z =>
    ((((BitVec.ofInt n z ++ BitVec.ofInt n x) >>> (asU n y % n)).extractLsb' 0 n).toNat : Int))

/-- R135: fields and counts. -/
def Sys2Proof.Machine.IntegerFields : Prop :=
  (∀ o : WForm IMod, IntDoes (.bfe o) o (IMod.kind o.m).regs fun cx l =>
    IMod.elems o.m (fun n x y _ =>
      let pos := asU n y % 256
      let len := min (asU n y / 256 % 256) n
      if len = 0 ∨ n ≤ pos then 0
      else
        let h := min (pos + len) n - 1
        let b := (BitVec.ofInt n x).extractLsb' pos (h - pos + 1)
        if o.m.z then b.toNat else b.toInt)
      (cx.srcA l o.a (IMod.kind o.m)) (cx.srcB l o.b (IMod.kind o.m)) 0) ∧
  Int3 .bfi (fun n x y z =>
    let pos := asU n y % 256
    let len := min (asU n y / 256 % 256) n
    if len = 0 ∨ n ≤ pos then asU n z
    else
      let k := min (pos + len) n - pos
      let m : BitVec n := BitVec.ofNat n ((2 ^ k - 1) * 2 ^ pos)
      ((BitVec.ofInt n z &&& ~~~m) ||| ((BitVec.ofInt n x <<< pos) &&& m)).toNat) ∧
  Int1 .popc (fun n x => (((List.range n).countP fun j => (BitVec.ofInt n x).getLsbD j) : Nat)) ∧
  Int1 .clz (fun n x => (((List.range n).find? fun j => (BitVec.ofInt n x).getMsbD j).getD n : Nat)) ∧
  Int1 .brev (fun n x => ((BitVec.ofInt n x).reverse.toNat : Int)) ∧
  Int1 .ffs (fun n x => (((List.range n).find? fun j => (BitVec.ofInt n x).getLsbD j).getD n : Nat))

/-- R136, R137, R138: addresses, comparison, choice.
What the rules leave open there is the model's choice: log entry 89. -/
def Obligations.IntegerAddressesAndChoices : Prop :=
  ∀ o : WForm IMod,
    IntDoes (.lea o) o 2 (fun cx l =>
      let y : DWord := if o.m.z then BitVec.ofNat 64 (cx.srcB l o.b .i32 % 2 ^ 32)
        else (BitVec.ofNat 32 (cx.srcB l o.b .i32)).signExtend 64
      (BitVec.ofNat 64 (cx.srcA l o.a .i64) + y <<< (cx.srcC l o.c .i32 % 64)).toNat) ∧
    IntDoes (.leaw o) o 2 (fun cx l =>
      (BitVec.ofNat 64 (cx.srcA l o.a .i64) + BitVec.ofNat 64 (cx.srcB l o.b .i64) <<< (cx.srcC l o.c .i32 % 64)).toNat) ∧
    (∀ cc, PredDoes (.icmp cc o) o fun cx l =>
      let n := (IMod.kind o.m).elem.1
      let x := iRead o.m.z n (cx.srcA l o.a (IMod.kind o.m))
      let y := iRead o.m.z n (cx.srcB l o.b (IMod.kind o.m))
      match cc with
      | .eq => decide (x = y) | .ne => decide (x ≠ y) | .lt => decide (x < y)
      | .le => decide (x ≤ y) | .gt => decide (x > y) | .ge => decide (x ≥ y)) ∧
    IntDoes (.sel o) o (IMod.kind o.m).regs (fun cx l =>
      if cx.srcC l o.c .i32 = 1 then cx.srcA l o.a (IMod.kind o.m) else cx.srcB l o.b (IMod.kind o.m))

/-- R130: each element of a result is the exact value of its own elements, saturated or cut to the width, and no bit
stands above the last. -/
def Obligations.IntegerElements : Prop :=
  ∀ (m : IMod) (f : Nat → Int → Int → Int → Int) (x y z e : Nat),
    let n := (IMod.kind m).elem.1
    let el (v : Nat) : Int := if m.z then (v / 2 ^ (n * e) % 2 ^ n : Nat) else (BitVec.ofNat n (v / 2 ^ (n * e))).toInt
    let t := f n (el x) (el y) (el z)
    IMod.elems m f x y z < 2 ^ (n * (IMod.kind m).elem.2) ∧
    (e < (IMod.kind m).elem.2 →
      let r := BitVec.ofNat n (IMod.elems m f x y z / 2 ^ (n * e))
      (m.sat = false → r = BitVec.ofInt n t) ∧
      (m.sat = true → m.z = false → r.toInt = max (-2 ^ (n - 1)) (min (2 ^ (n - 1) - 1) t)) ∧
      (m.sat = true → m.z = true → (r.toNat : Int) = max 0 (min (2 ^ n - 1) t)))

/-- R107, R112, R130, R131: a result is one write of the issuing front to each register of its destination in each
active lane; every other register and lane, and the uniform file, stay. -/
def Sys2Proof.Machine.ResultRegisters : Prop :=
  ∀ (d : BitVec 8) (n : Nat) (v : RdCx → Nat → Nat) (x : Issue) (w : Warp) (l r : Nat),
    let y := (iWrite false d n v x w).lane l
    (look zeroV y.v r = if l ∈ lanesOf x.act ∧ d.toNat ≤ r ∧ r < d.toNat + n
        then Cell.write x.cx.front (BitVec.ofNat 32 (v x.cx l / 2 ^ (32 * (r - d.toNat)))) (look zeroV (w.lane l).v r)
        else look zeroV (w.lane l).v r) ∧
      y = { w.lane l with v := y.v } ∧ iWrite false d n v x w = { w with lanes := (iWrite false d n v x w).lanes }

/-- R103, R131: a result in the uniform file is one write for the issue, and none where no lane is active. -/
def Sys2Proof.Machine.UniformResult : Prop :=
  ∀ (d : BitVec 8) (n : Nat) (v : RdCx → Nat → Nat) (x : Issue) (w : Warp) (r : Nat),
    let t := iWrite true d n v x w
    t = { w with s := t.s } ∧
    look zeroV t.s r = if x.act ≠ 0 ∧ d.toNat ≤ r ∧ r < d.toNat + n
      then Cell.write x.cx.front (BitVec.ofNat 32 (v x.cx (lowLane x.act) / 2 ^ (32 * (r - d.toNat)))) (look zeroV w.s r)
      else look zeroV w.s r

/-- R112, R113: once the writes of a front are in, a register with one open write, that front's, reads as it says; one
with none keeps its value; the writes of the other front stay open. -/
def Sys2Proof.Machine.SettledWrites : Prop :=
  ∀ (f : Front) (draw base k : Nat) (t : Table VReg) (i : Nat) (c : VReg), look zeroV t i = c →
    let c' := look zeroV (settleTab zeroV f draw base t) i
    (c.opens = [] → c' = c) ∧
    (∀ x, c.opens = [(f, x)] → ∀ draw', c'.read draw' k = x ∧ c'.opens = []) ∧
    c'.opens = c.opens.filter fun e => e.1 ≠ f

/-- R53: p7 reads true and a write to it is discarded; every other predicate receives the write. -/
def Sys2Proof.Machine.PredicateSeven : Prop :=
  ∀ (f : Front) (i : Nat) (x : Bool) (y : Lane) (cx : RdCx) (pos l : Nat),
    cx.rP pos l 7 = true ∧ y.wP f 7 x = y ∧
    (i ≠ 7 → look zeroP (y.wP f i x).p i = Cell.write f x (look zeroP y.p i) ∧
      ∀ j ≠ i, look zeroP (y.wP f i x).p j = look zeroP y.p j)

/-- R139: combinations of predicates, lane by lane. -/
def Sys2Proof.Machine.PredicateCombinations : Prop :=
  ∀ o : WForm NoMod,
    PredDoes (.pand o) o (fun cx l => (cx.srcA l o.a .i32 != 0) && (cx.srcB l o.b .i32 != 0)) ∧
    PredDoes (.por o) o (fun cx l => (cx.srcA l o.a .i32 != 0) || (cx.srcB l o.b .i32 != 0)) ∧
    PredDoes (.pxor o) o (fun cx l => (cx.srcA l o.a .i32 != 0) != (cx.srcB l o.b .i32 != 0)) ∧
    PredDoes (.pnot o) o (fun cx l => cx.srcA l o.a .i32 == 0)

/-- R140: moves of 32 bits; MOVU moves once, from the lowest-numbered active lane. -/
def Sys2Proof.Machine.Moves : Prop :=
  (∀ o : WForm NoMod,
    MoveDoes (.mov o) o.g o.lit o.perm false o.d 1 (fun cx l => cx.srcA l o.a .i32) ∧
    MoveDoes (.movu o) o.g o.lit o.perm true o.d 1 (fun cx l => cx.srcA l o.a .i32) ∧
    PredDoes (.movp o) o (fun cx l => cx.srcA l o.a .i32 != 0) ∧
    MoveDoes (.xget o) o.g o.lit o.perm false o.d 1 (fun cx l => (cx.rX l o.a.code.toNat).toNat) ∧
    Leaves (.xput o) o.g o.lit o.perm fun x w =>
      w.onLanes x.act fun l y => y.wX x.cx.front o.d.toNat (BitVec.ofNat 32 (x.cx.srcA l o.a .i32))) ∧
  ∀ o : N32, MoveDoes (.movN32 o) o.g none .none false o.d 1 fun cx l => cx.srcA l o.a .i32

/-- R54, R55, R57, R141: descriptors move through four uniform registers, once for the issue and not at all where no lane
is active; reserved fields are written as zero. -/
def Sys2Proof.Machine.DescriptorMoves : Prop :=
  ∀ o : WForm NoMod,
    LeavesOnce (.tget o) o.g o.lit o.perm (fun x w => w.wSs x.cx.front o.d.toNat 4 (x.cx.rT o.a.code.toNat).toNat) ∧
    LeavesOnce (.aget o) o.g o.lit o.perm (fun x w => w.wSs x.cx.front o.d.toNat 4 (x.cx.rA o.a.code.toNat).toNat) ∧
    LeavesOnce (.tset o) o.g o.lit o.perm (fun x w =>
      { w with t := upd zeroD w.t o.d.toNat (Cell.write x.cx.front (x.cx.quad o.a &&& 0xF0FFFFFFFFFFFFFFFF)) }) ∧
    LeavesOnce (.aset o) o.g o.lit o.perm (fun x w =>
      { w with a := upd zeroD w.a o.d.toNat (Cell.write x.cx.front (x.cx.quad o.a &&& 0xFFFF007F00000000000000007FFFFFFF)) })

/-- R116, R156: the compact forms do what their long equivalents do with guard p7 and kind .s32; MOV of a register to
itself writes nothing. -/
def Obligations.CompactIntegers : Prop :=
  C16Int .iaddC16 (fun x y => x + y) ∧ C16Int .isubC16 (fun x y => x - y) ∧
  C16Int .andC16 (bitwise (fun _ x y => x &&& y) 32) ∧ C16Int .orC16 (bitwise (fun _ x y => x ||| y) 32) ∧
  C16Int .xorC16 (bitwise (fun _ x y => x ^^^ y) 32) ∧ C16Int .shlC16 (fun x y => x * 2 ^ min (asU 32 y) 32) ∧
  C16Int .shrC16 (fun x y => ((BitVec.ofInt 32 x >>> asU 32 y).toNat : Int)) ∧
  C16Int .sarC16 (fun x y => ((BitVec.ofInt 32 x).sshiftRight (asU 32 y)).toInt) ∧
  C16Int .imulC16 (fun x y => x * y) ∧ C16Int .iminC16 min ∧ C16Int .imaxC16 max ∧
  ∀ (o : C16) (s : State), Executes (.movC16 o) s →
    EndsWith (.movC16 o) (c16Guard o) s
      (if o.vd = o.vs then s
        else s.modWarp (iWrite false (o.vd.setWidth 8) 1 (fun cx l => cx.srcA l (c16Reg o.vs) .i32)
          (s.issueOf (c16Guard o) none .none {})))
      (s.activeOf (c16Guard o))

/-! ### Floating point and conversion -/

/-- R158, R161, R162, R165, R383: the float instructions, element by element.
What the rules leave open there is the model's choice: log entry 23. -/
def Sys2Proof.Machine.FloatArithmetic : Prop :=
  Flt2 .fadd (fun F c rm x y => fElem .add F c rm x y 0) ∧ Flt2 .fsub (fun F c rm x y => fElem .sub F c rm x y 0) ∧
  Flt2 .fmul (fun F c rm x y => fElem .mul F c rm x y 0) ∧ Flt3 .ffma (fElem .fma) ∧ Flt3 .ffms (fElem .fms) ∧
  Flt3 .fnma (fElem .nma) ∧ Flt2 .fmin (fun F c _ x y => fMinMax false F c x y) ∧
  Flt2 .fmax (fun F c _ x y => fMinMax true F c x y) ∧ Flt1 .sqrt (fun F c rm x => fElem .sqrt F c rm x 0 0) ∧
  C16Flt .faddC16 (fun c x y => fElem .add fp32 c c.rm x y 0) ∧
  C16Flt .fmulC16 (fun c x y => fElem .mul fp32 c c.rm x y 0) ∧ C16Flt .fminC16 (fMinMax false fp32) ∧
  C16Flt .fmaxC16 (fMinMax true fp32)

/-- R165, R166, R383: the special functions, which take no rounding mode.
What the rules leave open there is the model's choice: log entries 12, 23. -/
def Sys2Proof.Machine.SpecialFunctions : Prop :=
  Flt1 .rcp (fun F c _ x => sfuElem .rcp F c x) ∧ Flt1 .rsq (fun F c _ x => sfuElem .rsq F c x) ∧
  Flt1 .ex2 (fun F c _ x => sfuElem .ex2 F c x) ∧ Flt1 .lg2 (fun F c _ x => sfuElem .lg2 F c x) ∧
  Flt1 .sin (fun F c _ x => sfuElem .sin F c x) ∧ Flt1 .cos (fun F c _ x => sfuElem .cos F c x) ∧
  Flt1 .tanh (fun F c _ x => sfuElem .tanh F c x)

/-- R163, R169, R383: FCMP writes a predicate, CVT one element of its destination or the whole of it.
What the rules leave open there is the model's choice: log entry 84. -/
def Sys2Proof.Machine.FloatCompareConvert : Prop :=
  (∀ cc (o : WForm FMod), FltDoes (.fcmp cc o) o.g o.lit o.perm (wSrcs o (some (FMod.kind o.m)) (some (FMod.kind o.m)) none)
    (fun cx c l =>
      let r := fCompare cc (fmtOf o.m.fmt) c (cx.srcA l o.a (FMod.kind o.m)) (cx.srcB l o.b (FMod.kind o.m))
      (if r.1 then 1 else 0, r.2))
    (fun cx _ v y => y.wP cx.front o.d.toNat (v != 0))) ∧
  ∀ o : CvtForm, FltDoes (.cvt o) o.g none .none { a := some (o.a, cvtKind o.sf) }
    (fun cx c l =>
      let b := elemOf (cvtWidth o.sf) o.sel.toNat (cx.srcA l o.a (cvtKind o.sf))
      let r := cvtElem o.sf o.df c (rndMode c o.rnd) o.sat b
      (cvtInsert o.df o.del.toNat (if 32 ≤ cvtWidth o.df then 0 else cx.rV 3 l l o.d.toNat) r.1, r.2))
    (writeVs o.d (CvtFmt.regs o.df))

/-- R82, R84: a finite nonzero number rounds to the multiple of the format's spacing at it that `quantize` names, with NX and
UF alone exactly where that is not the number; one beyond the greatest finite value gives what the overflow table says, with
OF and NX. -/
def Sys2Proof.Machine.RoundsToTheFormat : Prop :=
  ∀ F ∈ [fp32, fp16, bf16, e5m2, e4m3, e2m1], ∀ (rm : Rm) (sat neg : Bool) (m : Nat) (e : Int), 0 < m →
    let q : Int := max (e + (Nat.log2 m : Nat)) (1 - (F.bias : Int)) - F.fbits
    let k := quantize rm neg m e false q
    let r := F.round rm sat neg m e false
    if cmpFin (F.value F.maxBits) (.fin false k.1 q) < 0 then
      r.fl = fOF ||| fNX ∧
      r.bits = (if sat = true ∨ F.hasInf = false ∨ rm = .rtz ∨ (rm = .rdn ∧ neg = false) ∨ (rm = .rup ∧ neg = true)
        then F.maxOf neg else F.infBits neg)
    else
      (F.value r.bits).isNeg = neg ∧ cmpFin (F.value r.bits) (.fin neg k.1 q) = 0 ∧ (r.fl = 0 ↔ k.2 = false) ∧
        r.fl &&& ~~~(fNX ||| fUF) = 0

/-- R158, R160, R161, R165: on finite operands the result is the exact sum, product or product and sum, rounded once, with its
flags; an exact zero sum has the sign of R160; the root is rounded from a bracket that decides every rounding.
What the rules leave open there is the model's choice: log entry 23. -/
def Sys2Proof.Machine.FloatResults : Prop :=
  ∀ F ∈ [fp32, fp16, bf16], ∀ (c : FCap) (rm : Rm) (a b d : Nat) (n₁ n₂ n₃ : Bool) (m₁ m₂ m₃ : Nat) (e₁ e₂ e₃ : Int),
    F.rd c.daz a = .fin n₁ m₁ e₁ → F.rd c.daz b = .fin n₂ m₂ e₂ → F.rd c.daz d = .fin n₃ m₃ e₃ →
    let rounded (n : Bool) (m : Nat) (e : Int) : Nat × Flags := F.flush c.ftz n (F.round rm false n m e false)
    let sum (x : Bool) (m : Nat) (e : Int) (y : Bool) (k : Nat) (f : Int) : Nat × Flags :=
      let t := scaleTo x m e (min e f) + scaleTo y k f (min e f)
      if t = 0 then (F.zero (if m = 0 ∧ k = 0 ∧ x = y then x else decide (rm = .rdn)), 0)
      else rounded (decide (t < 0)) t.natAbs (min e f)
    fElem .add F c rm a b d = sum n₁ m₁ e₁ n₂ m₂ e₂ ∧
    fElem .sub F c rm a b d = sum n₁ m₁ e₁ (!n₂) m₂ e₂ ∧
    fElem .mul F c rm a b d = rounded (n₁ != n₂) (m₁ * m₂) (e₁ + e₂) ∧
    fElem .fma F c rm a b d = sum (n₁ != n₂) (m₁ * m₂) (e₁ + e₂) n₃ m₃ e₃ ∧
    fElem .fms F c rm a b d = sum (n₁ != n₂) (m₁ * m₂) (e₁ + e₂) (!n₃) m₃ e₃ ∧
    fElem .nma F c rm a b d = sum (!(n₁ != n₂)) (m₁ * m₂) (e₁ + e₂) n₃ m₃ e₃ ∧
    (m₁ = 0 → fElem .sqrt F c rm a b d = (F.zero n₁, 0)) ∧
    (m₁ ≠ 0 → n₁ = true → fElem .sqrt F c rm a b d = (F.canon, fNV)) ∧
    (m₁ ≠ 0 → n₁ = false → ∃ (r : Nat) (f : Int), 2 ^ 64 ≤ r ∧
      let above := cmpFin (.fin false (r * r) (2 * f)) (.fin false m₁ e₁)
      above ≤ 0 ∧ 0 < cmpFin (.fin false ((r + 1) * (r + 1)) (2 * f)) (.fin false m₁ e₁) ∧
      fElem .sqrt F c rm a b d = rounded false (if above = 0 then 2 * r else 2 * r + 1) (f - 1))

/-- R160, R161: NaN operands and infinite ones. A quiet NaN gives the canonical NaN, a signalling one NV beside it; an
undefined combination of infinities and zeros gives it with NV, in a fused form beside a quiet NaN too. -/
def Sys2Proof.Machine.FloatSpecialOperands : Prop :=
  ∀ F ∈ [fp32, fp16, bf16], ∀ (c : FCap) (rm : Rm) (a b d : Nat),
    let x := F.rd c.daz a
    let y := F.rd c.daz b
    let z := F.rd c.daz d
    (x.isNan = true ∨ y.isNan = true → ∀ op ∈ [FArith.add, .sub, .mul],
      fElem op F c rm a b d = (F.canon, if x.isSig = true ∨ y.isSig = true then fNV else 0)) ∧
    (x.isNan = true ∨ y.isNan = true → ∀ op ∈ [FArith.fma, .fms, .nma],
      fElem op F c rm a b d = (F.canon, if x.isSig = true ∨ y.isSig = true ∨ z.isSig = true then fNV else 0)) ∧
    (∀ i j, x = .inf i → y = .inf j →
      fElem .add F c rm a b d = (if i = j then (F.infBits i, 0) else (F.canon, fNV)) ∧
      fElem .sub F c rm a b d = (if i = j then (F.canon, fNV) else (F.infBits i, 0)) ∧
      fElem .mul F c rm a b d = (F.infBits (i != j), 0)) ∧
    (∀ i n m e, x = .inf i → y = .fin n m e →
      fElem .add F c rm a b d = (F.infBits i, 0) ∧ fElem .sub F c rm a b d = (F.infBits i, 0) ∧
      fElem .mul F c rm a b d = (if m = 0 then (F.canon, fNV) else (F.infBits (i != n), 0)) ∧
      (m = 0 → ∀ op ∈ [FArith.fma, .fms, .nma], fElem op F c rm a b d = (F.canon, fNV)) ∧
      (m ≠ 0 → ∀ k, z = .inf k →
        fElem .fma F c rm a b d = (if (i != n) = k then (F.infBits k, 0) else (F.canon, fNV)) ∧
        fElem .fms F c rm a b d = (if (i != n) = k then (F.canon, fNV) else (F.infBits (i != n), 0)) ∧
        fElem .nma F c rm a b d = (if (i != n) = k then (F.canon, fNV) else (F.infBits k, 0)))) ∧
    (x.isNan = false → y.isNan = false → x.isInf = false → y.isInf = false → z.isNan = true → ∀ op ∈ [FArith.fma, .fms, .nma],
      fElem op F c rm a b d = (F.canon, if z.isSig = true then fNV else 0)) ∧
    (x.isNan = true → fElem .sqrt F c rm a b d = (F.canon, if x.isSig = true then fNV else 0)) ∧
    (∀ i, x = .inf i → fElem .sqrt F c rm a b d = (if i then (F.canon, fNV) else (F.infBits false, 0)))

/-- R162: the lesser and the greater of two numbers with its bits unchanged, or as the zero that DAZ read; zeros by their
signs; a number beside a NaN; the canonical NaN. A signalling NaN raises NV. A subnormal result is flushed under FTZ. -/
def Sys2Proof.Machine.MinimumMaximum : Prop :=
  ∀ F ∈ [fp32, fp16, bf16], ∀ (mx : Bool) (c : FCap) (a b : Nat), a < 2 ^ F.width → b < 2 ^ F.width →
    let x := F.rd c.daz a
    let y := F.rd c.daz b
    let nv : Flags := if x.isSig = true ∨ y.isSig = true then fNV else 0
    let bitsOf (v : FVal) (w : Nat) : Nat := if v.isZero && c.daz then F.zero v.isNeg else w
    ∃ r, fMinMax mx F c a b = (if c.ftz = true ∧ F.isSubnormal r = true then (F.zero (F.value r).isNeg, nv ||| fUF ||| fNX) else (r, nv)) ∧
      (x.isNan = true → y.isNan = true → r = F.canon) ∧ (x.isNan = true → y.isNan = false → r = bitsOf y b) ∧
      (x.isNan = false → y.isNan = true → r = bitsOf x a) ∧
      (x.isZero = true → y.isZero = true → r = F.zero (if mx then x.isNeg && y.isNeg else x.isNeg || y.isNeg)) ∧
      (x.isNan = false → y.isNan = false → (x.isZero = false ∨ y.isZero = false) →
        (r = bitsOf x a ∧ (if mx then cmpFin y x ≤ 0 else cmpFin x y ≤ 0)) ∨
        (r = bitsOf y b ∧ (if mx then cmpFin x y ≤ 0 else cmpFin y x ≤ 0)))

/-- R163: the relations of FCMP, on the difference of finite operands, on the signs where one is infinite; with a NaN every
relation but .ne and .un is false; the ordered ones raise NV on any NaN, the others on a signalling one. -/
def Sys2Proof.Machine.Comparisons : Prop :=
  ∀ F ∈ [fp32, fp16, bf16], ∀ (c : FCap) (a b : Nat),
    let x := F.rd c.daz a
    let y := F.rd c.daz b
    -- the relations of a pair of which `lt`, `eq` and `gt` hold
    let order (lt eq gt : Bool) : Prop :=
      ∀ p ∈ [(FCond.eq, eq), (.ne, !eq), (.lt, lt), (.le, lt || eq), (.gt, gt), (.ge, gt || eq), (.un, false), (.ord, true)],
        fCompare p.1 F c a b = (p.2, 0)
    (∀ n m e k l f, x = .fin n m e → y = .fin k l f →
      let t := scaleTo n m e (min e f) - scaleTo k l f (min e f)
      order (decide (t < 0)) (decide (t = 0)) (decide (0 < t))) ∧
    (∀ i j, x = .inf i → y = .inf j → order (i && !j) (i == j) (!i && j)) ∧
    (∀ i k l f, x = .inf i → y = .fin k l f → order i false (!i)) ∧
    (∀ n m e j, x = .fin n m e → y = .inf j → order (!j) false j) ∧
    (x.isNan = true ∨ y.isNan = true →
      let sig : Flags := if x.isSig = true ∨ y.isSig = true then fNV else 0
      ∀ p ∈ [(FCond.eq, false, sig), (.ne, true, sig), (.lt, false, fNV), (.le, false, fNV), (.gt, false, fNV), (.ge, false, fNV),
          (.un, true, sig), (.ord, false, sig)],
        fCompare p.1 F c a b = p.2)

/-- R85, R169, R170: a conversion rounds a finite number to the destination's format; to an integer it rounds, saturates and
raises NV where it did; an integer rounds to a float, and is cut or saturated to an integer. An infinity stays infinite where
the format has one, under .sat too (log entry 84). -/
def Sys2Proof.Machine.Conversions : Prop :=
  ∀ (sf df : CvtFmt) (c : FCap) (rm : Rm) (sat : Bool) (b : Nat),
    (∀ S D, cvtFloat sf = some S → cvtFloat df = some D →
      (∀ n m e, S.rd c.daz b = .fin n m e → cvtElem sf df c rm sat b = D.flush c.ftz n (D.round rm sat n m e false)) ∧
      (∀ q, S.rd c.daz b = .nan q → cvtElem sf df c rm sat b = (D.canon, if q = true ∨ D.width = 4 then fNV else 0)) ∧
      (∀ n, S.rd c.daz b = .inf n → cvtElem sf df c rm sat b = if D.hasInf then (D.infBits n, 0) else (D.maxOf n, fOF ||| fNX))) ∧
    (∀ S n sg, cvtFloat sf = some S → cvtInt df = some (n, sg) →
      let least : Int := if sg then -2 ^ (n - 1) else 0
      let most : Int := if sg then 2 ^ (n - 1) - 1 else 2 ^ n - 1
      (∀ neg m e, S.rd c.daz b = .fin neg m e →
        let k := quantize rm neg m e false 0
        let t : Int := if neg then -(k.1 : Int) else k.1
        let r := max least (min most t)
        cvtElem sf df c rm sat b = ((BitVec.ofInt n r).toNat, if r ≠ t then fNV else if k.2 then fNX else 0)) ∧
      (∀ q, S.rd c.daz b = .nan q → cvtElem sf df c rm sat b = (0, fNV)) ∧
      (∀ neg, S.rd c.daz b = .inf neg → cvtElem sf df c rm sat b = ((BitVec.ofInt n (if neg then least else most)).toNat, fNV))) ∧
    (∀ n sg, cvtInt sf = some (n, sg) →
      let x : Int := if sg then (BitVec.ofNat n b).toInt else (BitVec.ofNat n b).toNat
      (∀ D, cvtFloat df = some D →
        cvtElem sf df c rm sat b = D.flush c.ftz (decide (x < 0)) (D.round rm sat (decide (x < 0)) x.natAbs 0 false)) ∧
      (∀ k tg, cvtInt df = some (k, tg) →
        let least : Int := if tg then -2 ^ (k - 1) else 0
        let most : Int := if tg then 2 ^ (k - 1) - 1 else 2 ^ k - 1
        cvtElem sf df c rm sat b = ((BitVec.ofInt k (if sat then max least (min most x) else x)).toNat, 0)))

/-- R166: the special values of the special functions, with DZ and NV. -/
def Sys2Proof.Machine.SpecialValues : Prop :=
  ∀ F ∈ [fp32, fp16, bf16], ∀ (c : FCap) (b : Nat),
    let one : Nat := F.bias * 2 ^ F.fbits
    let nan : Nat × Flags := (F.canon, fNV)
    (∀ q op, F.rd c.daz b = .nan q → sfuElem op F c b = (F.canon, if q then fNV else 0)) ∧
    (∀ n e, F.rd c.daz b = .fin n 0 e →
      ∀ p ∈ [(SfuOp.rcp, F.infBits n, fDZ), (.rsq, F.infBits n, fDZ), (.ex2, one, 0), (.lg2, F.infBits true, fDZ), (.sin, F.zero n, 0),
          (.cos, one, 0), (.tanh, F.zero n, 0)],
        sfuElem p.1 F c b = p.2) ∧
    (F.rd c.daz b = .inf false →
      ∀ p ∈ [(SfuOp.rcp, F.zero false, 0), (.rsq, F.zero false, 0), (.ex2, F.infBits false, 0), (.lg2, F.infBits false, 0), (.sin, nan),
          (.cos, nan), (.tanh, one, 0)],
        sfuElem p.1 F c b = p.2) ∧
    (F.rd c.daz b = .inf true →
      ∀ p ∈ [(SfuOp.rcp, F.zero true, 0), (.rsq, nan), (.ex2, F.zero false, 0), (.lg2, nan), (.sin, nan), (.cos, nan),
          (.tanh, F.signBit true + one, 0)],
        sfuElem p.1 F c b = p.2) ∧
    (∀ m e, F.rd c.daz b = .fin true m e → m ≠ 0 → sfuElem .rsq F c b = nan ∧ sfuElem .lg2 F c b = nan)

/-- R165: RCP and RSQ lie within one ulp of the exact result, whatever the machine's own approximation (log entry 12), and
the exact cases of the special functions are exact; the others raise NX. TANH of a small input is the input (log entry 93); RCP's
exact case is judged in FP32 (log entry 92).
What the rules leave open there is the model's choice: log entries 12, 93. -/
def Sys2Proof.Machine.SpecialBounds : Prop :=
  ∀ F ∈ [fp32, fp16, bf16], ∀ (c : FCap) (b : Nat) (n : Bool) (m : Nat) (e : Int), F.rd c.daz b = .fin n m e → m ≠ 0 →
    let exact (n : Bool) (m : Nat) (e : Int) : Nat × Flags := F.flush c.ftz n (F.round .rne false n m e false)
    -- the value k × 2^q lies within one ulp of the number whose power p is 1/x, and which lies at 2^j
    let near (p k : Nat) (q j : Int) : Prop :=
      let u := max j (1 - (F.bias : Int)) - F.fbits
      let v := min q u
      let k' := k * 2 ^ (q - v).toNat
      let ulp := 2 ^ (u - v).toNat
      cmpFin (.fin false ((k' - ulp) ^ p * m) (p * v + e)) (.fin false 1 0) ≤ 0 ∧
        cmpFin (.fin false 1 0) (.fin false ((k' + ulp) ^ p * m) (p * v + e)) ≤ 0
    (∀ j : Int, c.ftz = false → cmpFin (.fin false m (e + j)) (.fin false 1 0) ≤ 0 → cmpFin (.fin false 1 0) (.fin false m (e + j + 1)) < 0 →
      ∀ s k q, F.value (sfuElem .rcp F c b).1 = .fin s k q → s = n ∧ near 1 k q j) ∧
    (∀ j : Int, c.ftz = false → n = false → cmpFin (.fin false m (e + 2 * j)) (.fin false 1 0) ≤ 0 →
      cmpFin (.fin false 1 0) (.fin false m (e + 2 * j + 2)) < 0 →
      ∀ s k q, F.value (sfuElem .rsq F c b).1 = .fin s k q → s = false ∧ near 2 k q j) ∧
    (∀ i : Nat, m = 2 ^ i →
      let j := e + i
      (-127 < -j → -j < 128 → sfuElem .rcp F c b = exact n 1 (-j)) ∧
      (n = false → j % 2 = 0 → sfuElem .rsq F c b = exact false 1 (-(j / 2))) ∧
      (n = false → sfuElem .lg2 F c b = exact (decide (j < 0)) j.natAbs 0)) ∧
    (∀ k : Int, -149 ≤ k → k ≤ 127 → cmpFin (.fin n m e) (.fin (decide (k < 0)) k.natAbs 0) = 0 → sfuElem .ex2 F c b = exact false 1 k) ∧
    (cmpFin (.fin false m e) (.fin false 1 (-12)) ≤ 0 → sfuElem .tanh F c b = ((exact n m e).1, (exact n m e).2 ||| fNX)) ∧
    (sfuElem .sin F c b).2 &&& fNX ≠ 0 ∧ (sfuElem .cos F c b).2 &&& fNX ≠ 0 ∧ (sfuElem .tanh F c b).2 &&& fNX ≠ 0 ∧
    ((∀ i : Nat, m ≠ 2 ^ i) → n = false →
      (sfuElem .rcp F c b).2 &&& fNX ≠ 0 ∧ (sfuElem .rsq F c b).2 &&& fNX ≠ 0 ∧ (sfuElem .lg2 F c b).2 &&& fNX ≠ 0)

/-- R165: in FP32 the other functions lie within the bound of the rule of the reference value that judges the machine's own
approximation (log entry 12), and all but EX2 are finite; beyond 256π a sine or cosine lies from −1 to 1. -/
def Sys2Proof.Machine.SpecialReference : Prop :=
  ∀ (c : FCap) (b : Nat) (n : Bool) (m : Nat) (e : Int), fp32.rd c.daz b = .fin n m e → m ≠ 0 → c.ftz = false →
    let far := decide ((256 * piFix : Nat) < fixAt 100 false m (min e 30))
    ∀ op ∈ [SfuOp.ex2, .lg2, .sin, .cos, .tanh], sfuExactCase op n m e = none → (op = .lg2 → n = false) →
      (op ≠ .ex2 → ∃ s k q, fp32.value (sfuElem op fp32 c b).1 = .fin s k q) ∧
      ∀ s k q, fp32.value (sfuElem op fp32 c b).1 = .fin s k q →
        if far = true ∧ (op = .sin ∨ op = .cos) then cmpFin (.fin false k q) (.fin false 1 0) ≤ 0
        else
          let r := sfuRef op n m e
          let half := cmpFin (.fin false 1 (-1)) (.fin false m e) ≤ 0 ∧ cmpFin (.fin false m e) (.fin false 2 0) ≤ 0
          let bound : Nat × Int :=
            if op = .sin ∨ op = .cos then (1, -21) else if op = .lg2 ∧ half then (1, -22) else (2, fp32.ulpExp r.2.1 r.2.2)
          let w := min (min q r.2.2) bound.2
          (scaleTo s k q w - scaleTo r.1 r.2.1 r.2.2 w).natAbs ≤ bound.1 * 2 ^ (bound.2 - w).toNat

/-- R82: a magnitude m × 2^e is rounded to a multiple k × 2^q by the rounding mode and its sign: downward and upward as the
mode says, to the nearest and in a tie to the even multiple; inexact exactly where it is no multiple. -/
def Sys2Proof.Machine.RoundingToAMultiple : Prop :=
  ∀ (rm : Rm) (neg : Bool) (m s : Nat) (e : Int),
    let r := quantize rm neg m e false (e + s)
    let k := r.1
    (r.2 = true ↔ m % 2 ^ s ≠ 0) ∧ k * 2 ^ s < m + 2 ^ s ∧ m < k * 2 ^ s + 2 ^ s ∧
    match rm with
    | .rtz => k * 2 ^ s ≤ m
    | .rdn => if neg then m ≤ k * 2 ^ s else k * 2 ^ s ≤ m
    | .rup => if neg then k * 2 ^ s ≤ m else m ≤ k * 2 ^ s
    | .rne => 2 * (k * 2 ^ s) ≤ 2 * m + 2 ^ s ∧ 2 * m ≤ 2 * (k * 2 ^ s) + 2 ^ s ∧
        (2 * (k * 2 ^ s) = 2 * m + 2 ^ s ∨ 2 * m = 2 * (k * 2 ^ s) + 2 ^ s → k % 2 = 0 ∨ s = 0)

/-- R74, R82: the value of every finite pattern of a format rounds to that pattern in every mode, without an exception. -/
def Sys2Proof.Machine.PatternsRoundToThemselves : Prop :=
  ∀ F ∈ [fp32, fp16, bf16, e5m2, e4m3, e2m1], ∀ (rm : Rm) (sat neg : Bool) (b m : Nat) (e : Int),
    b < 2 ^ F.width → F.value b = .fin neg m e →
    (F.round rm sat neg m e false).bits = b ∧ (F.round rm sat neg m e false).fl = 0

/-- R77 to R79, R171 to R175: BPACK makes one block of the values of the warp, a word of it to each lane; BUNPACK gives
each lane its element. Both need a tile of 32 lanes and take no arithmetic trap.
What the rules leave open there is the model's choice: log entries 91, 116. -/
def Sys2Proof.Machine.BlockForms : Prop :=
  ∀ (o : BlkForm) (s : State), 32 ≤ s.warp.tile →
    (Executes (.bpack o) s →
      let x := s.issueOf o.g none o.perm {}
      let r := bpackResult o x.act x.cx
      EndsWith (.bpack o) o.g s (s.modWarp fun w =>
        (w.onLanes x.act fun l y =>
          y.wV s.cur.front o.d.toNat (BitVec.ofNat 32 (blockWord (blkFmt o).width r.1 r.2.1 l))).raise
          s.cur.front (if x.act = 0 then 0 else r.2.2)) x.act) ∧
    (Executes (.bunpack o) s →
      let x := s.issueOf o.g none o.perm {}
      EndsWith (.bunpack o) o.g s (s.modWarp fun w =>
        (w.onLanes x.act fun l y =>
          y.wV s.cur.front o.d.toNat (BitVec.ofNat 32 (bunpackLane o (inSl s) x.cx l).1)).raise
          s.cur.front ((lanesOf x.act).foldl (fun f l => f ||| (bunpackLane o (inSl s) x.cx l).2) 0)) x.act)

/-- R77 to R79, R172, R173: the scale of a packed block is the least that holds its greatest finite magnitude; each element is
its value divided by the scale and rounded to nearest, an infinity the greatest finite, a NaN the canonical one, and a NaN among
E2M1 elements makes the block NaN; an inactive lane contributes +0. With MX the scale leaves as an E8M0 byte. Lane j holds its
elements from the low end, and the lane past them the scale. -/
def Sys2Proof.Machine.PackedBlocks : Prop :=
  ∀ (o : BlkForm) (act : Mask) (cx : RdCx),
    let F := blkFmt o
    let x (i : Nat) : FVal := if act.getLsbD i then fp32.rd (cx.w.fmode.getLsbD 3) (cx.srcA i o.a .f32) else .fin false 0 0
    let mx := o.blk.getLsbD 4
    let nanBlock : Prop := F.width = 4 ∧ ∃ i < 32, (x i).isNan = true
    let r := bpackResult o act cx
    let holds (E : Int) : Prop := ∀ i < 32, ∀ n m e, x i = .fin n m e →
      ∃ n' k q, F.value F.maxBits = .fin n' k q ∧ cmpFin (.fin false m e) (.fin false k (q + E)) ≤ 0
    r.2.1.length = 32 ∧
    (nanBlock → r.1 = (if mx then 0xFF else 0x200) ∧ ∀ i < 32, r.2.1.getD i 0 = 0) ∧
    (¬ nanBlock → ∃ E : Int, -511 ≤ E ∧ E ≤ 511 ∧ holds E ∧ (∀ E', -511 ≤ E' → holds E' → E ≤ E') ∧
      let y (i : Nat) : Nat := match x i with
        | .nan _ => F.canon
        | .inf n => F.maxOf n
        | .fin n m e => (F.round .rne false n m (e - E) false).bits
      (mx = false → r.1 = (BitVec.ofInt 10 E).toNat ∧ ∀ i < 32, r.2.1.getD i 0 = y i) ∧
      (mx = true → 127 < E → r.1 = 0xFF ∧ r.2.2 &&& fOF ≠ 0) ∧
      (mx = true → -127 ≤ E → E ≤ 127 → (r.1 : Int) = E + 127 ∧ ∀ i < 32, r.2.1.getD i 0 = y i) ∧
      (mx = true → E < -127 → r.1 = 0 ∧ ∀ i < 32, r.2.1.getD i 0 = match F.value (y i) with
        | .fin n m e => (F.round .rne false n m (e + E + 127) false).bits
        | _ => y i)) ∧
    (∀ j i, F.width ∈ [4, 8, 16] → i < 32 / F.width →
      blockWord F.width r.1 r.2.1 j / 2 ^ (F.width * i) % 2 ^ F.width =
        if j < F.width then r.2.1.getD (32 / F.width * j + i) 0 % 2 ^ F.width
        else if j = F.width then r.1 / 2 ^ (F.width * i) % 2 ^ F.width else 0)

/-- R77 to R79, R172, R174, R175: lane l receives element l of the block, times its scale and rounded to FP32 with FTZ; the NaN
scale and a NaN element give the canonical NaN, an infinity an infinity. The supervisor lane reads its own register for every
lane; which lanes outside the cluster are read is log entry 116. -/
def Sys2Proof.Machine.UnpackedBlocks : Prop :=
  ∀ (o : BlkForm) (cx : RdCx) (sl : Bool) (l : Nat), l < 32 → cx.perm = .none →
    let F := blkFmt o
    let w := F.width
    let word (j : Nat) : Nat := cx.fetchN 0 (l + 32 * j) (if sl then 0 else j) o.a .i32 1
    let X : Nat := word w % 2 ^ 8
    let nanScale := if o.blk.getLsbD 4 then X = 0xFF else word w % 2 ^ 10 = 0x200
    let E : Int := if o.blk.getLsbD 4 then (X : Int) - 127 else (BitVec.ofNat 10 (word w)).toInt
    let b : Nat := word (l * w / 32) / 2 ^ (w * (l % (32 / w))) % 2 ^ w
    (nanScale → bunpackLane o sl cx l = (0x7FC00000, 0)) ∧
    (¬ nanScale →
      (∀ q, F.value b = .nan q → bunpackLane o sl cx l = (0x7FC00000, 0)) ∧
      (∀ n, F.value b = .inf n → bunpackLane o sl cx l = (fp32.infBits n, 0)) ∧
      ∀ n m e, F.value b = .fin n m e →
        bunpackLane o sl cx l = fp32.flush (cx.w.fmode.getLsbD 2) n (fp32.round .rne false n m (e + E) false))

/-! ### Lanes and control -/

/-- R152: SHFL copies a register of the lane that each lane names. -/
def Sys2Proof.Machine.Shuffles : Prop :=
  ∀ (m : ShflMode) (o : WForm NoMod), MoveDoes (.shfl m o) o.g o.lit o.perm false o.d 1 fun cx l =>
    cx.fetchN 0 l (shflLane m cx.w.tile l (cx.srcB l o.b .i32)) o.a .i32 1

/-- R106, R152: the source lane of a permutation or shuffle is a lane of the reading lane's own tile; XOR modes are their
own inverse; a ring by y reaches the member y above, around the tile. -/
def Sys2Proof.Machine.LanesStayInTheirTile : Prop :=
  ∀ (k l y : Nat) (m : ShflMode) (p : Perm), k ≤ 5 → l < 32 →
    let t := 2 ^ k
    shflLane m t l y / t = l / t ∧ permLane t l p / t = l / t ∧
    shflLane .bfly t (shflLane .bfly t l y) y = l ∧ shflLane .ring t l y % t = (l + y) % t ∧
    shflLane .abs t l y % t = y % t

/-- R153: votes over the active lanes of the tile, to a predicate or a register. -/
def Sys2Proof.Machine.Votes : Prop :=
  ∀ o : WForm NoMod,
    let ones (x : Issue) (l : Nat) : List Nat := (tileOf x.cx.w.tile x.act l).filter fun m => x.cx.srcA m o.a .i32 != 0
    let pred (op : VoteOp) (f : List Nat → List Nat → Bool) : Prop :=
      Leaves (.vote op o) o.g o.lit o.perm fun x w =>
        pWrite o.d (fun _ l => f (tileOf x.cx.w.tile x.act l) (ones x l)) x w
    let reg (op : VoteOp) (f : Nat → Nat → List Nat → Nat) : Prop :=
      Leaves (.vote op o) o.g o.lit o.perm fun x w =>
        iWrite false o.d 1 (fun _ l => f x.cx.w.tile l (ones x l)) x w
    pred .and (fun all one => decide (∀ m ∈ all, m ∈ one)) ∧ pred .or (fun all one => decide (∃ m ∈ all, m ∈ one)) ∧
    pred .same (fun all one => decide (∀ m ∈ all, m ∈ one) || decide (∀ m ∈ all, m ∉ one)) ∧
    reg .mask (fun _ _ one => (maskOf one).toNat) ∧ reg .count (fun _ _ one => one.length) ∧
    reg .lowest (fun t l one => match one.head? with | some m => m - (l - l % t) | none => t)

/-- R154, R155: RDUX gives every active lane the combination over the active lanes of its tile; it takes no arithmetic
trap. -/
def Sys2Proof.Machine.Reductions : Prop :=
  (∀ (op : RduxIOp) (o : WForm IMod), Leaves (.rdux (.int op o)) o.g o.lit o.perm fun x w =>
    iWrite false o.d (IMod.kind o.m).regs (fun cx l =>
      let n := (IMod.kind o.m).elem.1
      mapElems n (IMod.kind o.m).elem.2 fun e =>
        IMod.cut o.m n (rduxInt op n ((tileOf cx.w.tile x.act l).map fun m =>
          iRead o.m.z n (elemOf n e (cx.srcA m o.a (IMod.kind o.m)))))) x w) ∧
  ∀ (op : RduxFOp) (o : WForm FMod), Leaves (.rdux (.flt op o)) o.g o.lit o.perm fun x w =>
    let n := (FMod.kind o.m).elem.1
    let c := FCap.ofFmode x.cx.w.fmode
    let r (l : Nat) : Nat × Flags := mapElemsF n (FMod.kind o.m).elem.2 fun e =>
      fRdux op (fmtOf o.m.fmt) c (rndMode c o.m.rnd) ((tileOf x.cx.w.tile x.act l).map fun m =>
        elemOf n e (x.cx.srcA m o.a (FMod.kind o.m)))
    (iWrite false o.d 1 (fun _ l => (r l).1) x w).raise x.cx.front
      ((lanesOf x.act).foldl (fun f l => f ||| (r l).2) 0)

/-- R154: the integer combinations: the sum, the least and the greatest of the elements, and their bits combined. -/
def Sys2Proof.Machine.ReductionValues : Prop :=
  ∀ (n : Nat) (x : Int) (xs : List Int),
    rduxInt .add n (x :: xs) = x + rduxInt .add n xs ∧
    (rduxInt .min n (x :: xs) ∈ x :: xs ∧ ∀ y ∈ x :: xs, rduxInt .min n (x :: xs) ≤ y) ∧
    (rduxInt .max n (x :: xs) ∈ x :: xs ∧ ∀ y ∈ x :: xs, y ≤ rduxInt .max n (x :: xs)) ∧
    ∀ j < n, let bits := (x :: xs).map fun y => (BitVec.ofInt n y).getLsbD j
      (BitVec.ofInt n (rduxInt .and n (x :: xs))).getLsbD j = bits.all id ∧
      (BitVec.ofInt n (rduxInt .or n (x :: xs))).getLsbD j = bits.any id ∧
      (BitVec.ofInt n (rduxInt .xor n (x :: xs))).getLsbD j = bits.foldl xor false

/-- R99, R142 to R144: branches, jumps and calls: where the active lanes go, the link, and the spin counter of a taken
backward branch. -/
def Sys2Proof.Machine.BranchesAndCalls : Prop :=
  (∀ (o : J96) (s : State), Executes (.bra o) s →
    EndsWith (.bra o) o.g s (s.jumped o.g true fun _ => s.cur.pc + o.disp.signExtend 63) 0) ∧
  (∀ (o : J32) (s : State), Executes (.braJ32 o) s →
    EndsWith (.braJ32 o) o.g s (s.jumped o.g true fun _ => s.cur.pc + o.disp.signExtend 63) 0) ∧
  ∀ (o : WForm NoMod) (s : State),
    let cx := s.rdCx (o.lit.getD 0) o.perm
    let reg (l : Nat) : BitVec 63 := BitVec.ofNat 63 (cx.srcA l o.a .i64 / 2)
    let link (len : Nat) (t : State) : State := t.modWarp fun w => w.onLanes (s.activeOf o.g) fun _ y =>
      y.wVs s.cur.front o.d.toNat 2 ((2 * s.cur.pc.toNat + len) % 2 ^ 64)
    (Executes (.call o) s → EndsWith (.call o) o.g s
      (link 12 (s.jumped o.g false fun _ => s.cur.pc + (o.lit.getD 0).signExtend 63)) 0) ∧
    (Executes (.callx o) s → EndsWith (.callx o) o.g s (link 8 (s.jumped o.g false reg)) 0) ∧
    (Executes (.jmpx o) s → EndsWith (.jmpx o) o.g s (s.jumped o.g true reg) 0) ∧
    (Executes (.ret o) s → EndsWith (.ret o) o.g s (s.jumped o.g true reg) 0)

/-- R99, R142: after a BRA the lanes of the cluster whose guard is true stand at the target, the others at the next
instruction. -/
def Sys2Proof.Machine.BranchTargets : Prop :=
  ∀ (o : J96) (s : State), Executes (.bra o) s → ∃ t, exec (.bra o) s = .next t ∧
    ∀ l ∈ lanesOf s.cur.cluster, (t.warp.lane l).pc =
      if l ∈ lanesOf (s.activeOf o.g) then s.cur.pc + o.disp.signExtend 63
      else (s.warp.lane l).pc + BitVec.ofNat 63 (s.cur.len / 2)

/-- R145 to R147: JOIN puts its lanes in the record of its address, opens one where none is open, and releases every
record that is then complete.
What the rules leave open there is the model's choice: log entry 90. -/
def Sys2Proof.Machine.JoinArrives : Prop :=
  ∀ (o : WForm NoMod) (s : State), Executes (.join o) s →
    let act := s.activeOf o.g
    let cx := s.rdCx (o.lit.getD 0) o.perm
    let m := BitVec.ofNat 32 (cx.srcA (lowLane act) o.a .i32)
    let t := cx.srcB (lowLane act) o.b .i32
    let fresh : JoinRec :=
      { mask := if m = 0 then BitVec.allOnes 32 else m, len := if o.lit.isSome then 12 else 8,
        deadline := if t = 0 then none else some (s.time + BitVec.ofNat 64 t) }
    let pc := s.cur.pc.toNat
    EndsWith (.join o) o.g s (if act = 0 then s else s.modWarp fun w =>
      ({ w with joins := if (find w.joins pc).isSome then w.joins else ins w.joins pc fresh }.onLanes act fun _ y =>
        { y with st := .waiting, wait := .join o.d }).joinCheck) 0

/-- R146, R148: a record is complete exactly where every lane of its mask is exited, is absent, or waits in it; then it is
released, and another stays as it is. -/
def Sys2Proof.Machine.JoinCompletes : Prop :=
  ∀ (w : Warp) (pc : Nat) (r : JoinRec),
    (w.joinDone pc r = true ↔ ∀ l < 32, r.mask.getLsbD l = true →
      (w.lane l).st = .exited ∨ (w.lane l).st = .absent ∨
        ((w.lane l).st = .waiting ∧ (∃ d, (w.lane l).wait = .join d) ∧ (w.lane l).pc.toNat = pc)) ∧
    ((w.joins.map (·.1)).Nodup → find w.joins pc = some r →
      find w.joinCheck.joins pc = (if w.joinDone pc r then none else some r) ∧
      (w.joinDone pc r = true → ∀ l < 32, w.waitsAt pc l = true → (w.joinCheck.lane l) = (w.joinRelease pc r.len true).lane l))

/-- R146: a record that closes lets every lane that waits in it go on at the next instruction, on its own front, with
P(D, l) as the cause of the closing says; no other lane changes. -/
def Sys2Proof.Machine.JoinRelease : Prop :=
  ∀ (w : Warp) (pc len : Nat) (x : Bool) (l : Nat),
    let y := w.lane l
    let z := (w.joinRelease pc len x).lane l
    (∀ d, l < 32 → w.waitsAt pc l = true → y.wait = .join d →
      z.st = .runnable ∧ z.wait = .none ∧ z.pc = y.pc + BitVec.ofNat 63 (len / 2) ∧ z.v = y.v ∧ z.sv = y.sv ∧
        z.p = (y.wP (frontOf y.sv) d.toNat x).p) ∧
    (w.waitsAt pc l = false → z = y) ∧ (w.joinRelease pc len x).joins = del w.joins pc

/-- R146: a record whose deadline has passed closes: with 0 where it is not complete, with 1 where it is; a tick closes, at
its end, those whose deadline has come by then.
What the rules leave open there is the model's choice: log entry 90. -/
def Sys2Proof.Machine.JoinTimesOut : Prop :=
  ∀ (w : Who) (addr : DWord) (s : State) (r : JoinRec) (d : DWord),
    let pc := addr.toNat / 2
    find (s.warpOf w).joins pc = some r → r.deadline = some d →
    (d < s.time → exec (.joinTimeout w addr) s =
      .next (s.modWarpOf w fun x => x.joinRelease pc r.len (x.joinDone pc r))) ∧
    (s.time ≤ d → exec (.joinTimeout w addr) s = .next s) ∧
    ∀ x : Warp, x.joins = [(pc, r)] →
      x.joinsExpire s.time = if d ≤ s.time then x.joinRelease pc r.len (x.joinDone pc r) else x

/-- R22, R36, R42, R148: EXIT makes the active lanes exited, which counts as an arrival in the warp's open join records (`joinCheck`,
of which `JoinCompletes` says what it does); exactly where no lane of the warp is left, its slot is given up; the supervisor lane
halts until an interrupt. -/
def Sys2Proof.Machine.ExitEnds : Prop :=
  ∀ (o : N32) (s : State), Executes (.exit o) s →
    (s.activeOf o.g = 0 → EndsWith (.exit o) o.g s s 0) ∧
    (∀ k, s.cur.who.ctx = .slot k → s.activeOf o.g ≠ 0 →
      let w := (s.warp.onLanes (s.activeOf o.g) fun _ y => { y with st := .exited, wait := .none }).joinCheck
      let t := s.modWarp fun _ => w
      ((∃ e ∈ w.lanes, e.2.st ≠ .exited ∧ e.2.st ≠ .absent) → EndsWith (.exit o) o.g s t 0) ∧
      ((∀ e ∈ w.lanes, e.2.st = .exited ∨ e.2.st = .absent) →
        EndsWith (.exit o) o.g s { t with backlog := s.backlog ++ [.warpSlotFree s.cur.who.core k] } 0)) ∧
    (s.cur.who.ctx = .sl → s.activeOf o.g ≠ 0 → EndsWith (.exit o) o.g s
      (s.modCore s.cur.who.core fun c => { c with sl := { c.sl with halt := true, exitHalt := true } }) (s.activeOf o.g))

/-- R31, R149: YIELD changes nothing but the program counters and makes the front's next issue a rotation issue from the
new PC of the cluster. -/
def Sys2Proof.Machine.YieldRotates : Prop :=
  ∀ (o : N32) (s : State), Executes (.yield o) s →
    EndsWith (.yield o) o.g s
      (if s.activeOf o.g = 0 ∨ s.cur.who.ctx = .sl then s
       else s.modWarp fun w => w.setFront s.cur.front
        { w.front s.cur.front with due := some (s.cur.pc + BitVec.ofNat 63 (s.cur.len / 2)) })
      (s.activeOf o.g)

/-! ### Traps -/

/-- R150: BRK, of major 0x39 and the N32 form, gives each active lane the breakpoint trap; the lanes whose guard is false
go past it. -/
def Obligations.BreakpointTraps : Prop :=
  (∀ (o : N32) (e : Encoded), encode (.brk o) = some e → e.bytes = 4 ∧ (Fields.ofBits e.bits).major = 0x39) ∧
  ∀ (o : N32) (s : State), Executes (.brk o) s →
    EndsWith (.brk o) o.g s (s.trapMask (s.activeOf o.g) (fun _ => ⟨0x05, 0⟩) fun _ => Tops.zero) 0 ∧
    (s.cur.who.ctx ≠ .sl → (s.cur.front = .user ∧ (s.core s.cur.who.core).tvec.getLsbD 0 = true) ∨ s.elog.en = false →
      ∃ t, exec (.brk o) s = .next t ∧ ∀ l ∈ lanesOf (s.idleOf o.g),
      (t.warp.lane l).pc = (s.warp.lane l).pc + BitVec.ofNat 63 (s.cur.len / 2))

/-- R112, R375 to R378: a user-state lane with EN = 1 enters the handler: its trap registers, its state and its PC. A lane that
runs may have results of the user front that are not written: the supervisor front notes it, is not free while one is
outstanding, and has them written before it issues. No other lane, warp or byte of memory changes. -/
def Obligations.TrapEntry : Prop :=
  ∀ (s : State) (tr : Trap) (k : Tops) (l n : Nat), s.cur.who.ctx = .slot n → s.cur.front = .user →
    (s.core s.cur.who.core).tvec.getLsbD 0 = true →
    let t := s.trapLane tr k l
    let y := t.warp.lane l
    y.heldTrap s tr k ∧ y.pc = (s.core s.cur.who.core).tvec.extractLsb' 1 63 ∧ y.sv = true ∧ y.st = .runnable ∧
      y.age = 0 ∧ t.warp.user.spin = 0 ∧
      t.warp.sup.entry = (if (s.warp.lane l).st = .runnable then s.warp.sup.entry ||| laneBit l else s.warp.sup.entry) ∧
      y.v = (s.warp.lane l).v ∧ y.p = (s.warp.lane l).p ∧
      (l < 32 → (s.warp.lane l).st = .runnable → (∃ m ∈ t.warp.user.loads, m.getLsbD l = true) → t.warp.frontFree .sup = false) ∧
      (l < 32 → (s.warp.lane l).st = .runnable → ∀ draw,
        (t.warp.settleEntry draw).sup.entry = 0 ∧ ∀ r, ((look zeroV ((t.warp.settleEntry draw).lane l).v r).opens.filter fun e => e.1 = .user) = []) ∧
      (∀ j, j ≠ l → t.warp.lane j = s.warp.lane j) ∧ (∀ w, w ≠ s.cur.who → t.warpOf w = s.warpOf w) ∧
      t = { s with cores := t.cores }

/-- R380, R395: a lane of a warp that enters no handler stops where it stands, its trap registers written, and the core
records CAUSE 0x20. -/
def Sys2Proof.Machine.TrapStopsTheLane : Prop :=
  ∀ (s : State) (tr : Trap) (k : Tops) (l n : Nat), s.cur.who.ctx = .slot n →
    (s.cur.front = .sup ∨ (s.core s.cur.who.core).tvec.getLsbD 0 = false) →
    ∃ y : Lane, y.heldTrap s tr k ∧ y.st = .waiting ∧ y.wait = .stopped ∧ y.pc = (s.warp.lane l).pc ∧
      y.sv = (s.warp.lane l).sv ∧ y.v = (s.warp.lane l).v ∧
      s.trapLane tr k l = (s.modWarp fun w => w.setLane l y).recordErr s.cur.who.core
        { cause := 0x20, sub := tr.cause, sev := .contained, unit := 0, lane := l, wid := s.warp.wid,
          task := s.warp.task, addr := s.cur.pc ++ 0#1 }

/-- R343, R381, R395: the supervisor lane traps through SLVEC with IH = 0, where it issues once its outstanding results
are written; with IH = 1 it halts where it stands, its trap registers as they were, with a record of CAUSE 0x24. -/
def Sys2Proof.Machine.SupervisorLaneTraps : Prop :=
  ∀ (s : State) (tr : Trap) (k : Tops) (l : Nat), s.cur.who.ctx = .sl →
    let n := s.cur.who.core
    let sl := (s.core n).sl
    let t := s.trapLane tr k l
    (sl.ih = false →
      ((t.core n).sl.warp.lane 0).heldTrap s tr k ∧ ((t.core n).sl.warp.lane 0).pc = sl.slvec.extractLsb' 1 63 ∧
        (t.core n).sl.ih = true ∧ (t.core n).sl.halt = false ∧
        (t.core n).sl.warp.sup.parked = sl.warp.outstanding .sup ∧ ((t.core n).sl.warp.lane 0).sv = (sl.warp.lane 0).sv ∧
        t = { s with cores := t.cores } ∧ ∀ m, m ≠ n → t.core m = s.core m) ∧
    (sl.ih = true →
      t = (s.setCore n { s.core n with sl := { sl with halt := true, exitHalt := false } }).recordErr n
        { cause := 0x24, sub := tr.cause, sev := .contained, unit := 5, lane := 0, wid := 0xFFFF, task := 0,
          addr := s.cur.pc ++ 0#1 })

/-- R120, R375: an encoding that is illegal within itself or for the warp's allocation traps in every lane of the
cluster, before guard, privilege and effect, with the lowest SUB that applies. So do values that a form refuses, whose sources
%top0 to %top2 keep: a tile below 32 lanes (blocks), .raw in arrival-rounded mode, a BINC off 16, a message past the registers.
What the rules leave open there is the model's choice: log entries 17, 85, 113. -/
def Sys2Proof.Machine.IllegalTraps : Prop :=
  ∀ (s : State) (sub : Nat),
    let lc : LegalCx := { v := s.warp.vAlloc, s := s.warp.sAlloc, sl := inSl s }
    let traps (i : Instr) (sw : Bool) (sub : Nat) (k : Nat → Tops) : Prop :=
      exec i s = .next (finish sw 0 (s.trapMask s.cur.cluster (fun _ => ⟨0x02, sub⟩) k))
    (∀ (i : Instr) (h : Shape), shapeOf i = some h → illegalSub lc i = some sub → sub ≤ 6 ∨ (∀ o, i ≠ .msend o) →
      traps i h.g.sw sub fun _ => Tops.zero) ∧
    (∀ o, illegalSub lc (.bpack o) = none → s.warp.tile < 32 →
      traps (.bpack o) o.g.sw 8 ((s.rdCx 0 o.perm).tops { a := some (o.a, .f32) })) ∧
    (∀ o, illegalSub lc (.bunpack o) = none → s.warp.tile < 32 →
      traps (.bunpack o) o.g.sw 8 ((s.rdCx 0 o.perm).tops { a := some (o.a, .i32) })) ∧
    (∀ o, illegalSub lc (.mread .raw o) = none → (accD ((s.rdCx 0 o.perm).rA o.ai.toNat)).fixed = false →
      traps (.mread .raw o) o.g.sw 8 ((s.rdCx 0 o.perm).tops { b := some (o.b, .i32) })) ∧
    (∀ o, illegalSub lc (.mloop o) = none → s.notNow (.mloop o) o.g o.tag.toNat true = false →
      (s.rdCx 0 .none).srcB (lowLane s.cur.cluster) o.b .i32 % 16 ≠ 0 →
      traps (.mloop o) o.g.sw 8 ((s.rdCx 0 .none).tops { a := some (o.a, .i32), b := some (o.b, .i32) })) ∧
    ∀ o c l, illegalSub lc (.msend o) = none → o.c = .v c → l ∈ lanesOf (s.activeOf o.g) →
      let cx := s.rdCx (o.lit.getD 0) o.perm
      s.warp.vAlloc < c.toNat + (8 * (cx.srcB l o.b .i32 / 2 ^ 8 % 8 + 1) + 3) / 4 →
      traps (.msend o) o.g.sw 6 (cx.tops { a := some (o.a, .i32), b := some (o.b, .i32), c := some (o.c, .i32) })

/-- R119: an unassigned encoding traps in every lane of the cluster: reserved length as trap 1, the others as illegal
instructions.
What the rules leave open there is the model's choice: log entry 113. -/
def Sys2Proof.Machine.UnassignedEncodings : Prop :=
  ∀ (sub : Option (Fin 4)) (s : State), exec (.unassignedEncoding sub) s =
    .next (finish false 0 (s.trapMask s.cur.cluster
      (fun _ => match sub with | none => ⟨0x01, 0⟩ | some k => ⟨0x02, k.val⟩) fun _ => Tops.zero))

/-- R119, R176, R177: IDIV, IREM and FDIV take the unimplemented-instruction trap in each active lane, whatever their
operands; that is their effect on this part. -/
def Sys2Proof.Machine.DivisionsTrap : Prop :=
  (∀ (o : WForm NoMod) (s : State), illegalSub { v := s.warp.vAlloc, s := s.warp.sAlloc, sl := inSl s } (.idiv o) = none →
    TrapsActive (.idiv o) o.g o.lit o.perm (wSrcs o (some (divKind o.c)) (some (divKind o.c)) none) ⟨0x04, 0⟩ s) ∧
  (∀ (o : WForm NoMod) (s : State), illegalSub { v := s.warp.vAlloc, s := s.warp.sAlloc, sl := inSl s } (.irem o) = none →
    TrapsActive (.irem o) o.g o.lit o.perm (wSrcs o (some (divKind o.c)) (some (divKind o.c)) none) ⟨0x04, 0⟩ s) ∧
  ∀ (o : WForm FMod) (s : State), illegalSub { v := s.warp.vAlloc, s := s.warp.sAlloc, sl := inSl s } (.fdiv o) = none →
    TrapsActive (.fdiv o) o.g o.lit o.perm (wSrcs o (some (FMod.kind o.m)) (some (FMod.kind o.m)) none) ⟨0x04, 0⟩ s

/-- R26, R118, R140, R262, R374: a privileged instruction in user state takes the privilege trap in its active lanes and has no
effect: SUB 1 for the supervisor's instructions, 3 for the shadow registers. -/
def Sys2Proof.Machine.PrivilegeTraps : Prop :=
  ∀ s : State, s.cur.front = .user →
    let lc : LegalCx := { v := s.warp.vAlloc, s := s.warp.sAlloc, sl := inSl s }
    (∀ o : N32, illegalSub lc (.tret o) = none → TrapsActive (.tret o) o.g none .none {} ⟨0x03, 1⟩ s) ∧
    (∀ c ∈ [Instr.sqtake, .sqreply, .fqtake, .fqresume, .tlbi, .tlbia, .tlbig, .cinv, .dstop, .dresume, .osave, .odrop],
      ∀ o : WForm NoMod, illegalSub lc (c o) = none → ∃ k, TrapsActive (c o) o.g o.lit o.perm k ⟨0x03, 1⟩ s) ∧
    (∀ c ∈ [Instr.xget, .xput], ∀ o : WForm NoMod, illegalSub lc (c o) = none →
      ∃ k, TrapsActive (c o) o.g o.lit o.perm k ⟨0x03, 3⟩ s)

/-- R262: TRET, privileged, of major 0x74 and the N32 form, takes the PC from %tpc; a lane of a warp goes to user state on
the user front, its age reset; the supervisor lane stays in supervisor state. A %tpc with open writes gives one of its values. -/
def Obligations.TrapReturn : Prop :=
  (∀ o : N32, privSub (.tret o) = some 1) ∧
  (∀ (o : N32) (e : Encoded), encode (.tret o) = some e → e.bytes = 4 ∧ (Fields.ofBits e.bits).major = 0x74) ∧
  ∀ (o : N32) (s : State), Executes (.tret o) s →
    (∀ n, s.cur.who.ctx = .slot n → ∃ t, exec (.tret o) s = .next t ∧
      ∀ l ∈ lanesOf (s.activeOf o.g), let y := s.warp.lane l
        ∃ x, (x = y.tpc.val ∨ x ∈ y.tpc.opens.map (·.2)) ∧
          (t.warp.lane l).pc = x.extractLsb' 1 63 ∧ (t.warp.lane l).sv = false ∧ (t.warp.lane l).st = .runnable ∧ (t.warp.lane l).age = 0) ∧
    (s.cur.who.ctx = .sl → s.activeOf o.g ≠ 0 → (s.activeOf o.g).getLsbD 0 = true → ∃ t, exec (.tret o) s = .next t ∧
      (t.core s.cur.who.core).sl.ih = false ∧
      ∃ x, (x = (s.warp.lane 0).tpc.val ∨ x ∈ (s.warp.lane 0).tpc.opens.map (·.2)) ∧
        (t.warp.lane 0).pc = x.extractLsb' 1 63 ∧ (t.warp.lane 0).sv = (s.warp.lane 0).sv)

/-- R64, R343: the supervisor lane of core n takes an admitted interrupt: where it goes, what its trap registers hold,
and that no bit of %ipend clears; without the conditions nothing happens. -/
def Obligations.InterruptEntry : Prop :=
  ∀ (s : State) (n j : Nat),
    let sl := (s.core n).sl
    let adm := s.ipend n &&& (s.core n).imask
    (sl.ih = false → sl.started = true → adm ≠ 0 → (sl.halt = true → sl.exitHalt = true) →
      (sl.warp.lane 0).st = .runnable → sl.warp.sup.hold = .none → sl.warp.outstanding .sup = false →
      j < 32 → adm.getLsbD j = true → (∀ i < j, adm.getLsbD i = false) →
      ∃ t, exec (.interruptEntry n) s = .next t ∧
        let z := (t.core n).sl
        (z.warp.lane 0).pc = sl.slvec.extractLsb' 1 63 ∧ z.ih = true ∧ z.halt = false ∧ (z.warp.lane 0).st = .runnable ∧
        (∀ draw k, (z.warp.lane 0).tpc.read draw k = (sl.warp.lane 0).pc ++ 0#1 ∧
          (z.warp.lane 0).tcause.read draw k = BitVec.ofNat 32 (j * 256 + 0x40)) ∧
        (t.core n).ipendEdge = (s.core n).ipendEdge ∧ (∀ m, m ≠ n → t.core m = s.core m) ∧
        t = { s with cores := t.cores, draw := s.draw + 1 }) ∧
    (sl.ih = true ∨ adm = 0 ∨ sl.started = false ∨ sl.warp.outstanding .sup = true → exec (.interruptEntry n) s = .next { s with draw := s.draw + 1 })

/-- R394, R395: an error loads ESTAT, EADDR and ETASK where none is held or the held one is less severe, else it only sets
OVR; it always counts: a corrected one in CORR, any other in SERIOUS, by 1 up to the greatest number. -/
def Sys2Proof.Machine.ErrorRegisters : Prop :=
  ∀ (c : Core) (e : CoreErr),
    let t := c.recordErr e
    (c.estat.getLsbD 63 = false → t.estat = e.estat (c.estat.getLsbD 62) ∧ t.eaddr = e.addr ∧ t.etask = e.task) ∧
    (c.estat.getLsbD 63 = true → (c.estat.extractLsb' 60 2).toNat < e.sev.code →
      t.estat = e.estat true ∧ t.eaddr = e.addr ∧ t.etask = e.task) ∧
    (c.estat.getLsbD 63 = true → e.sev.code ≤ (c.estat.extractLsb' 60 2).toNat →
      t.estat = c.estat ||| 0x4000000000000000 ∧ t.eaddr = c.eaddr ∧ t.etask = c.etask) ∧
    (let serious := t.ecnt.toNat / 2 ^ 32
     let corr := t.ecnt.toNat % 2 ^ 32
     if e.sev = .corrected then serious = c.ecnt.toNat / 2 ^ 32 ∧ corr = min (c.ecnt.toNat % 2 ^ 32 + 1) (2 ^ 32 - 1)
     else serious = min (c.ecnt.toNat / 2 ^ 32 + 1) (2 ^ 32 - 1) ∧ corr = c.ecnt.toNat % 2 ^ 32) ∧
    t = { c with estat := t.estat, eaddr := t.eaddr, etask := t.etask, ecnt := t.ecnt }

/-! ### Memory -/

/-- R184, R185, R188, R193, R194, R196 to R199, R245: loads, stores, LDT, DISCARD, DRIFT and REDQ act lane by lane, in ascending
order, after the release they ask for; where no lane stops, all go past the instruction, and one that writes registers has a
result due. -/
def Sys2Proof.Machine.MemoryLanes : Prop :=
  ∀ s : State,
    (∀ f (o : MForm MMod), let cx := s.rdCx 0 .none
      (Executes (.ld f o) s → LanesDo (.ld f o) o.g s s (loadLane false f o cx (s.ax (ordAcq o.m.ord))) true) ∧
      (Executes (.lds f o) s → LanesDo (.lds f o) o.g s s (loadLane true f o cx (s.ax (ordAcq o.m.ord))) true) ∧
      (Executes (.discard o) s → s.afterRelease false o.m o.g fun s₁ =>
        LanesDo (.discard o) o.g s s₁ (discardLane o cx (s₁.ax false)) false)) ∧
    (∀ f (o : MForm MMod), let cx := s.rdCx 0 .none
      (Executes (.st f o) s → s.afterRelease false o.m o.g fun s₁ =>
        LanesDo (.st f o) o.g s s₁ (storeLane false f o cx (s₁.ax false)) false) ∧
      (Executes (.sts f o) s → s.afterRelease false o.m o.g fun s₁ =>
        LanesDo (.sts f o) o.g s s₁ (storeLane true f o cx (s₁.ax false)) false)) ∧
    (∀ o : LdtForm, let cx := s.rdCx 0 o.perm
      Executes (.ldt o) s → s.activeOf o.g ≠ 0 → s.ldtBad (tileD (cx.rT o.ti.toNat)) = none →
        LanesDo (.ldt o) o.g s s (ldtLane o (tileD (cx.rT o.ti.toNat)) cx (s.ax false)) true) ∧
    ∀ o : MForm NoMod, let cx := s.rdCx 0 .none
      (Executes (.driftP o) s → LanesDo (.driftP o) o.g s s (driftLane 0 o cx (s.ax false)) true) ∧
      (Executes (.driftD o) s → LanesDo (.driftD o) o.g s s (driftLane 1 o cx (s.ax false)) true) ∧
      (Executes (.driftQ o) s → LanesDo (.driftQ o) o.g s s (driftLane 2 o cx (s.ax false)) true)

/-- R105, R179, R184, R269: LD of aligned physical addresses from this device's DRAM, none of it poisoned, by a core that keeps no copies and reaches the home: each active lane receives the bytes
at its address as the home holds them, extended as the format says; no byte of memory changes. -/
def Sys2Proof.Machine.LoadFromDram : Prop :=
  ∀ (f : LdFmt) (o : MForm MMod) (s : State), Executes (.ld f o) s → s.plainSpace → s.poison = [] →
    (s.core s.cur.who.core).l1 = [] →
    let addr (l : Nat) : Nat := (s.rdCx 0 .none).va o.a (moffVal o.off) l
    (∀ l ∈ lanesOf (s.activeOf o.g), addr l % LdFmt.size f = 0 ∧ s.dramAt (addr l) (LdFmt.size f) ∧
      s.linked s.cur.who.core (addr l) (LdFmt.size f)) →
    ∃ t, exec (.ld f o) s = .next t ∧ t.mem = s.mem ∧ (∀ pa, s.dramAt pa 1 → t.held pa = s.held pa) ∧
      (∀ l ∈ lanesOf (s.activeOf o.g), ∀ j < LdFmt.regs f,
        look zeroV (t.warp.lane l).v (o.d.toNat + j) =
          Cell.write s.cur.front
            (BitVec.ofNat 32 (ldValue f (ofBytes ((List.range (LdFmt.size f)).map fun i => s.held (addr l + i))) / 2 ^ (32 * j)))
            (look zeroV (s.warp.lane l).v (o.d.toNat + j))) ∧
      (o.g.sw = false → s.onlyWrites t fun l r =>
        l ∈ lanesOf (s.activeOf o.g) ∧ o.d.toNat ≤ r ∧ r < o.d.toNat + LdFmt.regs f)

/-- R105, R179, R183, R185, R269: ST to aligned physical addresses of this device's DRAM, whose home the core reaches: the bytes at the addresses of the active lanes are those of their
sources, of the highest lane where they meet; every other byte of the device's DRAM reads as before. -/
def Sys2Proof.Machine.StoreToDram : Prop :=
  ∀ (f : StFmt) (o : MForm MMod) (s : State), Executes (.st f o) s → s.plainSpace →
    let cx := s.rdCx 0 .none
    let addr (l : Nat) : Nat := cx.va o.a (moffVal o.off) l
    let n := StFmt.size f
    (∀ l ∈ lanesOf (s.activeOf o.g), addr l % n = 0 ∧ s.dramAt (addr l) n ∧
      s.linked s.cur.who.core (addr l) n) →
    ∃ t, exec (.st f o) s = .next t ∧
      (∀ pa, s.dramAt pa 1 → (∀ l ∈ lanesOf (s.activeOf o.g), pa < addr l ∨ addr l + n ≤ pa) → t.held pa = s.held pa) ∧
      (∀ l ∈ lanesOf (s.activeOf o.g), ∀ i < n,
        (∀ m ∈ lanesOf (s.activeOf o.g), l < m → addr l + i < addr m ∨ addr m + n ≤ addr l + i) →
        t.held (addr l + i) = (storeData cx l o.b (StFmt.regs f) n).getD i 0) ∧
      (o.g.sw = false → s.onlyWrites t fun _ _ => False) ∧
      ∀ l ∈ lanesOf s.cur.cluster, (t.warp.lane l).pc = (s.warp.lane l).pc + BitVec.ofNat 63 (s.cur.len / 2)

/-- R183, R188, R276: LDS and STS of aligned offsets within the bytes of the task, on a core without windows: they read and write the stash at the
task's base plus the offset, and nothing else of it; where lanes store to one byte the highest one's stays. -/
def Sys2Proof.Machine.StashAccess : Prop :=
  ∀ (o : MForm MMod) (s : State),
    let c := s.core s.cur.who.core
    let run := c.run s.warp.task
    let cx := s.rdCx 0 .none
    let off (l : Nat) : Nat := cx.va o.a (moffVal o.off) l % 2 ^ 32
    c.windows = [] → c.stashPoison = [] →
    (∀ f, Executes (.lds f o) s →
      (∀ l ∈ lanesOf (s.activeOf o.g), off l % LdFmt.size f = 0 ∧ off l + LdFmt.size f ≤ run.size) →
      ∃ t, exec (.lds f o) s = .next t ∧ (t.core s.cur.who.core).stash = c.stash ∧ t.mem = s.mem ∧ t.slices = s.slices ∧
        (∀ l ∈ lanesOf (s.activeOf o.g), ∀ j < LdFmt.regs f,
          look zeroV (t.warp.lane l).v (o.d.toNat + j) =
            Cell.write s.cur.front
              (BitVec.ofNat 32 (ldValue f (ofBytes (getBytes c.stash (run.base + off l) (LdFmt.size f))) / 2 ^ (32 * j)))
              (look zeroV (s.warp.lane l).v (o.d.toNat + j))) ∧
        (o.g.sw = false → s.onlyWrites t fun l r =>
          l ∈ lanesOf (s.activeOf o.g) ∧ o.d.toNat ≤ r ∧ r < o.d.toNat + LdFmt.regs f)) ∧
    ∀ f, Executes (.sts f o) s →
      (∀ l ∈ lanesOf (s.activeOf o.g), off l % StFmt.size f = 0 ∧ off l + StFmt.size f ≤ run.size) →
      ∃ t, exec (.sts f o) s = .next t ∧ t.mem = s.mem ∧ t.slices = s.slices ∧
        (∀ l ∈ lanesOf (s.activeOf o.g), ∀ i < StFmt.size f,
          (∀ m ∈ lanesOf (s.activeOf o.g), l < m → off l + i < off m ∨ off m + StFmt.size f ≤ off l + i) →
          look 0 (t.core s.cur.who.core).stash (run.base + off l + i) =
            (storeData cx l o.b (StFmt.regs f) (StFmt.size f)).getD i 0) ∧
        (o.g.sw = false → s.onlyWrites t fun _ _ => False) ∧
        ∀ q, (∀ l ∈ lanesOf (s.activeOf o.g), q < run.base + off l ∨ run.base + off l + StFmt.size f ≤ q) →
          look 0 (t.core s.cur.who.core).stash q = look 0 c.stash q

/-- R189, R190: the window that STMAP's operands describe, and what they must satisfy. -/
def Sys2Proof.Machine.WindowFields : Prop :=
  ∀ (c : Core) (w : Warp) (wva ctl len : Nat) (x : Window), c.windowFor w wva ctl len = .ok x →
    let soff := ctl % 2 ^ 21
    x.task = w.task ∧ x.wva = wva ∧ x.len = len ∧ x.soff = soff ∧ x.sws = ctl / 2 ^ 27 % 32 ∧ x.sww = ctl / 2 ^ 24 % 8 ∧
      x.entries = [] ∧ wva % 128 = 0 ∧ len % 4096 = 0 ∧ 4096 ≤ len ∧ soff % 4096 = 0 ∧ soff + len ≤ (c.run w.task).size ∧
      x.sww ≤ 4 ∧ (x.sww = 0 ∨ 8 ≤ x.sws ∧ x.sws + x.sww ≤ 21) ∧
      (x.grp = if ctl / 2 ^ 23 % 2 = 1 then some (w.groupId (ctl / 2 ^ 21 % 4)) else none)

/-- R189, R192, R397: STMAP installs the window its operands describe after removing the task's windows that it overlaps; a
seventeenth takes the trap with SUB 6, operands that describe none the trap with their SUB, and nothing is installed. STUNMAP
removes a window. Both wait for a way to the homes of the bytes they send there. -/
def Sys2Proof.Machine.WindowInstructions : Prop :=
  ∀ (o : WForm NoMod) (s : State),
    let n := s.cur.who.core
    let act := s.activeOf o.g
    let cx := s.rdCx (o.lit.getD 0) o.perm
    let l := lowLane act
    let wins := (s.core n).windows
    let traps (i : Instr) (k : Nat) : Prop := s.cur.who.ctx ≠ .sl → s.cur.front = .user → (s.core n).tvec.getLsbD 0 = true →
      ∃ t, exec i s = .next t ∧ (t.core n).windows = wins ∧
        ∀ m ∈ lanesOf act, (∃ q, (t.warp.lane m).heldTrap s ⟨0x12, k⟩ q) ∧ (t.warp.lane m).pc = (s.core n).tvec.extractLsb' 1 63
    (Executes (.stmap o) s → act ≠ 0 →
      let r := (s.core n).windowFor s.warp (cx.srcA l o.a .i64) (cx.srcB l o.b .i32) (cx.srcC l o.c .i32)
      (∀ k, r = .error k → traps (.stmap o) k) ∧
      ∀ x, r = .ok x →
        let mine := wins.filter fun y => y.task == x.task
        let old := mine.filter fun y => y.overlaps x
        (16 ≤ mine.length - old.length → traps (.stmap o) 6) ∧
        (mine.length - old.length < 16 → s.backCut n old = false →
          EndsWith (.stmap o) o.g s
            ((old.foldl (fun s y => s.unmap n y) s).modCore n fun c => { c with windows := c.windows ++ [x] }) act)) ∧
    (Executes (.stunmap o) s → act ≠ 0 →
      let r := (s.core n).window s.warp.task (cx.srcB l o.b .i32 % 2 ^ 21)
      (r = none → EndsWith (.stunmap o) o.g s s act) ∧
      ∀ w, r = some w → s.backCut n [w] = false → EndsWith (.stunmap o) o.g s (s.unmap n w) act)

/-- R191, R192, R306: a window that is written back leaves its dirty bytes at the home of their lines, from where they stood
in the stash, and no other byte of the device's memory changes; one that is removed is written back and gone. -/
def Sys2Proof.Machine.WindowsGoHome : Prop :=
  ∀ (s : State) (n : Nat) (x : Window), s.soleWindow n x →
    let home (t : State) : Prop :=
      (∀ e ∈ x.entries, ∀ d ∈ e.2.dirty, t.held (e.2.line * 128 + d.1) = (s.core n).entryByte x e.1 d.1) ∧
      ∀ pa, s.dramAt pa 1 → (∀ e ∈ x.entries, ∀ d ∈ e.2.dirty, pa ≠ e.2.line * 128 + d.1) → t.held pa = s.held pa
    s.backCut n [x] = false ∧ home (s.backWindow n x) ∧ home (s.unmap n x) ∧ ((s.unmap n x).core n).windows = [] ∧
      ∀ y ∈ ((s.backWindow n x).core n).windows, y.task = x.task ∧ y.soff = x.soff ∧ ∀ e ∈ y.entries, e.2.dirty = []

/-- R192, R200, R306, R419: what a release does: nothing without an active lane, at warp scope, or at plain scope where plain
is not the device's; else the windows that serve the warp are written back, unless a parcel that their bytes go to may not be
reached. FENCE does no more, with acquire order too (log entry 74). -/
def Sys2Proof.Machine.Releases : Prop :=
  ∀ s : State, let n := s.cur.who.core
    let xs := (s.core n).windows.filter fun x => x.serves s.warp
    (∀ dev sc rel act, rel = false ∨ act = 0 ∨ sc = .warp ∨ (sc = .plain ∧ dev = false) → s.release dev sc rel act = (none, s)) ∧
    (∀ dev sc act, act ≠ 0 → sc ≠ .warp → (sc ≠ .plain ∨ dev = true) →
      ((∀ pl ∈ s.dirtyLines xs, s.barred (pl * 128) 128 = none) → s.backCut n xs = false →
        s.release dev sc true act = (none, xs.foldl (fun t x => t.backWindow n x) s)) ∧
      (∀ pl k, pl ∈ s.dirtyLines xs → s.barred (pl * 128) 128 = some k → ∃ j, (s.release dev sc true act).1 = some (.trap ⟨0x14, j⟩))) ∧
    ∀ o : FenceForm, Executes (.fence o) s → ∀ s₁,
      s.release false o.m.scope (ordRel o.m.ord || ordAcq o.m.ord) (s.activeOf o.g) = (none, s₁) →
      EndsWith (.fence o) o.g s s₁ (s.activeOf o.g)

/-- R195: PREF acts lane by lane and writes nothing; where a lane's address is memory of this device that the core reaches, the
home slice holds the line after it, for the L1 level the core's L1 too, where it caches; no byte changes. -/
def Sys2Proof.Machine.Prefetches : Prop :=
  (∀ (lv : PrefLevel) (o : MForm NoMod) (s : State), Executes (.pref lv o) s →
    EndsWith (.pref lv o) o.g s ((lanesOf (s.activeOf o.g)).foldl (fun t l =>
      t.prefetch (s.ax false) (lv = .l1) ((s.rdCx 0 .none).va o.a (moffVal o.off) l)) s) (s.activeOf o.g)) ∧
  ∀ (s : State) (l1 : Bool) (va : Nat), s.plainSpace → s.dramAt va 1 → s.linked s.cur.who.core va 1 →
    let n := s.cur.who.core
    let t := s.prefetch (s.ax false) l1 va
    (l1 = false ∨ (s.core n).waymask ≠ 0xFFF → ∃ x, find (t.slice (t.homeSlice (va / 128))).lines (va / 128) = some x ∧
      (l1 = true → ∃ y, find (t.core n).l1 (va / 128) = some y ∧ y.data = x.data)) ∧
    ∀ pa, s.dramAt pa 1 → t.held pa = s.held pa

/-- R110, R111, R378: a result of the lanes m that returns leaves one fewer outstanding; the last one of a parked front ends
its wait with every write of the front settled, and the supervisor front is free of lanes that entered a handler once no
result of theirs is outstanding.
What the rules leave open there is the model's choice: log entry 74. -/
def Sys2Proof.Machine.ResultsReturn : Prop :=
  ∀ (w : Who) (f : Front) (m : Mask) (s : State),
    let x := (s.warpOf w).front f
    (m ∉ x.loads → exec (.loadDataReturn w ⟨f, m⟩) s = .next s) ∧
    (m ∈ x.loads → ∃ t, exec (.loadDataReturn w ⟨f, m⟩) s = .next t ∧
      let y := (t.warpOf w).front f
      y.loads = x.loads.erase m ∧ t.mem = s.mem ∧ t.slices = s.slices ∧ (∀ v, v ≠ w → t.warpOf v = s.warpOf v) ∧
      ((t.warpOf w).outstanding f = true → y.parked = x.parked) ∧
      ((t.warpOf w).outstanding f = false → y.parked = false ∧
        (x.parked = true → ∀ l i, (look zeroV ((t.warpOf w).lane l).v i).opens.all fun e => e.1 ≠ f)) ∧
      (t.warpOf w).sup.entry = (s.warpOf w).sup.entry ∧
      ((∀ k ∈ (t.warpOf w).user.loads, k &&& (t.warpOf w).sup.entry = 0) → (t.warpOf w).frontLanes .sup ≠ 0 →
        (t.warpOf w).stopping = false → (t.warpOf w).sup.hold = .none → (t.warpOf w).sup.parked = false →
        (t.warpOf w).frontFree .sup = true))

/-! ### Atomics, queues, waits -/

/-- R202, R209, R211, R214, R245: ATOM, ENQ, DEQ, WAKEV and REDQ act lane by lane after their release, and give each lane its
result; WAITV leaves a lane waiting or gives it its status. -/
def Sys2Proof.Machine.AtomicLanes : Prop :=
  ∀ s : State,
    (∀ op (o : AForm), Executes (.atom op o) s →
      s.afterRelease true o.m o.g fun s₁ =>
        LanesDo (.atom op o) o.g s s₁ (atomLane op o (s.rdCx 0 .none) (s₁.ax (ordAcq o.m.ord))) true) ∧
    (∀ o : MForm MMod, let cx := s.rdCx 0 .none
      (Executes (.enq o) s → s.afterRelease true o.m o.g fun s₁ => LanesDo (.enq o) o.g s s₁ (ringLane o true cx (s₁.ax (ordAcq o.m.ord))) true) ∧
      (Executes (.deq o) s → s.afterRelease true o.m o.g fun s₁ => LanesDo (.deq o) o.g s s₁ (ringLane o false cx (s₁.ax (ordAcq o.m.ord))) true) ∧
      (Executes (.wakev o) s → s.afterRelease true o.m o.g fun s₁ => LanesDo (.wakev o) o.g s s₁ (wakevLane o cx (s₁.ax false)) true)) ∧
    (∀ o : AForm, Executes (.waitv o) s → ∀ t,
      lanesRun (waitvLane o (s.rdCx 0 .none) (s.ax (ordAcq o.m.ord))) (lanesOf (s.activeOf o.g)) s = some t →
      let t₁ := t.fqFlush s.cur.who.core (s.core s.cur.who.core).fqCount
      EndsWith (.waitv o) o.g s (t₁.resultDue (t₁.stillRun (s.activeOf o.g))) (t₁.stillRun (s.activeOf o.g))) ∧
    ∀ f (o : MForm NoMod), Executes (.redq f o) s →
      LanesDo (.redq f o) o.g s s (redqLane f o (s.rdCx 0 .none) (s.ax false)) false

/-- R202, R282: the value an atomic writes, on numbers of 32 or 64 bits; CAS writes only where the comparison holds. -/
def Sys2Proof.Machine.AtomicValues : Prop :=
  ∀ (ty : Ty) (x y z : Nat),
    let n := 32 * Ty.regs ty
    let a := BitVec.ofNat n x
    let b := BitVec.ofNat n y
    x < 2 ^ n → y < 2 ^ n → z < 2 ^ n →
    let less (p q : BitVec n) : Bool := if ty = .s32 ∨ ty = .s64 then p.slt q else p.ult q
    atomNew .add ty x y z = some (a + b).toNat ∧ atomNew .and ty x y z = some (a &&& b).toNat ∧
    atomNew .or ty x y z = some (a ||| b).toNat ∧ atomNew .xor ty x y z = some (a ^^^ b).toNat ∧
    atomNew .exch ty x y z = some y ∧ atomNew .cas ty x y z = (if a = b then some z else none) ∧
    atomNew .min ty x y z = some (if less b a then y else x) ∧ atomNew .max ty x y z = some (if less a b then y else x)

/-- R180, R202, R203, R374: an atomic of a lane on this device's DRAM answers the old value and leaves the new one at the home, and no
other byte changes; a misaligned one stops with SUB 2 or 3 and changes nothing. -/
def Sys2Proof.Machine.AtomicOnDram : Prop :=
  ∀ (s : State) (op : AtomOp) (ty : Ty) (va y z : Nat) (acq : Bool),
    let k := 4 * Ty.regs ty
    (va % k ≠ 0 → s.atomic (s.ax acq) op ty va y z = (.error (.trap ⟨0x09, if k = 4 then 2 else 3⟩), s)) ∧
    (va % k = 0 → s.plainSpace → s.poison = [] → s.dramAt va k → s.linked s.cur.who.core va k →
      let old := ofBytes ((List.range k).map fun i => s.held (va + i))
      let r := s.atomic (s.ax acq) op ty va y z
      r.1 = .ok old ∧
      (∀ i < k, r.2.held (va + i) = (toBytes k ((atomNew op ty old y z).getD old)).getD i 0) ∧
      ∀ pa, s.dramAt pa 1 → pa < va ∨ va + k ≤ pa → r.2.held pa = s.held pa)

/-- R207 to R210: the statuses of ENQ and DEQ on a ring control block in DRAM: 3 where it is malformed, 1 where the ring is
full, 2 where it is empty, in which cases no byte changes; else, where no entry of the Gazetteer waits, 0: ENQ leaves its
item in the slot of the tail and counts the tail up; DEQ answers the item of the slot of the head and counts the head up. -/
def Sys2Proof.Machine.RingOutcomes : Prop :=
  ∀ (s : State) (va : Nat) (rel : Bool) (item : Option Nat), va % 32 = 0 → s.plainSpace → s.poison = [] → s.dramAt va 32 →
    s.linked s.cur.who.core va 32 →
    let r := rcbOf ((List.range 32).map fun i => s.held (va + i))
    let out := s.ring (s.ax true) rel va item
    let there (a : Nat) : Prop := s.dramAt a 8 ∧ s.linked s.cur.who.core a 8
    let same : Prop := ∀ pa, s.dramAt pa 1 → out.2.held pa = s.held pa
    (r.ok = false → out.1 = .ok ⟨3, 0⟩ ∧ same) ∧
    (r.ok = true → item = none → r.used = 0 → out.1 = .ok ⟨2, 0⟩ ∧ same) ∧
    (∀ v, r.ok = true → item = some v → r.used = 2 ^ r.log → out.1 = .ok ⟨1, 0⟩ ∧ same) ∧
    (∀ v, s.gaz = [] → r.ok = true → item = some v → r.used < 2 ^ r.log → there (r.slot r.tail) →
      (r.slot r.tail + 8 ≤ va ∨ va + 32 ≤ r.slot r.tail) →
      out.1 = .ok ⟨0, 0⟩ ∧ (∀ i < 8, out.2.held (r.slot r.tail + i) = (toBytes 8 v).getD i 0) ∧
      (∀ i < 4, out.2.held (va + 12 + i) = (toBytes 4 (r.tail + 1)).getD i 0) ∧
      ∀ pa, s.dramAt pa 1 → (pa < r.slot r.tail ∨ r.slot r.tail + 8 ≤ pa) → (pa < va + 12 ∨ va + 16 ≤ pa) →
        out.2.held pa = s.held pa) ∧
    (s.gaz = [] → r.ok = true → item = none → 0 < r.used → there (r.slot r.head) →
      out.1 = .ok ⟨0, ofBytes ((List.range 8).map fun i => s.held (r.slot r.head + i))⟩ ∧
      (∀ i < 4, out.2.held (va + 8 + i) = (toBytes 4 (r.head + 1)).getD i 0) ∧
      ∀ pa, s.dramAt pa 1 → (pa < va + 8 ∨ va + 12 ≤ pa) → out.2.held pa = s.held pa)

/-- R211 to R213, R349, R350: what WAITV gives a lane, once its word is read: status 1 where it differs, 2 where the deadline
has passed; else it joins the entry that its warp has on the key, or a new one of the word's die; status 4, and no entry,
where all 32,768 of the die are taken and the warp has none on the key. -/
def Sys2Proof.Machine.WaitOutcomes : Prop :=
  ∀ (s : State) (o : AForm) (l va y : Nat) (deadline : DWord), va % (4 * Ty.regs o.ty) = 0 → s.plainSpace → s.poison = [] →
    s.dramAt va (4 * Ty.regs o.ty) → s.linked s.cur.who.core va (4 * Ty.regs o.ty) →
    let x := ofBytes ((List.range (4 * Ty.regs o.ty)).map fun i => s.held (va + i))
    let out := s.waitv (s.ax true) o l va y deadline
    let die := if 6 ≤ (bankRow (localOf va)).stack then 1 else 0
    let mine := s.gazMine s.warp.asid va
    let lane : GazLane := ⟨l, o.d, deadline⟩
    let waits : Prop := out.1 = .ok none ∧ (out.2.warp.lane l).st = .waiting ∧ (out.2.warp.lane l).wait = .gaz deadline o.d
    (x ≠ y → out.1 = .ok (some 1) ∧ out.2.gaz = s.gaz) ∧
    (x = y → deadline ≠ 0 → deadline ≤ s.time → out.1 = .ok (some 2) ∧ out.2.gaz = s.gaz) ∧
    (x = y → (deadline = 0 ∨ s.time < deadline) →
      (s.gaz.any mine = true → waits ∧
        out.2.gaz = s.gaz.map fun e => if mine e then { e with lanes := e.lanes ++ [lane] } else e) ∧
      (s.gaz.any mine = false → (s.gaz.filter fun e => e.die == die).length < 32768 → waits ∧
        ∃ e, out.2.gaz = s.gaz ++ [e] ∧ e.die = die ∧ e.asid = s.warp.asid ∧ e.va = BitVec.ofNat 64 va ∧ e.pa = va ∧
          e.owner = s.gazOwner ∧ e.lanes = [lane] ∧ e.msi = none) ∧
      (s.gaz.any mine = false → 32768 ≤ (s.gaz.filter fun e => e.die == die).length →
        out.1 = .ok (some 4) ∧ out.2.gaz = s.gaz))

/-! ### Barriers and tags -/

/-- R216, R218: an arrival that is the last one of a phase with nothing pending completes it: the phase moves on, the
arrivals and the votes start anew, and the votes of the phase are kept; any other arrival only counts. -/
def Sys2Proof.Machine.BarrierPhases : Prop :=
  ∀ b : BarObj,
    (b.arr = b.nmem → b.pend = 0 →
      b.test = ({ b with phase := b.phase + 1, arr := 0, allLast := b.all, anyLast := b.any, all := true, any := false },
        some b.phase)) ∧
    (b.arr ≠ b.nmem ∨ b.pend ≠ 0 → b.test = (b, none)) ∧
    (b.nmem < 2 ^ 16 → b.arr < 2 ^ 16 → -2 ^ 39 ≤ b.pend → b.pend < 2 ^ 39 → barOf b.bytes = b)

/-- R217 to R221: BAR on a group of the warp. ARRIVE counts the arrival and goes on; SYNC counts it and waits; WAIT goes on
with the vote of the phase where none of its arrivals is due, and waits where one is; a second arrival in one phase
waits to arrive again; PEND adds to the count that holds the phase.
What the rules leave open there is the model's choice: log entry 27. -/
def Sys2Proof.Machine.BarriersOfAGroup : Prop :=
  ∀ (o : BarForm) (s : State), s.activeOf o.g ≠ 0 → s.cur.who.ctx ≠ .sl → s.warp.groupOk o.k.toNat = true →
    let act := s.activeOf o.g
    let k := o.k.toNat
    let n := s.cur.who.core
    let g := (s.warp.groupId k).toNat
    let r := s.barRef n s.warp (s.cur.front == .user) g
    let votes := (lanesOf act).map fun l => (s.rdCx 0 o.perm).rP 5 l o.vin.toNat
    let vote (b : BarObj) : BarObj := if o.ve then { b with all := b.all && votes.all id, any := b.any || votes.any id } else b
    let answer (b : BarObj) (w : Warp) : Warp :=
      if o.ve then w.onLanes act fun _ y => y.wP s.cur.front o.vout.toNat (voteOut b o.vop) else w
    (∀ s₁, s.release true .group true act = (none, s₁) → ∀ b pa s₂, s₁.barGet n r = (.ok (b, pa), s₂) →
      let s₃ := s₂.modWarp fun w => { w with phases := ins w.phases k ⟨b.phase, true⟩ }
      ((find s₂.warp.phases k).map (·.phase) = some b.phase →
        (Executes (.barArrive o) s → EndsWith (.barArrive o) o.g s (s₂.barWaits o true act) 0) ∧
        (Executes (.barSync o) s → EndsWith (.barSync o) o.g s (s₂.barWaits o true act) 0)) ∧
      ((find s₂.warp.phases k).map (·.phase) ≠ some b.phase →
        let s₄ := s₃.barWaits o false act
        (Executes (.barArrive o) s →
          EndsWith (.barArrive o) o.g s (s₃.barSet n s₃.warp.task g r pa (vote { b with arr := b.arr + 1 })) act) ∧
        (Executes (.barSync o) s →
          EndsWith (.barSync o) o.g s (s₄.barSet n s₄.warp.task g r pa (vote { b with arr := b.arr + 1 })) 0))) ∧
    (Executes (.barWait o) s → ∀ b pa s₂, s.barGet n r = (.ok (b, pa), s₂) →
      match find s₂.warp.phases k with
      | none => EndsWith (.barWait o) o.g s (if o.ve then s₂.modWarp (answer b) else s₂) act
      | some p =>
        if p.pw = true ∧ p.phase = b.phase then EndsWith (.barWait o) o.g s (s₂.barWaits o false act) 0
        else EndsWith (.barWait o) o.g s
          (s₂.modWarp fun w => answer b { w with phases := ins w.phases k { p with pw := false } }) act) ∧
    (Executes (.barPend o) s → ∀ s₂,
      s.barChange n s.warp.task g r (fun b =>
        { b with pend := (BitVec.ofInt 40 (b.pend + asS 32 ((s.rdCx 0 o.perm).srcB (lowLane act) o.b .i32))).toInt }) = (none, s₂) →
      EndsWith (.barPend o) o.g s s₂ act)

/-- R221: a warp without the group, and the supervisor lane, are the only contributors of their barriers: BAR goes on at
once, a SYNC with the vote of its own lanes; PEND does nothing.
What the rules leave open there is the model's choice: log entry 94. -/
def Sys2Proof.Machine.BarriersAlone : Prop :=
  ∀ (o : BarForm) (s : State), s.activeOf o.g ≠ 0 → (s.cur.who.ctx = .sl ∨ s.warp.groupOk o.k.toNat = false) →
    let act := s.activeOf o.g
    let votes := (lanesOf act).map fun l => (s.rdCx 0 o.perm).rP 5 l o.vin.toNat
    let own : BarObj := { BarObj.init with allLast := votes.all id, anyLast := votes.any id }
    (Executes (.barArrive o) s → EndsWith (.barArrive o) o.g s s act) ∧
    (Executes (.barPend o) s → EndsWith (.barPend o) o.g s s act) ∧
    (Executes (.barSync o) s → EndsWith (.barSync o) o.g s
      (if o.ve then s.modWarp fun w => w.onLanes act fun _ y => y.wP s.cur.front o.vout.toNat (voteOut own o.vop) else s) act) ∧
    (Executes (.barWait o) s → EndsWith (.barWait o) o.g s
      (if o.ve then s.modWarp fun w => w.onLanes act fun _ y =>
        y.wP s.cur.front o.vout.toNat (voteOut { BarObj.init with allLast := true } o.vop) else s) act)

/-- R222: TWAIT goes on where the bits of its mask are set, any or all of them, and else waits; TFFR writes the lowest set
bit of the mask, or 64; TCLR gives up the warp's tags of the mask. -/
def Obligations.Tags : Prop :=
  ∀ (o : WForm NoMod) (s : State),
    let act := s.activeOf o.g
    let n := s.cur.who.core
    let bits := (s.core n).tagbits
    let mask (l : Nat) : DWord := BitVec.ofNat 64 ((s.rdCx (o.lit.getD 0) o.perm).srcA l o.a .i64)
    let m := mask (lowLane act)
    let waits (all : Bool) : State := s.modWarp fun w => w.onLanes act fun _ y => { y with st := .waiting, wait := .twait m all }
    (act ≠ 0 →
      (Executes (.twaitAny o) s →
        if bits &&& m ≠ 0 ∨ m = 0 then EndsWith (.twaitAny o) o.g s s act else EndsWith (.twaitAny o) o.g s (waits false) 0) ∧
      (Executes (.twaitAll o) s →
        if bits &&& m = m then EndsWith (.twaitAll o) o.g s s act else EndsWith (.twaitAll o) o.g s (waits true) 0) ∧
      (Executes (.tclr o) s → ∃ t, exec (.tclr o) s = .next t ∧ ∀ j < 64,
        (m.getLsbD j = true → s.warp.town.getLsbD j = true → bits.getLsbD j = true →
          (t.core n).tagUsed.getLsbD j = false ∧ (t.core n).tagbits.getLsbD j = false) ∧
        (m.getLsbD j = true → s.warp.town.getLsbD j = true → bits.getLsbD j = false → (t.core n).tagDrop.getLsbD j = true) ∧
        (m.getLsbD j = false ∨ s.warp.town.getLsbD j = false → (t.core n).tagUsed.getLsbD j = (s.core n).tagUsed.getLsbD j ∧
          (t.core n).tagbits.getLsbD j = bits.getLsbD j ∧ (t.core n).tagDrop.getLsbD j = (s.core n).tagDrop.getLsbD j))) ∧
    (Executes (.tffr o) s → EndsWith (.tffr o) o.g s
      (s.modWarp (iWrite true o.d 1 (fun _ l => ((List.range 64).find? fun j => (bits &&& mask l).getLsbD j).getD 64)
        (s.issueOf o.g o.lit o.perm {}))) act)

/-! ### Accumulator regions -/

/-- R204, R205, R226, R229: REDF and the releases leave a request for the slice of the region's handle; MZERO arms a region
where its status is 0, and writes the descriptor with the key, or with the status and V = 0. -/
def Sys2Proof.Machine.RegionRequests : Prop :=
  ∀ s : State, let n := s.cur.who.core
    (∀ f (o : RegForm), Executes (.redf f o) s → s.activeOf o.g ≠ 0 →
      let cx := s.rdCx 0 o.perm
      let hd := cx.rA o.ai.toNat
      EndsWith (.redf f o) o.g s (s.sendReq (accD hd).hcore
        { src := s.source, core := n,
          op := .contribute hd none false false ((lanesOf (s.activeOf o.g)).map fun l => redfLane f cx o l).flatten })
        (s.activeOf o.g)) ∧
    (∀ o : RegForm, s.activeOf o.g ≠ 0 →
      let cx := s.rdCx 0 o.perm
      let hd := cx.rA o.ai.toNat
      ∀ s₁, s.release true .dev true (s.activeOf o.g) = (none, s₁) →
      let sent (exp : Nat) (fin : Bool) : State := s₁.sendReq (accD hd).hcore
        { src := s₁.source, core := s₁.cur.who.core, op := .release hd exp fin (s₁.core s₁.cur.who.core).ct }
      (Executes (.mrel o) s →
        EndsWith (.mrel o) o.g s (sent (cx.srcA (lowLane (s.activeOf o.g)) o.a .i32) false) (s.activeOf o.g)) ∧
      (Executes (.mrelFin o) s → EndsWith (.mrelFin o) o.g s (sent 0 true) (s.activeOf o.g))) ∧
    ∀ o : WForm NoMod, Executes (.mzero o) s → s.activeOf o.g ≠ 0 →
      let cx := s.rdCx (o.lit.getD 0) o.perm
      let a := accD (cx.rA o.d.toNat)
      let exp := cx.srcA (lowLane (s.activeOf o.g)) o.a .i32
      let st := (s.slice n).armStatus a exp s.source
      let out := if st = 0 then s.arm n a exp (if inSl s then 0 else s.warp.task) else (BitVec.ofNat 16 st, s)
      EndsWith (.mzero o) o.g s
        ((out.2.modWarp fun w => w.wA s.cur.front o.d.toNat (mzeroDesc (cx.rA o.d.toNat) n (st = 0) out.1)).outstanding
          (s.activeOf o.g)) (s.activeOf o.g)

/-- R225, R226: the status of MZERO, by the first condition that holds; what arming leaves: a new key, never 0, and a region
with its EXP, no contribution counted, no holder and no element set, where every region it overlaps is gone and the others
stay. Where the counter starts is free.
What the rules leave open there is the model's choice: log entry 5. -/
def Sys2Proof.Machine.RegionArmed : Prop :=
  (∀ (x : Slice) (a : AccD) (exp : Nat) (src : Source),
    let meets (e : Nat × Region) : Bool := decide (e.1 < a.line + a.lines) && decide (a.line < e.1 + e.2.lines)
    let st := x.armStatus a exp src
    let full : Prop := 16384 < a.line + a.lines
    let foreign : Prop := ∃ e ∈ x.regions, meets e = true ∧ e.2.holder ≠ some src
    let many : Prop := 64 ≤ (x.regions.filter fun e => !meets e).length
    (full → st = 1) ∧ (¬ full → foreign → st = 2) ∧ (¬ full → ¬ foreign → 65535 < exp → st = 3) ∧
      (¬ full → ¬ foreign → exp ≤ 65535 → st = if many then 4 else 0)) ∧
  ∀ (s : State) (h : Nat) (a : AccD) (exp : Nat) (task : Word), rising (s.slice h).regions = true →
    let key := (s.arm h a exp task).1
    let t := (s.arm h a exp task).2
    key ≠ 0 ∧
      find (t.slice h).regions a.line = some
        { lines := a.lines, key := key, fixed := a.fixed, q := a.q, rows := a.rows, cols := a.cols, exp := exp, rel := 0, holder := none,
          ovf := false, nvf := false, owntask := task, elems := [], waiting := [], poison := [], time := 0 } ∧
      ∀ line r, line ≠ a.line → find (s.slice h).regions line = some r →
        find (t.slice h).regions line = if line < a.line + a.lines ∧ a.line < line + r.lines then none else some r

/-- R228: MACQ holds its front at the region its handle matches, and asks for a grant; a handle that matches no region
takes the token fault. A request may be granted where REL ≥ EXP, the token is free or its warp's own, and nothing that the
warp sent to the region before is on its way; the first of them receives the token, REL loses EXP where it was free, and its
lanes go on.
What the rules leave open there is the model's choice: log entry 30. -/
def Sys2Proof.Machine.TokenAcquire : Prop :=
  (∀ (o : RegForm) (s : State), Executes (.macq o) s → s.activeOf o.g ≠ 0 →
    let a := accD ((s.rdCx 0 o.perm).rA o.ai.toNat)
    let h := a.hcore
    ((s.slice h).matchShape a = none →
      EndsWith (.macq o) o.g s
        (((lanesOf (s.activeOf o.g)).foldl (fun t l => t.trapLane ⟨0x13, 2⟩ Tops.zero l) s).fqFlush s.cur.who.core
          (s.core s.cur.who.core).fqCount) 0) ∧
    (∀ r, (s.slice h).matchShape a = some r →
      let q : MacqReq := { src := s.source, who := s.cur.who, front := s.cur.front, lanes := s.activeOf o.g, addr := s.cur.pc,
                           words := s.cur.words, len := s.cur.len, key := a.key, upTo := (s.slice h).sentNo }
      EndsWith (.macq o) o.g s
        (((s.modRegion h a.line fun r => { r with waiting := r.waiting ++ [q] }).modWarp fun w =>
          w.setFront s.cur.front { w.front s.cur.front with hold := .macq h a.line }).tryGrant h a.line) 0)) ∧
  (∀ (x : Slice) (line : Nat) (r : Region) (q : MacqReq),
    let may (q : MacqReq) : Prop := r.exp ≤ r.rel ∧ (r.holder = none ∨ r.holder = some q.src) ∧
      ∀ p ∈ x.inq, p.src = q.src → p.no < q.upTo → ∃ hd, p.op.handle = some hd ∧ (accD hd).line ≠ line
    (x.grantable line r = some q → q ∈ r.waiting ∧ may q) ∧ (x.grantable line r = none → ∀ q ∈ r.waiting, ¬ may q)) ∧
  ∀ (h line : Nat) (s : State),
    (∀ r q, find (s.slice h).regions line = some r → (s.slice h).grantable line r = some q →
      ∃ t, exec (.macqGrant h line) s = .next t ∧
        ((t.warpOf q.who).front q.front).hold = .none ∧
        find (t.slice h).regions line = some
          { r with holder := some q.src, rel := if r.holder = none then r.rel - r.exp else r.rel,
                   waiting := r.waiting.filter fun p => p ≠ q }) ∧
    (∀ r, find (s.slice h).regions line = some r → (s.slice h).grantable line r = none → exec (.macqGrant h line) s = .next s)

/-- R229, R230: what a release does to its region when the slice performs it. The holder's returns the token and sets EXP;
another's counts, up to 65,535; MREL.FIN of the holder disarms the region, of another it leaves the region as it is. REGDIS
disarms whatever region stands at its line. -/
def Sys2Proof.Machine.RegionTokens : Prop :=
  (∀ (h k : Nat) (s : State) (q : SliceReq) (hd : Desc128) (exp : Nat) (fin : Bool) (time : Nat) (r : Region),
    ((firsts (s.slice h).inq []).filter isRelease)[k]? = some q → q.op = .release hd exp fin time →
    let line := (accD hd).line
    (accD hd).v = true → find (s.slice h).regions line = some r → r.key = (accD hd).key →
    ∃ t, exec (.countedRelease h k) s = .next t ∧
      find (t.slice h).regions line =
        if r.holder = some q.src then
          if fin then none else some { r with holder := none, exp := exp % 65536, time := max r.time time }
        else if fin then some r
        else some { r with rel := min 65535 (r.rel + 1), time := max r.time time }) ∧
  (∀ (h k : Nat) (s : State) (q : SliceReq) (time line : Nat) (r : Region), rising (s.slice h).regions = true →
    ((firsts (s.slice h).inq []).filter isRelease)[k]? = some q → q.op = .giveUp time → find (s.slice h).regions line = some r →
    ∃ t, exec (.countedRelease h k) s = .next t ∧
      find (t.slice h).regions line =
        if r.holder = some q.src then some { r with holder := none, time := max r.time time } else some r) ∧
  ∀ (h : Nat) (v : Word) (s : State), ∃ t, exec (.regdis h v) s = .next t ∧
    find (t.slice h).regions (v.toNat % 16384) = none ∧ (t.slice h).disBusy = false ∧
    ((t.slice h).disMiss = true ↔ find (s.slice h).regions (v.toNat % 16384) = none)

/-- R231, R241 to R243, R411: a reader of a region that the warp holds gives each lane the value of its element, 0 where the
element lies outside the region, and the data error where it is poisoned.
What the rules leave open there is the model's choice: log entry 124. -/
def Sys2Proof.Machine.RegionReaders : Prop :=
  ∀ (o : RegForm) (s : State),
    let cx := s.rdCx 0 o.perm
    let act := s.activeOf o.g
    let e (l : Nat) : Nat := cx.srcB l o.b .i32
    let reads (i : Instr) (n : Nat) (v : Region → Nat → RegRead) : Prop :=
      Executes i s → act ≠ 0 → ∀ r, s.heldRegion (accD (cx.rA o.ai.toNat)) = .ok r → (∀ l ∈ lanesOf act, v r l ≠ .range) →
        LanesDo i o.g s s (readerLane o.d n (v r) cx) true
    reads (.mread .plain o) 1 (fun r l =>
      if r.size ≤ e l then .range else if r.bad (e l) then .poison else .value (r.readF (e l)).1 (r.readF (e l)).2) ∧
    (rawDyn .raw o.ai cx s = [] → reads (.mread .raw o) 4 fun r l =>
      if r.size ≤ e l then .range else if r.bad (e l) then .poison else .value (r.at_ (e l)).toNat 0) ∧
    reads (.mread .st o) 1 (fun r _ => .value ((if r.ovf then 1 else 0) + (if r.nvf then 2 else 0) + (if r.fixed then 4 else 0)) 0) ∧
    (∀ df sat, reads (.mcvt df sat o) 1 fun r l =>
      let F := mcvtFmt df
      let n := 32 / F.width
      if r.size < e l + n then .range
      else if (List.range n).any fun j => r.bad (e l + j) then .poison
      else
        let x := mapElemsF F.width n fun j =>
          let y := F.convert .rne sat false (fp32.value (r.readF (e l + j)).1)
          (y.1, (r.readF (e l + j)).2 ||| y.2)
        .value x.1 x.2) ∧
    reads (.rowstat o) 4 fun r l =>
      if r.rows ≤ e l then .range
      else if (List.range r.cols).any fun j => r.bad (e l * r.cols + j) then .poison
      else
        let x := rowStats r (e l)
        .value (x.1 + x.2.1 * 2 ^ 32 + x.2.2 * 2 ^ 64 + ((if r.ovf then 1 else 0) + (if r.nvf then 2 else 0)) * 2 ^ 96) 0

/-- R80, R81, R87, R88: what a contribution does to an element of a region: in arrival-rounded mode the FP32 sum; in
fixed-weight mode the 128-bit sum with the value rounded to a multiple of 2^Q; NaN and infinity only set flags; no
other element changes. -/
def Sys2Proof.Machine.RegionContributions : Prop :=
  ∀ (r : Region) (e : Nat) (v : Word), r.bad e = false →
    let t := r.add e v
    (∀ j, j ≠ e → t.at_ j = r.at_ j) ∧
    (r.fixed = false → t.ovf = r.ovf ∧ t.nvf = r.nvf ∧
      t.at_ e = BitVec.ofNat 128 ((fElem .add fp32 ⟨.rne, false, false⟩ .rne ((r.at_ e).toNat % 2 ^ 32) v.toNat 0).1 % 2 ^ 32)) ∧
    (r.fixed = true →
      (∀ s, fp32.value v.toNat = .nan s → t = { r with nvf := true }) ∧
      (∀ neg, fp32.value v.toNat = .inf neg → t = { r with ovf := true }) ∧
      (∀ neg m x, fp32.value v.toNat = .fin neg m x →
        let c := (roundInt .rne neg m (x - r.q)).1
        t.nvf = r.nvf ∧ t.at_ e = r.at_ e + BitVec.ofInt 128 c ∧
        (r.ovf = false → (t.ovf = true ↔ c < -2 ^ 127 ∨ 2 ^ 127 ≤ c ∨ (r.at_ e).toInt + c < -2 ^ 127 ∨ 2 ^ 127 ≤ (r.at_ e).toInt + c))))

/-- R205, R229, R230, R239: requests at a slice. A contribution at the front is applied, whole or a free number of its
elements, and the tag of an MLOOP whose contributions are all applied may complete; a release by the holder returns the token and sets EXP, by another counts towards it; FIN by the holder disarms; REGDIS
performs what the slice has accepted and disarms.
What the rules leave open there is the model's choice: log entry 75. -/
def Sys2Proof.Machine.SliceRequests : Prop :=
  ∀ (h k : Nat) (s : State),
    (∀ q hd whole bad marks es, ((firsts (s.slice h).inq []).filter isContribution)[k]? = some q →
      q.op = .contribute hd whole bad marks es →
      let r := ({ s with draw := s.draw + 1 } : State).applySome h q hd whole bad marks
        (1 + Config.choice s.draw 810000 % es.length) es
      (r.2 = none →
        let t := r.1.modSlice h fun x => { x with inq := dropFirst q x.inq }
        exec (.contributionApply h k) s = .next (((t.accepted q).kick h).tryGrants h)) ∧
      ∀ q', r.2 = some q' → exec (.contributionApply h k) s =
        .next ((r.1.modSlice h fun x => { x with inq := replaceFirst q q' x.inq }).push (.contributionApply h 0))) ∧
    (((firsts (s.slice h).inq []).filter isContribution)[k]? = none → exec (.contributionApply h k) s = .next s) ∧
    (∀ q, ((firsts (s.slice h).inq []).filter isRelease)[k]? = some q →
      exec (.countedRelease h k) s =
        .next ((((s.modSlice h fun x => { x with inq := dropFirst q x.inq }).applyReq h q).kick h).tryGrants h)) ∧
    (∀ v, find (s.slice h).regions (v.toNat % 16384) = none → exec (.regdis h v) s =
      .next (s.modSlice h fun x => { x with disBusy := false, disMiss := true })) ∧
    ∀ v r, find (s.slice h).regions (v.toNat % 16384) = some r → exec (.regdis h v) s =
      .next ((s.drainRegion h (v.toNat % 16384)).modSlice h fun x => { x with disBusy := false, disMiss := false })

/-- R244, R413: MSPILL writes the image of a region that the warp holds and MFILL reads it back, after the contributions that
the warp sent before, where every part of the image is reached. -/
def Sys2Proof.Machine.RegionImages : Prop :=
  ∀ (o : SpillForm) (s : State), s.activeOf o.g ≠ 0 →
    let cx := s.rdCx 0 .none
    let act := s.activeOf o.g
    let va := cx.va o.a (moffVal o.off) (lowLane act)
    let a := accD (cx.rA o.ai.toNat)
    let ax := s.ax false
    let s₀ := s.ownFirst a.hcore s.source
    va % 128 = 0 → ∀ r, s₀.heldRegion a = .ok r →
    (Executes (.mspill o) s → ∀ ps s₁, s₀.imageSpots ax .write va (128 * r.lines + 16) = (.ok ps, s₁) →
      EndsWith (.mspill o) o.g s
        ((ps.filter fun e => r.poison.contains (e.1.at_ / 32) && decide (e.1.at_ < 128 * r.lines)).foldl
          (fun t e => t.poisonSpot ax e.2) (s₁.writeSpots ax r.image ps)) act) ∧
    (Executes (.mfill o) s → ∀ ps s₁, s₀.imageSpots ax .read va (128 * r.lines + 16) = (.ok ps, s₁) →
      let bs := (s₁.readSpots ax ps).1
      let k := elemBytes r.fixed
      let trail := ofBytes (bs.drop (128 * r.lines))
      EndsWith (.mfill o) o.g s
        ((s₁.readSpots ax ps).2.modRegion a.hcore a.line fun r =>
          { r with
            elems := (List.range r.size).foldl (fun t e => put 0 t e (BitVec.ofNat 128 (ofBytes ((bs.drop (k * e)).take k)))) []
            ovf := decide (trail % 2 = 1), nvf := decide (trail / 2 % 2 = 1), poison := [] }) act)

/-! ### Engines -/

/-- R222, R224: a run that starts takes its tag for the warp, clears the tag's bit, and is held under the tag with what it
read at issue; every other tag and run of the core stays. -/
def Sys2Proof.Machine.EngineTakesItsTag : Prop :=
  ∀ (s : State) (tag : Nat) (r : Run), tag < 64 →
    let n := s.cur.who.core
    let t := s.startRun tag r
    (t.core n).tagUsed.getLsbD tag = true ∧ (t.core n).tagbits.getLsbD tag = false ∧ t.warp.town.getLsbD tag = true ∧
    find (t.core n).runs tag = some r ∧
    (∀ j, j ≠ tag → j < 64 → (t.core n).tagUsed.getLsbD j = (s.core n).tagUsed.getLsbD j ∧
      (t.core n).tagbits.getLsbD j = (s.core n).tagbits.getLsbD j ∧ find (t.core n).runs j = find (s.core n).runs j) ∧
    t.mem = s.mem ∧ t.slices = s.slices ∧ t.backlog = s.backlog ++ [r.goOn n tag]

/-- R224, R233, R234, R246, R247, R338: MLOOP, COPY and MCAST start a run, once for the cluster; a COPY of no bytes completes
at once, an MLOOP keeps a place among its warp's requests at the slice of its region, an MCAST on a bus joins its bus, once what the warp wrote through its windows is at home (R297). -/
def Sys2Proof.Machine.EnginesStart : Prop :=
  ∀ s : State, let n := s.cur.who.core
    (∀ o : CopyForm, Executes (.copy o) s → s.notNow (.copy o) o.g o.tag.toNat false = false → s.activeOf o.g ≠ 0 →
      s.warp.town.getLsbD o.tag.toNat = false →
      let cx := s.rdCx 0 .none
      let l := lowLane (s.activeOf o.g)
      let r : Run := { s.newRun (.copy o) (cx.srcA l o.a .i64) (cx.srcB l o.b .i64) (cx.srcC l o.c .i32) with
        bar := s.warp.barOf o.be o.bsel }
      EndsWith (.copy o) o.g s
        (if (copyPlan o r).total = 0 then (s.startRun o.tag.toNat r).endRun (s.startRun o.tag.toNat r).cur.who.core o.tag.toNat r
          else s.startRun o.tag.toNat r) (s.activeOf o.g)) ∧
    (∀ o : McastForm, Executes (.mcast o) s → s.notNow (.mcast o) o.g o.tag.toNat false = false → s.activeOf o.g ≠ 0 →
      s.warp.town.getLsbD o.tag.toNat = false →
      let cx := s.rdCx 0 .none
      let l := lowLane (s.activeOf o.g)
      let r : Run := { s.newRun (.mcast o) (if o.bus then 0 else cx.srcA l o.a .i64) (cx.srcB l o.b .i64) (cx.srcC l o.c .i32) with
        bar := s.warp.barOf o.be o.bsel, next := List.replicate 16 0
        recv := (List.range 16).map fun y => some (o.quad.toNat * 16 + y) }
      EndsWith (.mcast o) o.g s
        ((if o.bus then
            { s.backWarp n s.warp with buses := upd [] s.buses (busKey o) fun q => q ++ [(n, o.tag.toNat)] }
          else s).startRun o.tag.toNat r) (s.activeOf o.g)) ∧
    ∀ o : MloopForm, Executes (.mloop o) s → s.notNow (.mloop o) o.g o.tag.toNat true = false → s.activeOf o.g ≠ 0 →
      s.warp.town.getLsbD o.tag.toNat = false → bincDyn o (s.rdCx 0 .none) s = [] →
      let cx := s.rdCx 0 .none
      let l := lowLane (s.activeOf o.g)
      let c := s.core n
      let sr := c.run s.warp.task
      let ti := cx.rT o.ti.toNat
      let ti1 := if o.bsc then cx.rT (o.ti.toNat + 1) else 0
      let steps := o.km1.toNat + 1
      let binc := cx.srcB l o.b .i32
      let top := o.km1.toNat * o.astep.toNat + mloopG o.shape + mloopSR o
      let r : Run := { s.newRun (.mloop o) (cx.srcA l o.a .i32) binc 0 with
        ti := ti, ti1 := ti1, ai := cx.rA o.ai.toNat, acc := List.replicate (mloopM o.shape * mloopN o.shape) 0
        frag := (List.range top).map fun i => (List.range 32).map fun j => cx.rV 4 j j (o.abase.toNat + i)
        snap := some (c.stash.filter fun e => decide (sr.base ≤ e.1) && decide (e.1 < sr.base + sr.size))
        ents := ((c.windows.filter fun w => w.task == s.warp.task).map fun w => w.entries.map fun e => (w.soff, e.1)).flatten }
      mloopTileBad (tileD ti) sr.size (mloopWidth o.typ) (mloopK o.typ) (mloopN o.shape) steps binc = none →
      (o.bsc = true → mloopScaleBad (tileD ti1) sr.size (steps * (mloopK o.typ / 32)) (mloopN o.shape) = none) →
      EndsWith (.mloop o) o.g s
        ((s.startRun o.tag.toNat r).modSlice (accD r.ai).hcore fun q =>
          q.take { src := r.source, core := n, op := .mloop o.tag.toNat r.ai }) (s.activeOf o.g)

/-- R224, R375, R384: an engine instruction on a tag that its own warp holds takes the tag-in-use trap in every active lane
and starts nothing; on a tag that another warp holds it waits, to be issued again.
What the rules leave open there is the model's choice: log entry 42. -/
def Sys2Proof.Machine.EngineTagTaken : Prop :=
  ∀ (o : CopyForm) (s : State), Executes (.copy o) s → s.activeOf o.g ≠ 0 →
    (s.warp.town.getLsbD o.tag.toNat = true →
      let k : SrcKinds := { a := some (o.a, .i64), b := some (o.b, .i64), c := some (o.c, .i32) }
      EndsWith (.copy o) o.g s
        (((lanesOf (s.activeOf o.g)).foldl (fun t l => t.trapLane ⟨0x07, o.tag.toNat⟩ ((s.rdCx 0 .none).tops k l) l) s).fqFlush
          s.cur.who.core (s.core s.cur.who.core).fqCount) 0) ∧
    (s.warp.town.getLsbD o.tag.toNat = false → (s.core s.cur.who.core).tagUsed.getLsbD o.tag.toNat = true →
      exec (.copy o) s = .next { s with draw := s.draw + 1 })

/-- R86, R235: a step of an MLOOP adds to each run value the rounded dot product of its row of A and column of B. -/
def Sys2Proof.Machine.MloopStepValues : Prop :=
  ∀ (s : State) (n : Nat) (r : Run) (o : MloopForm) (b : StepB) (sc : List (List Nat)) (i j : Nat), o.bsc = false →
    i < mloopM o.shape → j < mloopN o.shape → b.cols.length = mloopN o.shape →
    let regs (q : Nat) : List Word := s.fragReg n r o.abase.toNat (r.prog * o.astep.toNat + q)
    let e := i * mloopN o.shape + j
    (s.stepAcc n r o b sc).getD e 0 =
      add32 (r.acc.getD e 0) (dot32 (mloopRow o regs i) ((b.cols.getD j []).map (mloopB o.typ)))

/-- R220, R222, R238, R239, R246, R247, R391: the events of a run. A COPY or MCAST delivers its next bytes; an MLOOP makes its next
step; each completes when it has done its last, an MLOOP once the slice has taken its contributions.
What the rules leave open there is the model's choice: log entries 37, 76. -/
def Sys2Proof.Machine.EngineEvents : Prop :=
  ∀ (s : State) (n tag : Nat),
    (find (s.core n).runs tag = none →
      exec (.engineBytesDelivered n tag) s = .next s ∧ exec (.mloopStepEnd n tag) s = .next s ∧
      exec (.mloopComplete n tag) s = .next s ∧ exec (.copyComplete n tag) s = .next s ∧
      exec (.mcastComplete n tag) s = .next s) ∧
    ∀ r, find (s.core n).runs tag = some r →
      (∀ o, r.kind = .mloop o →
        (r.prog ≤ o.km1.toNat → exec (.mloopStepEnd n tag) s =
          .next { s.mloopStep n tag r o with draw := (s.mloopStep n tag r o).draw + 1 }) ∧
        (o.km1.toNat < r.prog → (s.slice (accD r.ai).hcore).awaits r tag = false →
          exec (.mloopComplete n tag) s = .next (s.endRun n tag r)) ∧
        ((s.slice (accD r.ai).hcore).awaits r tag = true → exec (.mloopComplete n tag) s = .next s)) ∧
      (∀ o, r.kind = .copy o → r.owed = 0 → r.dues = [] →
        ((copyPlan o r).total ≤ r.prog → exec (.copyComplete n tag) s = .next (s.endRun n tag r)) ∧
        (r.held = false → r.prog < (copyPlan o r).total → exec (.engineBytesDelivered n tag) s =
          .next { s.copyStep n tag r o with draw := (s.copyStep n tag r o).draw + 1 })) ∧
      (∀ o, r.kind = .mcast o → r.owed = 0 → r.dues = [] →
        (o.bus = true → r.c.toNat ≤ r.prog → exec (.mcastComplete n tag) s = .next (s.endRun n tag r)) ∧
        (o.bus = false → (∀ x < 16, o.cmask.getLsbD x = true → r.c.toNat ≤ r.next.getD x 0) →
          exec (.mcastComplete n tag) s = .next (s.endRun n tag r)) ∧
        (r.held = false → o.bus = false → exec (.engineBytesDelivered n tag) s =
          .next { s.mcastStep n tag r o with draw := (s.mcastStep n tag r o).draw + 1 }))

/-- R222, R246: a step of a COPY on plain memory of the device whose source does not overlap its destination gives the bytes of
the destination line the values of their source bytes, changes no other byte, and goes on behind them or completes.
What the rules leave open there is the model's choice: log entry 76. -/
def Sys2Proof.Machine.CopyBytes : Prop :=
  ∀ (s : State) (n tag : Nat) (r : Run) (o : CopyForm), find (s.core n).runs tag = some r → r.kind = .copy o →
    let p := copyPlan o r
    let va := (p.dva + r.prog) % 2 ^ 64
    let k := min (p.total - r.prog) (128 - va % 128)
    r.prog < p.total → p.overlaps = false → r.bar = none → r.ptroot.getLsbD 0 = false →
    (s.core n).windows = [] → (s.core n).l1 = [] → s.still → s.parcelsFree → s.poison = [] →
    s.dramAt va k → s.linked n va k → (∀ i < k, s.dramAt (p.src (r.prog + i)) 1 ∧ s.linked n (p.src (r.prog + i)) 1) →
    let t := s.copyStep n tag r o
    (∀ i < k, t.held (va + i) = s.held (p.src (r.prog + i))) ∧
    (∀ a < 2 ^ 56, s.place a = .dram → a < va ∨ va + k ≤ a → t.held a = s.held a) ∧
    (∃ r', find (t.core n).runs tag = some r' ∧ r'.prog = r.prog + k) ∧
    (if r.prog + k = p.total then .copyComplete n tag else .engineBytesDelivered n tag) ∈ t.backlog

/-- R222, R247: the next line of an MCAST to a receiver on another core, through a window of plain memory there, gives the bytes
of the line the values of their source bytes, changes no other byte, and goes on behind them at that receiver. Each step serves
the first receiver to which a line can go.
What the rules leave open there is the model's choice: log entry 76. -/
def Sys2Proof.Machine.McastBytes : Prop :=
  (∀ (s : State) (n tag : Nat) (r : Run) (o : McastForm) (x m : Nat) (w : Window),
    find (s.core n).runs tag = some r → r.kind = .mcast o → r.recv.getD x none = some m → m ≠ n → r.copies = false → r.bar = none →
    (s.core m).windows = [w] → w.task = r.task → w.entries = [] → w.wva % 128 = 0 → w.sww = 0 ∨ 8 ≤ w.sws →
    w.ptroot.getLsbD 0 = false → r.ptroot.getLsbD 0 = false → (s.core n).windows = [] → (s.core n).l1 = [] →
    s.still → s.parcelsFree → s.poison = [] →
    let at_ := r.next.getD x 0
    let va := (r.a.toNat + at_) % 2 ^ 64
    let k := min (r.c.toNat - at_) (128 - va % 128)
    let src (i : Nat) : Nat := ((r.b.toNat + at_) % 2 ^ 64) + i
    at_ < r.c.toNat → (∀ i < k, w.hasVa (va + i) = true) → s.dramAt va k → s.linked m va k →
    (∀ i < k, s.dramAt (src i) 1 ∧ s.linked n (src i) 1) →
    ∃ t, s.mcastLine n tag r o x = some t ∧ (∀ i < k, t.held (va + i) = s.held (src i)) ∧
      (∀ a < 2 ^ 56, s.place a = .dram → a < va ∨ va + k ≤ a → t.held a = s.held a) ∧
      (∃ r', find (t.core n).runs tag = some r' ∧ r'.next = r.next.set x (at_ + k))) ∧
  ∀ (s : State) (n tag : Nat) (r : Run) (o : McastForm),
    (s.mcastPick o r r.c.toNat = [] → s.mcastStep n tag r o = s.push (.mcastComplete n tag)) ∧
    ∀ x xs t, s.mcastPick o r r.c.toNat = x :: xs → s.mcastLine n tag r o x = some t → s.mcastStep n tag r o = t

/-- R222, R235, R238: a step of an MLOOP leaves in its run the values that it computed, and its next step is due; after the last
one its contributions take the place that it has held among its warp's requests at the slice: one for each element of the shape
in row-major order, with its target. -/
def Sys2Proof.Machine.MloopAdvances : Prop :=
  ∀ (s : State) (n tag : Nat) (r : Run) (o : MloopForm), r.held = false → r.prog ≤ o.km1.toNat →
    (∀ e ∈ (s.core n).runs, e.1 = tag ∨ e.2.isMloop = false ∨ e.2.quarter ≠ r.quarter) →
    ∀ b sc s₁, s.underWins n r.task r.wins (fun s => s.stepB n r o) = (.ok (some (b, sc)), s₁) → find (s₁.core n).runs tag = some r →
      let r' : Run := { r with started := true, rv := true, prog := r.prog + 1, acc := s₁.stepAcc n r o b sc, bad := r.bad || b.bad }
      let h := (accD r.ai).hcore
      let op : SliceOp := .contribute r.ai (some tag) false r'.bad (mloopElems r' o)
      let t := s.mloopStep n tag r o
      find (t.core n).runs tag = some r' ∧
      (r.prog < o.km1.toNat → .mloopStepEnd n tag ∈ t.backlog) ∧
      (r.prog = o.km1.toNat → ∀ q ∈ (s₁.slice h).inq, q.src = r.source → q.op.isMloop tag = true →
        { q with op := op } ∈ (t.slice h).inq) ∧
      ∀ e < mloopM o.shape * mloopN o.shape,
        let i := r.a.toNat % 65536 + e / mloopN o.shape
        let j := r.a.toNat / 65536 % 65536 + e % mloopN o.shape
        (mloopElems r' o)[e]? = some (0, if i < (accD r.ai).rows ∧ j < (accD r.ai).cols then i * (accD r.ai).cols + j else 2 ^ 40,
          r'.acc.getD e 0)

/-- R222: the end of a run takes it off its core and sets its tag's bit; a tag that was given up meanwhile is free. -/
def Sys2Proof.Machine.TagCompletes : Prop :=
  ∀ (s : State) (n tag : Nat) (r : Run), tag < 64 →
    let t := s.endRun n tag r
    find (t.core n).runs tag = none ∧ (∀ j, j ≠ tag → find (t.core n).runs j = find (s.core n).runs j) ∧
    ((s.core n).tagDrop.getLsbD tag = false →
      (t.core n).tagbits.getLsbD tag = true ∧ (t.core n).tagUsed = (s.core n).tagUsed) ∧
    ((s.core n).tagDrop.getLsbD tag = true → (t.core n).tagUsed.getLsbD tag = false)

/-! ### Messages, launches, placement -/

/-- R249: MSEND sends one message for each active lane, in ascending order, with its data registers as they are at issue,
and each has a result on its way.
What the rules leave open there is the model's choice: log entry 96. -/
def Sys2Proof.Machine.MessagesSent : Prop :=
  ∀ (o : WForm NoMod) (s : State), Executes (.msend o) s → msendDyn o (s.rdCx (o.lit.getD 0) o.perm) s = [] →
    let cx := s.rdCx (o.lit.getD 0) o.perm
    let f := s.cur.front
    EndsWith (.msend o) o.g s ((lanesOf (s.activeOf o.g)).foldl (fun t l =>
      let m : Msg :=
        { id := t.msgs.foldl (fun n m => max n (m.id + 1)) 0, who := t.cur.who, front := f, lane := l, d := o.d.toNat
          task := t.warp.task, wid := t.warp.wid, route := BitVec.ofNat 32 (cx.srcA l o.a .i32), ring := cx.srcB l o.b .i32 % 64
          data := toBytes (8 * (cx.srcB l o.b .i32 / 256 % 8 + 1))
            (cx.fetchN 2 l l o.c .i32 ((8 * (cx.srcB l o.b .i32 / 256 % 8 + 1) + 3) / 4)) }
      (({ t with msgs := t.msgs ++ [m] } : State).owes (laneBit l)).sendMsg m) s) (s.activeOf o.g)

/-- R249, R250, R325: the oldest message that reaches a unit, and that no earlier one of its lane to the ring precedes, is received: status 3 where no warp of its task is on the core,
2 at a slice or at a ring that is not one, 1 where the ring is full, and 0 where its slot is filled.
What the rules leave open there is the model's choice: log entry 39. -/
def Sys2Proof.Machine.MessagesReceived : Prop :=
  ∀ (n : Nat) (s : State),
    ((s.msgs.find? fun m => decide (s.msgEnd m = .unit n) && !s.msgHeld m) = none → exec (.messageReceive n) s = .next s) ∧
    ∀ m, (s.msgs.find? fun m => decide (s.msgEnd m = .unit n) && !s.msgHeld m) = some m →
      let ends (st : Word) (t : State) : Prop :=
        exec (.messageReceive n) s = .next { t.msgStatus m st with draw := (t.msgStatus m st).draw + 1 }
      (128 ≤ n → ends 2 s) ∧
      (n < 128 →
        (find s.disp.tasks m.task.toNat = none ∨ ((s.core n).slots.any fun e => e.2.task == m.task) = false → ends 3 s) ∧
        ∀ t, find s.disp.tasks m.task.toNat = some t → ((s.core n).slots.any fun e => e.2.task == m.task) = true →
          let a : Ax := { x := { core := n, ptroot := t.ptroot, asid := t.asid, user := false }
                          w := { Warp.empty with task := m.task }, acq := false, agent := true }
          let size := ((s.core n).run m.task).size
          (∀ e s₁, resolve (fun s p => s.spotOff a .read p) (granulesOf (32 * m.ring) 32) s = (.error e, s₁) → ends 2 s₁) ∧
          ∀ ps s₁, resolve (fun s p => s.spotOff a .read p) (granulesOf (32 * m.ring) 32) s = (.ok ps, s₁) →
            let s₂ := (s₁.readSpots a ps).2
            let r := ringOf (s₁.readSpots a ps).1 size
            (size < 32 * m.ring + 32 ∨ r.ok = false → ends 2 s₂) ∧
            (32 * m.ring + 32 ≤ size → r.ok = true → r.used = 2 ^ r.log → ends 1 s₂) ∧
            (32 * m.ring + 32 ≤ size → r.ok = true → r.used ≠ 2 ^ r.log → (r.we = false ∨ r.used ≠ 0) →
              ∀ s₃, s₂.ifaceStore a (r.doff + 128 * (r.tail % 2 ^ r.log)) m.slot = (none, s₃) →
                ends 0 (s₃.ifaceStore a (32 * m.ring + 12) (toBytes 4 (r.tail + 1))).2))

/-- R252, R315, R327: LAUNCH puts one request for each active lane behind those that wait, after a release; it waits where no
way to the Dispatcher is open. -/
def Sys2Proof.Machine.LaunchRequests : Prop :=
  ∀ (o : WForm NoMod) (s : State), Executes (.launch o) s → s.activeOf o.g ≠ 0 →
    let act := s.activeOf o.g
    let cx := s.rdCx (o.lit.getD 0) o.perm
    ∀ s₀, s.release true .dev true act = (none, s₀) → s₀.reaches s₀.cur.who.core 128 = true →
    let s₁ := s₀.wakeWay s₀.cur.who.core 128
    let f := s₁.cur.front
    let reqs : List LaunchReq := (lanesOf act).map fun l =>
      { first := l = lowLane act, who := s₁.cur.who, front := f, lane := l, d := o.d.toNat
        addr := BitVec.ofNat 64 (cx.srcA l o.a .i64), queue := BitVec.ofNat 32 (cx.srcB l o.b .i32)
        user := !(s₁.warp.lane l).sv, asid := s₁.warp.asid, ptroot := s₁.warp.ptroot, task := s₁.warp.task, wid := s₁.warp.wid
        rel := (s₁.core s₁.cur.who.core).ct, gate := none }
    EndsWith (.launch o) o.g s
      ((({ s₁ with disp := { s₁.disp with reqs := s₁.disp.reqs ++ reqs } } : State).owes act).push .launchAccept) act

/-- R252, R315, R327, R387: the Dispatcher answers a lane's launch, once each of its accesses finds a way: 1 for a full queue, 2 for
one that is none, for a misaligned descriptor, for one that cannot be read and for a field out of range, and 0 with the task's
number where it enters its queue.
What the rules leave open there is the model's choice: log entries 46, 81, 101. -/
def Sys2Proof.Machine.LaunchAnswers : Prop :=
  ∀ (r : LaunchReq) (rest : List LaunchReq) (s : State), s.fatal = false → firstLaunch s.disp.reqs = ([r], rest) →
    let s₁ : State := { s with disp := { s.disp with reqs := rest }, agent := some 128, cut := false }
    let q := r.queue.toNat % 64
    let ends (st num : Nat) (t : State) : Prop :=
      let u : State := { t.launchAnswer r st num with agent := s.agent, cut := s.cut }
      (t.cut = false → exec .launchAccept s = .next
        (if u.holds r.who r.task r.wid then u.resultBack r.who r.front (maskOf [r.lane]) else { u with draw := u.draw + 1 })) ∧
      (t.cut = true → exec .launchAccept s = .next s)
    (256 ≤ (look [] s.disp.queues q).length → ends 1 0 s₁) ∧
    ((look [] s.disp.queues q).length < 256 → r.queue.toNat / 64 ≠ 0 ∨ r.addr.toNat % 64 ≠ 0 → ends 2 0 s₁) ∧
    ((look [] s.disp.queues q).length < 256 → r.queue.toNat / 64 = 0 → r.addr.toNat % 64 = 0 →
      let x : XCx := { core := r.who.core, ptroot := r.ptroot, asid := r.asid, user := r.user }
      (∀ va s₂, s₁.dispRead x r.addr.toNat 192 = (.error va, s₂) → ends 2 0 (s₂.launchFailed r r.addr)) ∧
      ∀ bs s₂, s₁.dispRead x r.addr.toNat 192 = (.ok bs, s₂) →
        (s₂.parseTask r (ofBytes bs) = none → ends 2 0 s₂) ∧
        ∀ t, s₂.parseTask r (ofBytes bs) = some t → dField (ofBytes bs) 0x20 8 = 0 →
          let memb : List Word := (List.range t.nwarps).map fun w =>
            BitVec.ofNat 32 (ofBytes (((List.replicate (4 * t.nwarps) (0xFF : Byte)).drop (4 * w)).take 4))
          let u : Task := { t with memb := memb, localGroups := ({ t with memb := memb } : Task).locals }
          (u.groupsOk = false ∨ s₂.placeable u = false → ends 2 0 s₂) ∧
          (u.groupsOk = true → s₂.placeable u = true → ∀ s₃, s₂.firstUnwritable u.cx u.writes = (none, s₃) →
            ends 0 (s₃.enqueue q u).1 (s₃.enqueue q u).2))

/-- R316, R317, R327, R387: a head's dependence word is read, once a way to it is open: another value than 0 makes the head
eligible, 0 leaves it waiting, and a word that cannot be read fails the task. -/
def Sys2Proof.Machine.Dependences : Prop :=
  ∀ (q : Nat) (s : State),
    (look [] s.disp.queues q = [] → exec (.dependencePoll q) s = .next s) ∧
    ∀ e es, look [] s.disp.queues q = e :: es →
      (e.dep = .met → exec (.dependencePoll q) s = .next s) ∧
      ∀ t, find s.disp.tasks e.task.toNat = some t → e.dep ≠ .met →
        let word := s.attempt 128 fun s => s.depWord q t
        (word = none → exec (.dependencePoll q) s = .next s) ∧
        (∀ s₁, word = some (none, s₁) → exec (.dependencePoll q) s = .next (s₁.failTask q t 0)) ∧
        ∀ v time pa s₁, word = some (some (v, time, pa), s₁) →
          (v ≠ 0 →
            let s₂ := ({ s₁ with draw := s₁.draw + 1 } : State).leaveQueueWait q
            exec (.dependencePoll q) s =
              .next (((s₂.modTask e.task.toNat fun t => { t with rel := max t.rel time }).modHead q fun e =>
                { e with dep := .met, since := some s₂.time, rise := s₂.time }).push .taskPlacement)) ∧
          (v = 0 → Answers (.dependencePoll q) s fun u =>
            (look [] u.disp.queues q).head?.map (fun e => (e.task, e.dep, e.polled)) = (look [] s₁.disp.queues q).head?.map (fun e =>
              (e.task, .waiting, s₁.time)) ∧
            u.mem = s₁.mem ∧ u.slices = s₁.slices ∧ u.cores = s₁.cores ∧ u.disp.tasks = s₁.disp.tasks)

/-- R49, R317: a head eligible for 1,048,576 ticks rises one level, at most to 7; one that was unplaceable for 65,536 ticks
reserves. -/
def Sys2Proof.Machine.HeadsAge : Prop :=
  ∀ (q : Nat) (s : State) (e : QEntry) (es : List QEntry), look [] s.disp.queues q = e :: es →
    (e.since.isSome = true → e.level < 7 → 1048576 ≤ (s.time - e.rise).toNat →
      Answers (.launchQueueAgeing q) s fun t =>
        look [] t.disp.queues q = { e with level := e.level + 1, rise := e.rise + 1048576 } :: es ∧
        t.backlog = s.backlog ++ [.taskPlacement] ∧ t = { s with disp := { s.disp with queues := t.disp.queues }, backlog := t.backlog }) ∧
    (e.since = none ∨ e.level = 7 ∨ (s.time - e.rise).toNat < 1048576 → exec (.launchQueueAgeing q) s = .next s) ∧
    (∀ f, e.fail = some f → 65536 ≤ (s.time - f).toNat → Answers (.headReserve q) s fun t =>
      look [] t.disp.queues q = { e with reserve := true } :: es ∧
      t = { s with disp := { s.disp with queues := t.disp.queues } }) ∧
    (e.fail = none ∨ (∃ f, e.fail = some f ∧ (s.time - f).toNat < 65536) → exec (.headReserve q) s = .next s)

/-- R36, R148, R253, R318, R319, R327, R427: one placement at a time, of the first candidate for which resources suffice and the
Dispatcher's accesses find their ways, after the completion words that it owed; then the
warps of the placed task issue; a warp without lanes gives its slot up, and the last one ends the task.
What the rules leave open there is the model's choice: log entry 120. -/
def Sys2Proof.Machine.Placement : Prop :=
  ∀ s : State,
    let s₀ := s.payOwed
    let place (s : State) (c : Word ⊕ Head) : Option State :=
      match c with
      | .inl n => (find s.disp.tasks n.toNat).bind s.placeResumed
      | .inr h => s.placeHead h
    (∀ c t, s₀.placeCandidate c = some t ↔ ∃ u, place { s₀ with agent := some 128, cut := false } c = some u ∧ u.cut = false ∧
      t = { u with agent := s₀.agent, cut := s₀.cut }) ∧
    (s₀.fatal = true ∨ (∀ c ∈ s₀.candidates, s₀.placeCandidate c = none) → exec .taskPlacement s =
      .next (s₀.heads.foldl (fun s h => s.modHead h.q fun e => { e with fail := some (e.fail.getD s.time) }) s₀)) ∧
    (∀ cs c ds p, s₀.fatal = false → s₀.candidates = cs ++ c :: ds → (∀ d ∈ cs, s₀.placeCandidate d = none) →
      s₀.placeCandidate c = some p → exec .taskPlacement s = .next (p.push .taskPlacement)) ∧
    (∀ k, (∀ t, find s.disp.tasks k = some t → t.st ≠ .running) → exec (.taskStart k) s = .next s) ∧
    (∀ k t, find s.disp.tasks k = some t → t.st = .running → Answers (.taskStart k) s fun u =>
      u = { s with cores := u.cores } ∧
      ∀ w x, find t.warps w = some x → (u.warpOf ⟨x.core, .slot x.slot⟩).stopping = false ∧ t.rel ≤ (u.core x.core).ct) ∧
    ∀ n k, let w := s.warpOf ⟨n, .slot k⟩
      (w = Warp.empty ∨ w.dead = false ∨ w.drained = false → exec (.warpSlotFree n k) s = .next s) ∧
      (w ≠ Warp.empty → w.dead = true → w.drained = true →
        let s₁ := (s.leaveGroups n w).giveUp n w
        let s₂ := (s₁.modCore n fun c => (c.dropTags w.town).setWarp (.slot k) Warp.empty).leaveCore n w.task
        let s₃ := s₂.modTask w.task.toNat fun t => { t with warps := del t.warps w.wid.toNat, rel := max t.rel (s₂.core n).ct }
        (find s₃.disp.tasks w.task.toNat = none → exec (.warpSlotFree n k) s = .next s₃) ∧
        ∀ t, find s₃.disp.tasks w.task.toNat = some t →
          (t.warps = [] → exec (.warpSlotFree n k) s = .next (s₃.endTask t)) ∧
          (t.warps ≠ [] → exec (.warpSlotFree n k) s = .next ((s₃.checkSaved w.task.toNat).push .taskPlacement)))

/-! ### Stopping and resuming -/

/-- R254: DSTOP and DRESUME act lane by lane and give a status: 1 for no such task, 2 for one without the right, 3 for one in
another state, and 0 where the task begins to stop, or is accepted for resumption.
What the rules leave open there is the model's choice: log entry 45. -/
def Sys2Proof.Machine.StopAndResume : Prop :=
  (∀ (o : WForm NoMod) (s : State),
    let n (l : Nat) : Nat := (s.rdCx (o.lit.getD 0) o.perm).srcA l o.a .i32
    let does (f : State → Nat → Nat × State) (l : Nat) (t : State) : Option Stop × State :=
      (none, (f t (n l)).2.modLane l fun y => y.wV s.cur.front o.d.toNat (BitVec.ofNat 32 (f t (n l)).1))
    let ends (i : Instr) (f : State → Nat → Nat × State) : Prop := Executes i s → LanesDo i o.g s s (does f) true ∧
      EndsWith i o.g s ((((lanesOf (s.activeOf o.g)).foldl (fun t l => (does f l t).2) s).fqFlush s.cur.who.core
        (s.core s.cur.who.core).fqCount).resultDue (s.activeOf o.g)) (s.activeOf o.g)
    ends (.dstop o) State.dstop ∧ ends (.dresume o) State.dresume) ∧
  ∀ (n : Nat) (s : State),
    (find s.disp.tasks n = none → s.dstop n = (1, s) ∧ s.dresume n = (1, s)) ∧
    ∀ t, find s.disp.tasks n = some t →
      (t.pre = false → s.dstop n = (2, s) ∧ s.dresume n = (2, s)) ∧
      (t.pre = true → t.st ≠ .running → s.dstop n = (3, s)) ∧
      (t.pre = true → t.st ≠ .saved → s.dresume n = (3, s)) ∧
      (t.pre = true → t.st = .running →
        (s.dstop n).1 = 0 ∧ (∃ u, find (s.dstop n).2.disp.tasks n = some u ∧ u.st = .stopping ∧ u.warps = t.warps) ∧
        ∀ w x, find t.warps w = some x → ((s.dstop n).2.warpOf ⟨x.core, .slot x.slot⟩).stopping = true) ∧
      (t.pre = true → t.st = .saved →
        (s.dresume n).1 = 0 ∧ find (s.dresume n).2.disp.tasks n = some { t with st := .resuming } ∧
        (s.dresume n).2.disp.resume = s.disp.resume ++ [t.num])

/-- R46, R48, R68, R70: a warp of a stopping task whose results are in is saved, with what it holds, its tags and its core's
clock, and gives its slot up; a task that is placed again runs.
What the rules leave open there is the model's choice: log entry 31. -/
def Sys2Proof.Machine.SavedAndResumed : Prop :=
  (∀ (n k : Nat) (s : State), let w := s.warpOf ⟨n, .slot k⟩
    (find s.disp.tasks w.task.toNat = none → exec (.warpSave n k) s = .next s) ∧
    ∀ t, find s.disp.tasks w.task.toNat = some t →
      (t.st ≠ .stopping ∨ w = Warp.empty ∨ w.stopping = false ∨ w.drained = false → exec (.warpSave n k) s = .next s) ∧
      (t.st = .stopping → w ≠ Warp.empty → w.stopping = true → w.drained = true → s.saveReady ⟨n, .slot k⟩ = false →
        exec (.warpSave n k) s = .next (s.dropRuns w)) ∧
      (t.st = .stopping → w ≠ Warp.empty → s.saveReady ⟨n, .slot k⟩ = true → w.dead = true →
        exec (.warpSave n k) s = .next (s.push (.warpSlotFree n k))) ∧
      (t.st = .stopping → w ≠ Warp.empty → s.saveReady ⟨n, .slot k⟩ = true → w.dead = false →
        w.user.hold = .none → w.sup.hold = .none →
        let v := (w.settle .user s.draw).settle .sup s.draw
        let v : Warp := { v with
          user := { v.user with parked := v.user.parked && v.outstanding .user, entry := 0 }
          sup := { v.sup with parked := v.sup.parked && v.outstanding .sup, entry := 0 } }
        ∃ u : State, exec (.warpSave n k) s = .next (u.checkSaved t.num.toNat) ∧ u.warpOf ⟨n, .slot k⟩ = Warp.empty ∧
          find u.saved (savedKey v.task v.wid) =
            some { w := v, cts := (s.core n).ct, tdone := (s.core n).tagbits &&& v.town, acq := 0 } ∧
          ∀ j, j ≠ savedKey v.task v.wid → find u.saved j = find s.saved j)) ∧
  ∀ (k : Nat) (s : State),
    (find s.disp.tasks k = none → exec (.taskResume k) s = .next s) ∧
    ∀ t, find s.disp.tasks k = some t →
      (t.st ≠ .resuming ∨ t.warps = [] ∨ s.disp.resume.contains t.num = true → exec (.taskResume k) s = .next s) ∧
      (t.st = .resuming → t.warps ≠ [] → s.disp.resume.contains t.num = false →
        let now : Task := { t with st := .running, ranks := t.warps.foldl (fun r e => insNat e.2.core r) [] }
        ∃ u : State, exec (.taskResume k) s = .next (u.complete now 0) ∧ find u.disp.tasks k = some now ∧
          u.disp.queues = s.disp.queues ∧ ∀ j, j ≠ k → find u.disp.tasks j = find s.disp.tasks j)

/-! ### The supervisor queue, GATE, the fault queue -/

/-- R255, R256, R346: SYSC puts an entry of sixteen words in the core's queue for each active lane and parks it with a ticket;
at a full queue it parks to issue again. The queue engine writes the count once. QP is set where the queue stays full.
What the rules leave open there is the model's choice: log entry 52. -/
def Sys2Proof.Machine.SupervisorCalls : Prop :=
  (∀ (o : WForm NoMod) (s : State), Executes (.sysc o) s →
    let cx := s.rdCx (o.lit.getD 0) o.perm
    let act := s.activeOf o.g
    let n := s.cur.who.core
    ∀ s₁, s.release true .dev true act = (none, s₁) →
    let wait (k : Wait) (l : Nat) (t : State) : State := t.modLane l fun y => { y with st := .waiting, wait := k }
    let enter (t : State) (l : Nat) : State :=
      let m := t.cur.who.core
      let c := t.core m
      if c.sq.length < 512 then
        wait (.sysc (BitVec.ofNat 32 (m * 2 ^ 25 + c.sqCalls % 2 ^ 25)) o.d) l
          (t.setCore m { c with
            sq := c.sq ++ [{ words := t.sqWords cx o l }], sqCalls := c.sqCalls + 1
            sqFull := if c.sq.length + 1 = 512 then some t.time else c.sqFull })
      else wait .sysFull l t
    let s₂ := (lanesOf act).foldl enter s₁
    EndsWith (.sysc o) o.g s (s₂.sqCount n ((s₂.core n).sq.length - (s₁.core n).sq.length)) 0) ∧
  (∀ (o : WForm NoMod) (s : State) (cx : RdCx) (l : Nat), l < 32 → let ws := s.sqWords cx o l
    ws.length = 16 ∧ (ws.getD 0 0).toNat % 32 = l ∧ ws.getD 1 0 = s.warp.task ∧ ws.getD 2 0 = BitVec.ofNat 32 (cx.srcA l o.a .i32) ∧
    (∀ i < 8, ws.getD (8 + i) 0 = BitVec.ofNat 32 (cx.fetchN 1 l l o.b .i32 8 / 2 ^ (32 * i)))) ∧
  ∀ (n : Nat) (s : State),
    ((s.core n).sqFull = none → exec (.sqPressure n) s = .next s) ∧
    ∀ t, (s.core n).sqFull = some t →
      ((s.time - t).toNat < 16384 → exec (.sqPressure n) s = .next s) ∧
      (16384 ≤ (s.time - t).toNat → exec (.sqPressure n) s =
        .next (s.modCore n fun c => { c with ipendEdge := c.ipendEdge ||| 16, sqFull := some s.time }))

/-- R257, R258, R396: SQTAKE gives each active lane the oldest entry, or sixteen zeros; SQREPLY wakes the lane that waits
with the ticket, past its SYSC, with the result, and records a reply that meets no such lane. -/
def Sys2Proof.Machine.SupervisorReplies : Prop :=
  (∀ (o : WForm NoMod) (s : State), Executes (.sqtake o) s →
    let take (t : State) (l : Nat) : State :=
      match (t.core t.cur.who.core).sq with
      | e :: es =>
        (t.modCore t.cur.who.core fun c => ({ c with sq := es, sqFull := none } : Core).wakeFull).modLane l fun y =>
          (List.range 16).foldl (fun y i => y.wV s.cur.front (o.d.toNat + i) (e.words.getD i 0)) y
      | [] => t.modLane l fun y => y.wVs s.cur.front o.d.toNat 16 0
    EndsWith (.sqtake o) o.g s (((lanesOf (s.activeOf o.g)).foldl take s).resultDue (s.activeOf o.g)) (s.activeOf o.g)) ∧
  (∀ (o : WForm NoMod) (s : State), Executes (.sqreply o) s →
    let cx := s.rdCx (o.lit.getD 0) o.perm
    let reply (t : State) (l : Nat) : State :=
      let a := cx.fetchN 0 l l o.a .i32 2
      let ticket : Word := BitVec.ofNat 32 (cx.srcC l o.c .i32)
      let r := t.sqReply (BitVec.ofNat 32 a) (BitVec.ofNat 32 (a / 2 ^ 32)) (BitVec.ofNat 32 (cx.srcB l o.b .i32)) ticket
      if r.1 then r.2 else r.2.strayRecord 0x21 l (ticket.setWidth 64)
    ∀ s₁, s.release true .dev true (s.activeOf o.g) = (none, s₁) →
      EndsWith (.sqreply o) o.g s ((lanesOf (s.activeOf o.g)).foldl reply s₁) (s.activeOf o.g)) ∧
  ∀ (s : State) (caller task result ticket : Word) (who : Who),
    let l := caller.toNat % 32
    let wid : Word := BitVec.ofNat 32 (caller.toNat / 32 % 65536)
    s.seatOf ⟨caller.toNat / 2 ^ 21 % 128, .sl⟩ task wid = some who →
      (∀ d, ((s.warpOf who).lane l).parkedAt ticket = some d →
        s.sqReply caller task result ticket =
          (true, (s.modWarpOf who fun w => w.wakeLane l d result 8).acquire who.core (s.core s.cur.who.core).ct)) ∧
      (((s.warpOf who).lane l).parkedAt ticket = none → s.sqReply caller task result ticket = (false, s))

/-- R259, R260, R327, R345, R348: GATE serves its active lanes in turn and writes each its status and result. A capability that
does not allow the service answers 1; service 0 arms a free timer, 2 where there is none; service 1 cancels the timer of the
identifier; 4 wakes lanes on the capability's key. A lane alone whose capability is read completes with its service, a release
not stopped and the units reached. A timer that was due fires, once the way to its key is open.
What the rules leave open there is the model's choice: log entry 50. -/
def Sys2Proof.Machine.Gates : Prop :=
  (∀ (o : WForm NoMod) (s : State), Executes (.gate o) s → LanesDo (.gate o) o.g s s (gateLane o (s.rdCx (o.lit.getD 0) o.perm)) true) ∧
  (∀ (o : WForm NoMod) (s : State) (l : Nat) (c : Cap) (t : State), Executes (.gate o) s → s.activeOf o.g = laneBit l → l < 32 →
    let cx := s.rdCx (o.lit.getD 0) o.perm
    let arg : DWord := BitVec.ofNat 64 (cx.srcC l o.c .i64)
    s.attempt s.cur.who.core (fun s => s.readCap (cx.srcA l o.a .i32) (cx.srcB l o.b .i32)) = some (some c, t) →
    ∀ r u, t.gateService l c arg = (.ok r, u) → ∃ v, exec (.gate o) s = .next v ∧ v.timers = u.timers ∧ v.gaz = u.gaz ∧
      look zeroV (v.warp.lane l).v o.d.toNat = Cell.write s.cur.front (BitVec.ofNat 32 r.1) (look zeroV (u.warp.lane l).v o.d.toNat) ∧
      look zeroV (v.warp.lane l).v (o.d.toNat + 1) =
        Cell.write s.cur.front (BitVec.ofNat 32 r.2) (look zeroV (u.warp.lane l).v (o.d.toNat + 1))) ∧
  (∀ (s : State) (l a b : Nat) (arg : DWord),
    let cap := s.attempt s.cur.who.core fun s => s.readCap a b
    (cap = none → s.gate l a b arg = (.error .held, s)) ∧
    (∀ t, cap = some (none, t) → ∃ x, s.gate l a b arg = (.ok (1, x), t)) ∧
    ∀ c t, cap = some (some c, t) → let r := s.gate l a b arg
      let n := t.cur.who.core
      let die := n / 64
      let id := arg.toNat % 2 ^ 32
      let x := look GateTimer.init t.timers (id % 8192)
      let same : Prop := x.live = true ∧ x.gen = id / 8192 % 2 ^ 19 ∧ x.arm.asid = c.asid ∧ x.arm.target = c.target
      r = t.gateService l c arg ∧
      (t.reaches n (128 + die * 64) = true →
        (c.svc = 0 → t.freeTimers die = [] → (∃ y, r.1 = .ok (2, y)) ∧ r.2 = t) ∧
        (c.svc = 0 → t.freeTimers die ≠ [] → ∃ k ∈ t.freeTimers die, ∃ g,
          g = ((look GateTimer.init t.timers (timerKey die k)).gen + 1) % 2 ^ 19 ∧ r.1 = .ok (0, k + die * 4096 + g * 8192) ∧
          r.2 = { t with timers := put GateTimer.init t.timers (timerKey die k) ⟨g, ⟨arg, c.asid, c.target, t.time⟩, true⟩ }) ∧
        (c.svc = 1 → same → r = (.ok (0, 0), { t with timers := put GateTimer.init t.timers (id % 8192) { x with live := false } })) ∧
        (c.svc = 1 → ¬ same → r = (.ok (0, 1), t))) ∧
      (t.reaches n (128 + die * 64) = false → c.svc ≤ 1 → r = (.error .held, t)) ∧
      (c.svc = 2 → ∀ u, t.releaseBy n t.warp = (none, u) → r = (.ok (0, 0), u.doorbell c.target.toNat id)) ∧
      (c.svc = 4 → r = (.ok (0, (t.wakeTarget c.asid c.target id).1), (t.wakeTarget c.asid c.target id).2))) ∧
  ∀ (die k : Nat) (s : State), let x := look GateTimer.init s.timers (die * 4096 + k)
    (x.due s.time = false → exec (.gateTimerFire die k) s = .next s) ∧
    (x.due s.time = true → exec (.gateTimerFire die k) s = .next (s.fireTimer (die * 4096 + k) x) ∧
      ∀ y t, s.attempt (128 + (die * 4096 + k) / 4096 * 64) (fun s =>
        ({ s with timers := put GateTimer.init s.timers (die * 4096 + k) { x with live := false } } : State).wakeTarget
          x.arm.asid x.arm.target 0) = some (y, t) → s.fireTimer (die * 4096 + k) x = t)

/-- R261, R401 to R405: FQTAKE gives each active lane the oldest entry that none took, or eight zeros; FQRESUME ends the entry
of its word: each access that waits on it is taken up again, or takes its fault as a trap; a word of no entry is recorded. A lane
retried is runnable at its instruction, one that is delivered its fault stands at the handler, or is stopped where there is none;
a run retried goes on, one that is delivered it is abandoned.
What the rules leave open there is the model's choice: log entry 54. -/
def Sys2Proof.Machine.FaultEntries : Prop :=
  (∀ (o : WForm NoMod) (s : State), Executes (.fqtake o) s →
    let take (t : State) (l : Nat) : State :=
      let n := t.cur.who.core
      let c := t.core n
      match c.fqOrder.findSome? fun k => (find c.fq k).bind fun e => if e.taken then none else some (k, e) with
      | some (k, e) =>
        (t.setCore n { c with fq := ins c.fq k { e with taken := true } }).modLane l fun y =>
          ((fqWords k e).zipIdx).foldl (fun y x => y.wV s.cur.front (o.d.toNat + x.2) x.1) y
      | none => t.modLane l fun y => y.wVs s.cur.front o.d.toNat 8 0
    EndsWith (.fqtake o) o.g s (((lanesOf (s.activeOf o.g)).foldl take s).resultDue (s.activeOf o.g)) (s.activeOf o.g)) ∧
  (∀ (s : State) (n slot l t : Nat) (f : FaultRec) (task wid : Word) (cb : DWord) (who : Who), f.who = .lane slot task wid l cb →
    s.seatOf ⟨n, .slot slot⟩ task wid = some who → ((s.warpOf who).lane l).wait.isFault = true →
    let y := (s.warpOf who).lane l
    let z := ((s.retryFault n f t).warpOf who).lane l
    let d := ((s.deliverFault n f t).warpOf who).lane l
    let tvec := (s.core who.core).tvec
    (z.st = .runnable ∧ z.wait = .none ∧ z.pc = y.pc ∧ z.sv = y.sv ∧ z.v = y.v ∧ t ≤ ((s.retryFault n f t).core who.core).ct) ∧
    ∀ k, who.ctx = .slot k → (∀ draw j, d.tcause.read draw j = BitVec.ofNat 32 (f.sub % 256 * 256 + 0x10) ∧ d.tpc.read draw j = y.pc ++ 0#1) ∧
      (tvec.getLsbD 0 = true → d.st = .runnable ∧ d.sv = true ∧ d.pc = tvec.extractLsb' 1 63) ∧
      (tvec.getLsbD 0 = false → d.st = .waiting ∧ d.wait = .stopped ∧ d.pc = y.pc)) ∧
  (∀ (s : State) (n tag t : Nat) (f : FaultRec) (task wid : Word) (r : Run), f.who = .run tag task wid → find (s.core n).runs tag = some r →
    find ((s.retryFault n f t).core n).runs tag = some { r with held := false } ∧ (s.retryFault n f t).backlog = s.backlog ++ [r.goOn n tag] ∧
    find ((s.deliverFault n f t).core n).runs tag = none) ∧
  (∀ (k : Nat) (e : FqEntry), (fqWords k e).length = 8 ∧ (fqWords k e).getD 2 0 = e.first.va.extractLsb' 0 32 ∧
    (fqWords k e).getD 3 0 = e.first.va.extractLsb' 32 32) ∧
  (∀ (o : WForm NoMod) (s : State), Executes (.fqresume o) s →
    let cx := s.rdCx (o.lit.getD 0) o.perm
    ∀ s₁, s.release true .dev true (s.activeOf o.g) = (none, s₁) →
    let n := s₁.cur.who.core
    EndsWith (.fqresume o) o.g s
      (((lanesOf (s.activeOf o.g)).foldl (fun t l => t.fqResume l (BitVec.ofNat 32 (cx.srcA l o.a .i32)) (cx.srcB l o.b .i32)) s₁).fqFlush
        n (s₁.core n).fqCount) (s.activeOf o.g)) ∧
  ∀ (s : State) (l : Nat) (a : Word) (b : Nat), let n := s.cur.who.core
    let c := s.core n
    (2 ≤ b ∨ (∀ k e, (k, e) ∈ c.fq → fqWord0 k e ≠ a) → s.fqResume l a b = s.strayRecord 0x27 l 0) ∧
    ∀ k e, b < 2 → c.fq.find? (fun x => fqWord0 x.1 x.2 == a) = some (k, e) →
      let s₁ := s.setCore n { c with fq := del c.fq k, fqOrder := c.fqOrder.filter fun j => j ≠ k }
      s.fqResume l a b =
        (e.waits.foldl (fun t f => if b = 0 then t.retryFault n f c.ct else t.deliverFault n f c.ct) s₁).grantSlot n

/-! ### Special registers and maintenance -/

/-- R60 to R66, R263, R357: what CSRR reads; a read of %ipend that returns a message interrupt acquires. -/
def Sys2Proof.Machine.CsrReads : Prop :=
  (∀ (o : CsrForm) (s : State), Executes (.csrr o) s →
    let wide : Bool := o.num.toNat ∈ [0x010, 0x013, 0x020, 0x021, 0x031, 0x040, 0x042, 0x050]
    let n := s.cur.who.core
    let t := s.modWarp fun w => w.onLanes (s.activeOf o.g) fun l y =>
      y.wVs s.cur.front o.d.toNat (if wide then 2 else 1) (s.csr (s.rdCx 0 .none) l o.num.toNat).toNat
    EndsWith (.csrr o) o.g s
      (if o.num = 0x033 ∧ s.activeOf o.g ≠ 0 ∧ s.ipend n &&& 0xFFFF0000 ≠ 0 then t.acquire n t.agentTime else t) (s.activeOf o.g)) ∧
  ∀ (s : State) (l : Nat), l < 32 →
    let c := s.core s.cur.who.core
    let w := s.warp
    let y := w.lane l
    let r (n : Nat) : Nat := (s.csr (s.rdCx 0 .none) l n).toNat
    r 0x000 = l ∧ r 0x001 = w.wid.toNat ∧ r 0x002 = w.task.toNat ∧ (∀ k < 4, r (4 + k) = (look 0 w.grp k).toNat) ∧
    r 0x010 = 2 * s.cur.pc.toNat + (if s.cur.front = .sup then 1 else 0) ∧ r 0x011 = w.tilepart.toNat ∧
    (w.flagsDue = [] → r 0x012 = w.fmode.toNat) ∧ r 0x013 = c.tagbits.toNat ∧ r 0x020 = c.ct % 2 ^ 64 ∧ r 0x021 = s.time.toNat ∧
    r 0x030 = c.waymask.toNat ∧ r 0x031 = c.timecmp.toNat ∧ r 0x032 = c.imask.toNat ∧ r 0x033 = (s.ipend s.cur.who.core).toNat ∧
    r 0x040 = w.ptroot.toNat ∧ r 0x041 = w.asid.toNat ∧ r 0x042 = w.ctxbase.toNat ∧
    (y.tpc.opens = [] → r 0x050 = y.tpc.val.toNat) ∧ (y.tcause.opens = [] → r 0x051 = y.tcause.val.toNat) ∧
    (∀ k < 3, ((look zeroV y.tword k).opens = [] → r (0x052 + k) = (look zeroV y.tword k).val.toNat) ∧
      ((look zeroV y.top k).opens = [] → r (0x055 + k) = (look zeroV y.top k).val.toNat))

def Sys2Proof.Machine.csrInstr (op : CsrOp) (o : CsrForm) : Instr :=
  match op with | .write => .csrw o | .set => .csrs o | .clear => .csrc o

/-- R61 to R66, R263: what CSRW, CSRS and CSRC write: the value, the value ORed in, or the register without the value's bits;
once, from the lowest active lane, but for the registers of a lane, which each active lane writes. A write of %waymask that
is no valid mask or would take bytes in use is ignored, and else holds its front. -/
def Sys2Proof.Machine.CsrWrites : Prop :=
  ∀ (op : CsrOp) (o : CsrForm) (s : State), Executes (csrInstr op o) s → s.activeOf o.g ≠ 0 →
    let act := s.activeOf o.g
    let cx := s.rdCx 0 .none
    let n := s.cur.who.core
    let c := s.core n
    let wide : Bool := o.num.toNat ∈ [0x031, 0x040, 0x050]
    let arg (l : Nat) : DWord := BitVec.ofNat 64 (cx.srcA l o.a (if wide then .i64 else .i32))
    let new (l : Nat) : DWord :=
      let old := s.csr cx l o.num.toNat
      match op with | .write => arg l | .set => old ||| arg l | .clear => old &&& ~~~arg l
    let v := new (lowLane act)
    let v32 : Word := v.setWidth 32
    let core (f : Core → Core) : Prop := EndsWith (csrInstr op o) o.g s (s.modCore n f) act
    let warp (f : Warp → Warp) : Prop := EndsWith (csrInstr op o) o.g s (s.modWarp f) act
    let lane (f : Nat → Lane → Lane) : Prop := warp fun w => w.onLanes act f
    match o.num.toNat with
    | 0x011 => warp fun w => { w with tilepart := if 1 ≤ v.toNat % 8 ∧ v.toNat % 8 ≤ 5 then BitVec.ofNat 32 (v.toNat % 8) else 5 }
    | 0x012 => s.warp.flagsDue = [] → warp fun w => { w with fmode := v32 &&& 0x1F0F }
    | 0x030 =>
      (c.wayPend = none → c.waysRefused (v.setWidth 12) = true → EndsWith (csrInstr op o) o.g s s act) ∧
      (c.wayPend = none → c.waysRefused (v.setWidth 12) = false → EndsWith (csrInstr op o) o.g s
        (((s.setCore n { c with wayPend := some (v.setWidth 12) }).modWarp fun w =>
          w.setFront s.cur.front { w.front s.cur.front with hold := .waymask }).push (.waymaskTakeEffect n)) act)
    | 0x031 => core fun c => { c with timecmp := v }
    | 0x032 => core fun c => { c with imask := v32 &&& 0xFFFF001F }
    | 0x033 => op ≠ .clear → core fun c => { c with ipendEdge := c.ipendEdge &&& ~~~((arg (lowLane act)).setWidth 32 &&& 0xFFFF0018) }
    | 0x040 => warp fun w => { w with ptroot := v &&& 0x00FFFFFFFFFF0001 }
    | 0x041 => warp fun w => { w with asid := v32 &&& 0xFFFF }
    | 0x050 => lane fun l y => { y with tpc := Cell.write s.cur.front (new l) y.tpc }
    | 0x051 => lane fun l y => { y with tcause := Cell.write s.cur.front ((new l).setWidth 32 &&& 0xFFFF) y.tcause }
    | 0x052 | 0x053 | 0x054 => lane fun l y =>
        { y with tword := upd zeroV y.tword (o.num.toNat - 0x052) (Cell.write s.cur.front ((new l).setWidth 32)) }
    | 0x055 | 0x056 | 0x057 => lane fun l y =>
        { y with top := upd zeroV y.top (o.num.toNat - 0x055) (Cell.write s.cur.front ((new l).setWidth 32)) }
    | _ => True

/-- R63, R418: a write of %waymask takes effect once no run uses the ways that it removes; the windows there are written back
and go, and every front that the write held goes on.
What the rules leave open there is the model's choice: log entry 55. -/
def Sys2Proof.Machine.WaysChange : Prop :=
  ∀ (n : Nat) (s : State), let c := s.core n
    (c.wayPend = none → exec (.waymaskTakeEffect n) s = .next s) ∧
    ∀ m, c.wayPend = some m →
      (s.waysBusy n m = true → exec (.waymaskTakeEffect n) s = .next s) ∧
      (s.waysBusy n m = false →
        let gone := c.windows.filter fun x => decide (wayBytes m < (c.run x.task).base + x.soff + x.len)
        let u := gone.foldl (fun u x => u.unmap n x) s
        let u := if m = 0xFFF then (u.core n).l1.foldl (fun u e => u.dropL1 n e.1) u else u
        Answers (.waymaskTakeEffect n) s fun t =>
          (t.core n).waymask = m ∧ (t.core n).wayPend = none ∧ (t.core n).l1 = (u.core n).l1 ∧ (t.core n).windows = (u.core n).windows ∧
          (∀ w : Who, w.core = n → ∀ f, ((t.warpOf w).front f).hold ≠ .waymask) ∧
          t.backlog = u.backlog ++ [.taskPlacement] ∧
          (∀ k, k ≠ n → t.core k = u.core k) ∧ t.mem = u.mem ∧ t.slices = u.slices ∧ t.poison = u.poison)

/-- R264: VRDI reads, and VWRI writes, the vector register of the lane's index modulo 256; beyond the allocation VRDI gives
0 and VWRI writes nothing. -/
def Sys2Proof.Machine.RegisterIndex : Prop :=
  ∀ (o : WForm NoMod) (s : State),
    let cx := s.rdCx (o.lit.getD 0) o.perm
    let i (l : Nat) : Nat := cx.srcA l o.a .i32 % 256
    let act := s.activeOf o.g
    (Executes (.vrdi o) s → EndsWith (.vrdi o) o.g s (s.modWarp fun w => w.onLanes act fun l y =>
      y.wV s.cur.front o.d.toNat (if i l < s.warp.vAlloc then cx.rV 5 l l (i l) else 0)) act) ∧
    (Executes (.vwri o) s → EndsWith (.vwri o) o.g s (s.modWarp fun w => w.onLanes act fun l y =>
      if i l < s.warp.vAlloc then y.wV s.cur.front (i l) (BitVec.ofNat 32 (cx.srcB l o.b .i32)) else y) act)

/-- R265: TLBI, TLBIA and TLBIG drop from every core the translations of the lanes' addresses and ASIDs, of their ASIDs, and
all of them; nothing in memory changes.
What the rules leave open there is the model's choice: log entry 57. -/
def Sys2Proof.Machine.TranslationsDropped : Prop :=
  ∀ (o : WForm NoMod) (s : State),
    let cx := s.rdCx (o.lit.getD 0) o.perm
    let asid (l : Nat) : Word := BitVec.ofNat 32 (cx.srcB l o.b .i32 % 65536)
    let drops (i : Instr) (p : Nat → TlbEntry → Prop) : Prop := Executes i s → Answers i s fun t =>
      (∀ n e, e ∈ (t.core n).tlb ↔ e ∈ (s.core n).tlb ∧ ∀ l ∈ lanesOf (s.activeOf o.g), ¬ p l e) ∧
      t.mem = s.mem ∧ t.slices = s.slices ∧ t.poison = s.poison
    drops (.tlbi o) (fun l e => (pteBit e.pte 7 = true ∨ e.asid = asid l) ∧ e.va ≤ cx.srcA l o.a .i64 ∧ cx.srcA l o.a .i64 < e.va + e.size) ∧
    drops (.tlbia o) (fun l e => e.asid = asid l) ∧ drops (.tlbig o) fun _ _ => True

/-- R265: CFLUSH, CINV and ICINV act lane by lane on the line of the lane's address, and end as at a switch marker. CFLUSH puts
the dirty bytes of a line into memory, where the slice keeps it clean, what a window holds of it first; CINV drops the line from
the slice, from the core's L1 and from every window, and memory does not change. After ICINV of a line that no window holds, no core keeps an instruction copy of it, under whatever address it is forwarded from.
What the rules leave open there is the model's choice: log entries 56, 97. -/
def Sys2Proof.Machine.CacheLines : Prop :=
  (∀ (o : WForm NoMod) (s : State),
    let cx := s.rdCx (o.lit.getD 0) o.perm
    let act := s.activeOf o.g
    let does (i : Instr) (acc : Acc) (f : State → Nat → State) : Prop :=
      Executes i s → ∀ t, lanesRun (cacheLane acc f o cx (s.ax false)) (lanesOf act) s = some t →
        EndsWith i o.g s ((t.fqFlush s.cur.who.core (s.core s.cur.who.core).fqCount).marks act) act
    does (.cflush o) .read State.flushLine ∧ does (.cinv o) .write (fun t => t.dropLine t.cur.who.core) ∧
    does (.icinv o) .icache State.dropCopies) ∧
  ∀ (s : State) (pa n : Nat), let pl := s.fwd pa / 128
    (s.holders (pa / 128) = [] → ∀ e ∈ ((s.dropCopies pa).core n).icache, s.fwd (e.1 * 128) / 128 ≠ pl) ∧
    (∀ m w k, s.holders (pa / 128) = [(m, w, k)] →
      s.flushLine pa = (s.backEntry m w k).cleanSlice ((s.backEntry m w k).fwd pa / 128)) ∧
    (∀ x, s.holders (pa / 128) = [] → devOf (pl * 128) = s.devnum → s.trainedAt (pl * 128) = true →
      find (s.slice (s.homeSlice pl)).lines pl = some x → x.dirty = true →
      let t := s.flushLine pa
      (∀ i < 128, look 0 t.mem (localOf (pl * 128) + i) = look 0 x.data i) ∧
      (∀ a, a < localOf (pl * 128) ∨ localOf (pl * 128) + 128 ≤ a → look 0 t.mem a = look 0 s.mem a) ∧
      find (t.slice (s.homeSlice pl)).lines pl = some { x with dirty := false }) ∧
    (s.still → s.parcelsFree → devOf (pl * 128) = s.devnum →
      let t := s.dropLine n pa
      t.mem = s.mem ∧ find (t.core n).l1 pl = none ∧ find (t.slice (s.homeSlice pl)).lines pl = none ∧
      ∀ m w k e, w ∈ (t.core m).windows → find w.entries k = some e → e.line ≠ pl)

/-- R266, R419, R420: OSAVE and ODROP give up the orphaned parcels of the lanes' addresses in turn: status 1 for a parcel that
is not orphaned; else status 0 and the number of modified lines, and the parcel is held no longer. ODROP writes nothing. A
rescue area that may not be reached stops OSAVE with its SUB where there is a line to rescue.
What the rules leave open there is the model's choice: log entry 58. -/
def Sys2Proof.Machine.Orphans : Prop :=
  (∀ (o : WForm NoMod) (s : State),
    let cx := s.rdCx (o.lit.getD 0) o.perm
    let gives (rescue : Nat → Option Nat) (l : Nat) (t : State) : Option Stop × State :=
      match t.orphan (cx.srcA l o.a .i64) (rescue l) with
      | (.error e, u) => (some e, u)
      | (.ok r, u) => (none, u.modLane l fun y =>
        (y.wV s.cur.front o.d.toNat (BitVec.ofNat 32 r.1)).wV s.cur.front (o.d.toNat + 1) (BitVec.ofNat 32 r.2))
    let ends (i : Instr) (rescue : Nat → Option Nat) : Prop := Executes i s → LanesDo i o.g s s (gives rescue) true
    ends (.osave o) (fun l => some (s.devnum * 2 ^ 45 + cx.srcB l o.b .i64 % 2 ^ 45 / 2048 * 2048)) ∧ ends (.odrop o) (fun _ => none) ∧
    (Executes (.odrop o) s → ∃ t, lanesRun (gives fun _ => none) (lanesOf (s.activeOf o.g)) s = some t) ∧
    (Executes (.osave o) s → (∀ l ∈ lanesOf (s.activeOf o.g), look .none s.fabric.held (cx.srcA l o.a .i64 / 2048) ≠ .orphaned) →
      Answers (.osave o) s fun t => ∀ l ∈ lanesOf (s.activeOf o.g), s.gives t l o.d.toNat 1 ∧ s.gives t l (o.d.toNat + 1) 0)) ∧
  ∀ (s : State) (pa : Nat) (rescue : Option Nat),
    let p := pa / 2048
    let ls := s.modified p
    (look .none s.fabric.held p ≠ .orphaned → s.orphan pa rescue = (.ok (1, 0), s)) ∧
    (look .none s.fabric.held p = .orphaned →
      (∀ base k, rescue = some base → ls ≠ [] → s.barred base 2048 = some k → s.orphan pa rescue = (.error (.trap ⟨0x14, k⟩), s)) ∧
      ((∀ base, rescue = some base → ls = [] ∨ s.barred base 2048 = none) →
        (s.orphan pa rescue).1 = .ok (0, ls.length) ∧ look .none (s.orphan pa rescue).2.fabric.held p = .none) ∧
      (rescue = none → (s.orphan pa rescue).2.mem = s.mem ∧
        ∀ q, q ≠ p → look .none (s.orphan pa rescue).2.fabric.held q = look .none s.fabric.held q) ∧
      ∀ base i, rescue = some base → base % 2048 = 0 → s.dramAt base 2048 → s.still → s.parcelsFree → devOf pa ≠ s.devnum →
        ls = [p * 16 + i] → i < 16 → ∀ j < 128,
          (s.orphan pa rescue).2.held (base + 128 * i + j) = look 0 (s.l2 (p * 16 + i)).data j)

/-! ### The tick and what it makes due -/

/-- R308, R281, R341, R344, R345, R350: a global tick advances %time by 1, or by 0 or 2 where it may slew, after which 4,095
ticks do not. The deadlines of WAITV that the tick has reached are met as it ends; the timers that the new tick reaches fire
as it begins, where the ways from the units are open; copies, clock advances, the decay of the reuse counters and the events that
waited for a way come about next (log entry 127). On a device with a fatal record only time goes on (R427). TIMER of %ipend is
the comparison of %time.
What the rules leave open there is the model's choice: log entries 70, 71. -/
def Sys2Proof.Machine.Ticks : Prop :=
  ∀ s : State,
    (∀ adv : Fin 3, Answers (.globalTick adv) s fun t =>
      t.time = s.time + (if s.maySlew adv then BitVec.ofNat 64 adv.val else 1) ∧ t.ticked = true ∧ t.tape = s.tape ∧
      t.fabric.slewWait = (if adv ≠ 1 ∧ s.maySlew adv = true then 4095 else s.fabric.slewWait - 1) ∧
      (s.fatal = true → t = { s with time := t.time, fabric := t.fabric, ticked := true, draw := s.draw + 1 }) ∧
      (s.fatal = false → ∀ e ∈ t.gaz, ∀ g ∈ e.lanes, g.deadline = 0 ∨ s.time < g.deadline) ∧
      (s.fatal = false → canon GateTimer.init s.timers = true → (∀ p < 16, s.linkUp p = true) →
        (∀ a, s.reaches 128 (128 + s.homeSlice a) = true ∧ s.reaches 192 (128 + s.homeSlice a) = true) →
        ∀ k < 8192, (look GateTimer.init t.timers k).live = true → t.time < (look GateTimer.init t.timers k).arm.deadline) ∧
      (s.fatal = false → t.parked = [] ∧ ∃ due, (∀ e ∈ s.parked, e.2 ∈ due) ∧ t.backlog = s.backlog ++ due ∧ (∀ i ∈ s.endTick.copiesDue, i ∈ due) ∧
        (t.time.toNat / 16 ≠ s.time.toNat / 16 → .logicalClockAdvance ∈ due) ∧
        (t.time.toNat / 32768 ≠ s.time.toNat / 32768 → .predictorDecay ∈ due))) ∧
    (∀ n, exec (.timecmpMatch n) s = .next s ∧ ((s.core n).timecmp ≤ s.time → (s.ipend n).getLsbD 0 = true)) ∧
    ∀ adv, s.maySlew adv = true → s.fabric.timeMaster = false ∧ s.fabric.slewWait = 0

/-- R281, R308: every clock of a core goes on by 1; every reuse counter above 0 loses 1.
What the rules leave open there is the model's choice: log entry 71. -/
def Sys2Proof.Machine.ClocksAndCounters : Prop :=
  ∀ s : State,
    (Answers .logicalClockAdvance s fun t =>
      t = { s with cores := t.cores } ∧
      ∀ n, t.core n = if n < 128 then { s.core n with ct := (s.core n).ct + 1 } else s.core n) ∧
    (rising s.slices = true → (∀ h, canon 0 (s.slice h).pred = true) → Answers .predictorDecay s fun t =>
      t = { s with slices := t.slices } ∧
      ∀ h k, (look 0 (t.slice h).pred k).toNat = (look 0 (s.slice h).pred k).toNat - 1 ∧
        t.slice h = { s.slice h with pred := (t.slice h).pred })

/-- R214, R215, R350, R351: the lanes of an entry whose deadline fell in an earlier tick leave it with status 2; an entry
without lanes goes, and the home of a peer's word hears of it; a peer's wake releases the entry that it names with status 0; a
proxy whose entry has emptied goes. -/
def Sys2Proof.Machine.EntriesEnd : Prop :=
  ∀ (die k : Nat) (s : State),
    ((s.gaz.filter fun e => e.die == die)[k]? = none →
      exec (.waitvDeadline die k) s = .next s ∧ exec (.proxyEntryEmptied die k) s = .next s) ∧
    (∀ e, (s.gaz.filter fun e => e.die == die)[k]? = some e →
      let due (g : GazLane) : Bool := g.deadline != 0 && decide (g.deadline < s.time)
      let rest := e.lanes.filter fun g => !due g
      let u : State := (e.lanes.filter due).foldl (fun u g => u.gazWake e g 2 0) s
      (Answers (.waitvDeadline die k) s fun t =>
        (rest = [] → e.lanes ≠ [] → e ∉ t.gaz ∧ (∀ x, x ≠ e → (x ∈ t.gaz ↔ x ∈ s.gaz)) ∧
          (∀ w i j c, e.owner = .warp w i j c → devOf e.pa ≠ s.devnum → t = { u.toHome e.pa (.emptied e.id) with gaz := t.gaz }) ∧
          (devOf e.pa = s.devnum → t = { u with gaz := t.gaz })) ∧
        (rest ≠ [] → { e with lanes := rest } ∈ t.gaz ∧ t.gaz.length = s.gaz.length ∧ t = { u with gaz := t.gaz })) ∧
      (∀ dev en n, e.owner = .proxy dev en n → Answers (.proxyEntryEmptied die k) s fun t =>
        t = { s with gaz := t.gaz } ∧ e ∉ t.gaz ∧ ∀ x, x ≠ e → (x ∈ t.gaz ↔ x ∈ s.gaz)) ∧
      ((∀ dev en n, e.owner ≠ .proxy dev en n) → exec (.proxyEntryEmptied die k) s = .next s)) ∧
    ((∀ e ∈ s.gaz, e.die = die → e.id = k → devOf e.pa = s.devnum) → exec (.proxyWake die k) s = .next s) ∧
    ∀ e, (s.gaz.find? fun e => e.die == die && e.id == k && devOf e.pa != s.devnum) = some e →
      Answers (.proxyWake die k) s fun t => t = { s.wakeEntry e 0 s.ff with gaz := t.gaz } ∧ e ∉ t.gaz ∧
        ∀ x, x ≠ e → (x ∈ t.gaz ↔ x ∈ s.gaz)

/-! ### Crest slots -/

/-- R288, R290, R291, R414: the end of a row copy: a promotion that succeeds leaves the slot in use and one that fails frees
it; a copy-back that succeeds leaves it clean, one that fails is tried again 1,000 ticks later, and the second failure holds
the slot. A marked dirty slot starts its copy-back. The accesses that waited for the copy are made then. -/
def Sys2Proof.Machine.SlotCopies : Prop :=
  ∀ (id : SlotId) (s : State), let k := id.bank * 1024 + id.row
    (find s.memctl.slots k = none →
      (∀ f, exec (.rowCopyEnd id f) s = .next s ∧ exec (.copybackRetry id f) s = .next s) ∧ exec (.markedSlotCopyback id) s = .next s) ∧
    (∀ x f t, find s.memctl.slots k = some x → x.busy ≠ .none → rising s.memctl.slots = true →
      exec (.rowCopyEnd id f) (s.setMem fun m => { m with slots := ins m.slots k { x with waits := [] } }) = .next t →
      exec (.rowCopyEnd id f) s = .next (t.makeAccesses id.bank x.waits)) ∧
    ∀ x, find s.memctl.slots k = some x → x.waits = [] →
      let becomes (i : Instr) (y : CrestSlot) : Prop := Answers i s fun t =>
        find t.memctl.slots k = some y ∧ (∀ j, j ≠ k → find t.memctl.slots j = find s.memctl.slots j) ∧ t.cores = s.cores
      let fails (i : Instr) : Prop := exec i s = .next ((s.setMem fun m => { m with slots := ins m.slots k { x with
          busy := .none, fails := x.fails + 1, retryAt := s.time + 1000, next := if 1 ≤ x.fails then none else x.next } }).memRecord
        (if 1 ≤ x.fails then .degraded else .corrected) 0x28 (if 1 ≤ x.fails then 3 else 2) (k / 1024))
      (∀ f, x.busy = .none → exec (.rowCopyEnd id f) s = .next s) ∧
      (x.busy = .promote → becomes (.rowCopyEnd id false) { x with busy := .none } ∧
        exec (.rowCopyEnd id true) s =
          .next ((s.setMem fun m => { m with slots := del m.slots k }).memRecord .corrected 0x28 1 id.bank)) ∧
      (x.busy = .copyBack → (x.next = none → becomes (.rowCopyEnd id false) { x with busy := .none, dirty := false, fails := 0 }) ∧
        fails (.rowCopyEnd id true)) ∧
      (x.busy = .evict → (x.next = none → Answers (.rowCopyEnd id false) s fun t => find t.memctl.slots k = none) ∧
        (∀ row by_, x.next = some (row, by_) → becomes (.rowCopyEnd id false)
          { row := row, dirty := false, by_ := by_, marked := x.nextMark, busy := .promote, fails := 0, retryAt := 0, next := none,
            act := s.memctl.actNo + 2 }) ∧
        fails (.rowCopyEnd id true)) ∧
      (x.fails = 1 → x.busy = .none → x.retryAt ≤ s.time →
        exec (.copybackRetry id true) s = .next (((s.copyNow k x.row).setMem fun m => { m with slots := ins m.slots k { x with
          busy := .none, fails := 2, retryAt := s.time + 1000, next := none, act := s.memctl.actNo + 2 } }).memRecord
            .degraded 0x28 3 (k / 1024)) ∧
        (x.next = none → becomes (.copybackRetry id false)
          { x with busy := .none, dirty := false, fails := 0, act := s.memctl.actNo + 2 })) ∧
      (x.fails ≠ 1 ∨ x.busy ≠ .none ∨ s.time < x.retryAt → ∀ f, exec (.copybackRetry id f) s = .next s) ∧
      (x.marked = true → x.dirty = true → x.busy = .none → x.fails = 0 →
        becomes (.markedSlotCopyback id) { x with busy := .copyBack, act := s.memctl.actNo + 2 }) ∧
      (x.marked = false ∨ x.dirty = false ∨ x.busy ≠ .none ∨ x.fails ≠ 0 → exec (.markedSlotCopyback id) s = .next s)

/-- R290: an activation with LCL 01 that is the fourth of an apron row within 1,024 ns makes the row's promotion due, one
with another LCL makes none due; a promotion that is due is made where the row has no slot, in the free slot of the lowest row,
and where no slot is free or may be taken there is none; else nothing changes.
What the rules leave open there is the model's choice: log entries 24, 119. -/
def Sys2Proof.Machine.RepeatedActivations : Prop :=
  (∀ (pa : Nat) (wr : Bool) (s : State), let b := bankRow (localOf pa)
    localOf pa < 0x00B400000000 → s.memctl.slotFor b.bankNo b.row = none → look 0 s.memctl.openRow b.bankNo ≠ b.row + 1 →
      (∀ t1 t2 t3, (look [] s.memctl.acts b.bankNo).find? (fun a => a.row == b.row) = some ⟨b.row, [t1, t2, t3]⟩ →
        s.time.toNat - t3.toNat < 1024 →
        localOf pa / 1024 ∈ (s.touchRow pa 1 wr).memctl.due ∧
        (s.touchRow pa 1 wr).backlog = s.backlog ++ [.repeatedActivationPromotion (localOf pa / 1024)]) ∧
      ∀ lcl, lcl ≠ 1 → (s.touchRow pa lcl wr).memctl.due = s.memctl.due ∧ (s.touchRow pa lcl wr).backlog = s.backlog) ∧
  ∀ (chunk : Nat) (s : State), let b := bankRow (chunk * 1024)
    let taken : State := s.setMem fun m => { m with due := m.due.filter fun k => k ≠ chunk }
    (chunk ∉ s.memctl.due → exec (.repeatedActivationPromotion chunk) s = .next s) ∧
    (chunk ∈ s.memctl.due →
      ((s.memctl.slotFor b.bankNo b.row).isSome = true → exec (.repeatedActivationPromotion chunk) s = .next taken) ∧
      (s.memctl.slotFor b.bankNo b.row = none →
        (∀ r, s.freeSlot b.bankNo = some r → Answers (.repeatedActivationPromotion chunk) s fun t =>
          chunk ∉ t.memctl.due ∧ find t.memctl.slots (b.bankNo * 1024 + r) = some
            { row := b.row, dirty := false, by_ := .policy, marked := false, busy := .promote, fails := 0, retryAt := 0, next := none,
              act := s.memctl.actNo + 2 }) ∧
        (s.freeSlot b.bankNo = none → (∀ e ∈ s.memctl.slots, e.1 / 1024 = b.bankNo → e.2.locked = true ∨ (e.2.dirty = true ∧ e.2.marked = false)) →
          exec (.repeatedActivationPromotion chunk) s = .next taken)))

/-- R415: SLOTCMD: a pinned row answers 1, a held or busy slot 2, and a slot that goes out of use or comes back 0; a try to copy
a held slot back frees it or answers 3. -/
def Sys2Proof.Machine.SlotCommands : Prop :=
  ∀ (id : SlotId) (s : State), let k := id.bank * 1024 + id.row
    let st (v : Nat) : State := s.setMem fun m => { m with slotSt := v }
    let out (s : State) : State := s.setMem fun m => { m with slots := del m.slots k, retired := put false m.retired k true, slotSt := 0 }
    (id.row < 64 * s.pinned → exec (.slotRetire id) s = .next (st 1)) ∧
    (64 * s.pinned ≤ id.row → find s.memctl.slots k = none → exec (.slotRetire id) s = .next (out s)) ∧
    (∀ x, 64 * s.pinned ≤ id.row → find s.memctl.slots k = some x →
      (x.busy ≠ .none ∨ 2 ≤ x.fails → exec (.slotRetire id) s = .next (st 2)) ∧
      (x.busy = .none → x.fails < 2 → x.dirty = false → exec (.slotRetire id) s = .next (out s)) ∧
      (x.busy = .none → x.fails < 2 → x.dirty = true → let c := s.copyNow k x.row
        exec (.slotRetire id) s = .next (out c) ∨
          exec (.slotRetire id) s = .next ((c.copybackFails k { x with act := c.memctl.actNo }).setMem fun m => { m with slotSt := 2 }))) ∧
    (let back : State := s.setMem fun m => { m with retired := put false m.retired k false, slotSt := 0 }
     (id.row < 64 * s.pinned → exec (.slotReturn id) s = .next (st 1)) ∧
     (64 * s.pinned ≤ id.row → find s.memctl.slots k = none → exec (.slotReturn id) s = .next back) ∧
     ∀ x, 64 * s.pinned ≤ id.row → find s.memctl.slots k = some x →
       (x.busy ≠ .none ∨ 2 ≤ x.fails → exec (.slotReturn id) s = .next (st 2)) ∧
       (x.busy = .none → x.fails < 2 → exec (.slotReturn id) s = .next back)) ∧
    ∀ f, (id.row < 64 * s.pinned → exec (.slotCopybackTry id f) s = .next (st 1)) ∧
      (64 * s.pinned ≤ id.row → find s.memctl.slots k = none → exec (.slotCopybackTry id f) s = .next (st 0)) ∧
      ∀ x, 64 * s.pinned ≤ id.row → find s.memctl.slots k = some x →
        let c := s.copyNow k x.row
        (x.fails < 2 → exec (.slotCopybackTry id f) s = .next (st (if x.busy = .none then 0 else 2))) ∧
        (2 ≤ x.fails → f = true → exec (.slotCopybackTry id f) s = .next (c.setMem fun m => { m with slotSt := 3 })) ∧
        (2 ≤ x.fails → f = false → exec (.slotCopybackTry id f) s = .next (c.setMem fun m =>
          { m with slots := ins m.slots k { x with dirty := false, fails := 0, busy := .none, act := c.memctl.actNo }, slotSt := 0 }))

/-! ### Caches, DRAM, the configuration record -/

/-- R281, R308, R309: a fill gives the core's L1 a copy of the line as its home holds it, with a lease that the home's RTS
covers; an eviction writes a dirty line to memory and drops it, its RTS staying under MTS; window entries of a line go home. -/
def Sys2Proof.Machine.LinesMove : Prop :=
  (∀ (n line : Nat) (s : State),
    (128 ≤ n ∨ s.cacheable line = false ∨ (s.core n).waymask = 0xFFF → exec (.fillRequest n line) s = .next s) ∧
    (n < 128 → s.cacheable line = true → (s.core n).waymask ≠ 0xFFF → Answers (.fillRequest n line) s fun t =>
      ∃ y, find (t.core n).l1 line = some y ∧ y.data = (t.l2 line).data ∧ y.cwts = (t.l2 line).wts ∧ y.crts ≤ (t.l2 line).rts ∧
        (t.core n).ct ≤ y.crts) ∧
    ((∀ h ∈ s.holders line, h.1 ≠ n) → exec (.storeAtHome n line) s = .next s) ∧
    (∀ w k, s.holders line = [(n, w, k)] → exec (.storeAtHome n line) s = .next (s.backEntry n w k))) ∧
  ∀ (h line : Nat) (s : State),
    (s.homeSlice line ≠ h ∨ find (s.slice (s.homeSlice line)).lines line = none → exec (.sliceEviction h line) s = .next s) ∧
    ∀ x, s.homeSlice line = h → find (s.slice h).lines line = some x → Answers (.sliceEviction h line) s fun t =>
      find (t.slice h).lines line = none ∧ x.rts ≤ (t.slice h).mts ∧
      (x.dirty = false → t.mem = s.mem ∧ t.peer = s.peer) ∧
      (x.dirty = true → t.mem = (s.writeLine line x.data).mem ∧ t.peer = (s.writeLine line x.data).peer)

/-- R283, R406, R407, R413, R416, R450: what a read of DRAM finds: nothing, a corrected error that is recorded and counted, or
a sector that is poisoned and recorded. A slice and a stash poison the sector of an uncorrectable error, an L1 drops its copy. An error in the crest segment is one of the pinned window or of a slot's copy. On-die counts are kept by stack; a refresh
adopts the timings of the plan in force.
What the rules leave open there is the model's choice: log entries 67, 68. -/
def Sys2Proof.Machine.DramReads : Prop :=
  ∀ s : State,
    (∀ sector, let pa := s.devnum * 2 ^ 45 + 32 * sector
      let b := bankRow (localOf pa)
      let rec_ (sev : Sev) (cause : Nat) : Record :=
        { sev := sev, src := 3, cause := cause, sub := 1, unit := b.bankNo / 64, addr := BitVec.ofNat 64 pa }
      (s.place pa ≠ .dram → ∀ r, exec (.dramPatrolRead (.dram sector) r) s = .next s) ∧
      (s.place pa = .dram →
        exec (.dramPatrolRead (.dram sector) .clean) s = .next (if (find s.poison (pa / 32)).isSome then s.append (rec_ .contained 0x2A) else s) ∧
        (∀ seg, (0x00B400000000 ≤ localOf pa → seg = 0) →
          (localOf pa < 0x00B400000000 → (s.append (rec_ .corrected 0x29)).memctl.slotOf b.bankNo b.row = none → seg = 1) →
          (∀ k x, localOf pa < 0x00B400000000 → (s.append (rec_ .corrected 0x29)).memctl.slotOf b.bankNo b.row = some (k, x) →
            seg = if x.busy = .promote then 1 else 0) →
          exec (.dramPatrolRead (.dram sector) .corrected) s =
            .next ((s.append (rec_ .corrected 0x29)).countEcc (b.bankNo / 64) seg)) ∧
        ((∀ x, find (s.slice (s.homeSlice (pa / 128))).lines (pa / 128) = some x → x.dirty = false) →
          exec (.dramPatrolRead (.dram sector) .uncorrectable) s =
            .next (({ s with poison := markPoison s.poison (pa / 32) } : State).append (rec_ .contained 0x2A))))) ∧
    (∀ k, exec (.dramPatrolRead (.slice k) .uncorrectable) s =
      .next (({ s with poison := markPoison s.poison k } : State).append
        { sev := .contained, src := 1, cause := 0x2A, sub := 2, unit := s.homeSlice (k / 4), addr := BitVec.ofNat 64 (32 * k) })) ∧
    (∀ n k, exec (.dramPatrolRead (.stash n k) .uncorrectable) s =
      .next ((s.modCore n fun c => { c with stashPoison := markPoison c.stashPoison k }).recordErr n
        { cause := 0x2A, sub := 3, sev := .contained, unit := 3, lane := 0, wid := 0, task := 0, addr := 0 })) ∧
    (∀ n line r, r ≠ .clean → exec (.dramPatrolRead (.l1 n line) r) s =
      .next ((s.dropL1 n line).recordErr n { cause := 0x29, sub := 3, sev := .corrected, unit := 3, lane := 0, wid := 0, task := 0, addr := 0 })) ∧
    (∀ pc seg, let c := look (0, 0) s.memctl.eccCount (pc * 2 + seg)
      (c.1 + 1 < s.memctl.ecthr.toNat → c.1 ≠ 0 → s.time.toNat - c.2.toNat ≤ 2 ^ 30 →
        s.countEcc pc seg = s.setMem fun m => { m with eccCount := put (0, 0) m.eccCount (pc * 2 + seg) (c.1 + 1, c.2) }) ∧
      (s.memctl.ecthr.toNat ≤ c.1 + 1 → c.1 ≠ 0 → s.time.toNat - c.2.toNat ≤ 2 ^ 30 →
        s.countEcc pc seg = (s.setMem fun m => { m with eccCount := put (0, 0) m.eccCount (pc * 2 + seg) (0, 0) }).append
          { sev := .degraded, src := 3, cause := 0x2D, sub := seg, unit := pc })) ∧
    (∀ stack n, stack < 12 → exec (.eccCountRead stack n) s =
      .next (s.setMem fun m => { m with eccStack := put 0 m.eccStack stack n })) ∧
    ∀ bank rfm, Answers (.dramRefresh bank rfm) s fun t =>
      t = { s with draw := s.draw + 1, survey := t.survey, memctl := { s.memctl with openRow := t.memctl.openRow, raa := t.memctl.raa } } ∧
      look 0 t.memctl.openRow bank = 0 ∧ (rfm = true → look 0 t.memctl.raa bank = 0) ∧ (rfm = false → t.memctl.raa = s.memctl.raa) ∧
      look 0 t.survey.bankPlan bank = s.survey.adopted ∧ look 0 t.survey.refreshes bank = look 0 s.survey.refreshes bank + 1 ∧
      ∀ b, b ≠ bank → look 0 t.survey.bankPlan b = look 0 s.survey.bankPlan b

/-- R314, R366, R435: MCFG sets P once, until it is locked. A migration starts where none is, copies, forwards until it is
ended: the page's bytes and poison stand at the new home. A home move needs a retired core without warps, a slice without
regions and a replacement in use: HOMEMAP names the replacement where it named the slice, and no byte of memory changes.
What the rules leave open there is the model's choice: log entries 35, 69, 82. -/
def Sys2Proof.Machine.MemoryControl : Prop :=
  ∀ s : State, let set (f : MemCtl → MemCtl) : State := s.setMem f
    (∀ v, (s.memctl.lock = true → exec (.mcfgLock v) s = .next s) ∧
      (s.memctl.lock = false → exec (.mcfgLock v) s = .next { set fun m => { m with lock := v.getLsbD 31 } with
        pinned := if v.toNat % 16 ≤ 8 then v.toNat % 16 else s.pinned })) ∧
    (s.memctl.migSt ≠ .idle → exec .migrationStart s = .next s) ∧
    (s.memctl.migSt = .idle → exec .migrationStart s = .next ((set fun m => { m with migSt := .copying }).push .migrationCopyDone)) ∧
    (s.memctl.migSt ≠ .copying → exec .migrationCopyDone s = .next s) ∧
    (s.memctl.migSt = .copying → s.place s.memctl.migOld.toNat = .dram →
      s.place s.memctl.migNew.toNat = .dram ∨ s.place s.memctl.migNew.toNat = .peer →
      s.fabric.lost.contains (devOf s.memctl.migNew.toNat) = false →
        let t := s.copyPage s.memctl.migOld.toNat s.memctl.migNew.toNat (2 ^ (12 + 2 * s.memctl.migPs))
        exec .migrationCopyDone s = .next { t.setMem fun m => { m with migSt := .forwarding } with draw := t.draw + 1 }) ∧
    (s.memctl.migSt ≠ .forwarding → exec .migrationEndForward s = .next s) ∧
    (s.memctl.migSt = .forwarding → exec .migrationEndForward s = .next (set fun m => { m with migSt := .done })) ∧
    (∀ v : Word, let n := v.toNat % 128
      let m := n / 64 * 64 + v.toNat / 256 % 64
      let ok : Prop := (s.core n).retired = true ∧ (s.core n).slots = [] ∧ (s.slice n).regions = [] ∧ (s.slice m).retired = false
      (¬ ok → exec (.hmcmdGo v) s = .next (set fun x => { x with hmst := 1 })) ∧
      (ok → exec (.hmcmdGo v) s = .next ((set fun x => { x with hmst := 2 }).push .homeMoveDone))) ∧
    (s.memctl.hmst ≠ 2 → exec .homeMoveDone s = .next s) ∧
    (s.memctl.hmst = 2 → let n := s.memctl.hmcmd.toNat % 128
      let m := n / 64 * 64 + s.memctl.hmcmd.toNat / 256 % 64
      exec .homeMoveDone s = .next (((s.moveHome n m).setMem fun x => { x with hmst := 0 }).append
        { sev := .corrected, src := 1, cause := 0x30, sub := 0, unit := n }) ∧
      ((s.moveHome n m).slice n).retired = true ∧
      ∀ k, look k (s.moveHome n m).homemap k =
        if k / 64 = n / 64 ∧ look k s.homemap k = n then m else look k s.homemap k) ∧
    (s.memctl.trained = 0xFFF → (∀ h line x, find (s.slice h).lines line = some x → x.dirty = false → s.place (line * 128) = .dram →
        ∀ i < 128, look 0 x.data i = look 0 s.mem (localOf (line * 128) + i)) →
      (∀ old new n, rising s.mem = true → rising s.poison = true → s.place old = .dram → s.place new = .dram →
        (∃ k, n = 128 * k) → old % 128 = 0 → new % 128 = 0 → localOf old + n ≤ 2 ^ 45 → localOf new + n ≤ 2 ^ 45 →
        old + n ≤ new ∨ new + n ≤ old →
        (∀ p ∈ s.fabric.cad, p.2.st = .uncached) →
        let t := s.copyPage old new n
        t.bytesNow new n = s.bytesNow old n ∧
        ∀ k < n / 32, find t.poison (new / 32 + k) = find s.poison (old / 32 + k)) ∧
      ∀ n m, n ≠ m → n < 128 → m / 64 = n / 64 → (∀ pl, s.homeSlice pl = n → find (s.slice m).lines pl = none) →
        (∀ pl x, find (s.slice n).lines pl = some x → pl < 2 ^ 49) → ∀ pa < 2 ^ 56, s.place pa = .dram → (s.moveHome n m).bytesNow pa 1 = s.bytesNow pa 1)

/-! ### Parcels and devices -/

/-- R311, R312, R314, R358, R420, R421, R438: a request for a parcel of this home: a peer that reads shares it, and has its bytes and poison as the answer, one that writes
owns it after every other holder gave it up; bytes that an indivisible
kind leaves stand. A fenced parcel and a device declared lost are refused, the latter with a record. A request for a page under
forwarding goes on to the new home. Invalidations and recalls from another home are answered. R436: the answer to a tagged read is kept, and a tag sent again has the
answer that its first request had. R427: a device with a fatal record answers nothing.
What the rules leave open there is the model's choice: log entries 60, 62, 111. -/
def Sys2Proof.Machine.ParcelRequests : Prop :=
  ∀ (p : Nat) (s : State), let home := look Parcel.init s.fabric.cad p
    let base := p * 2048
    let asks (r : ReqKind) (t : State) : Prop := exec (.cadastreRequest p ⟨none, r⟩) s = .next t
    (s.fwd base = base → devOf base ≠ s.devnum ∨ s.place base ≠ .dram → ∀ r, exec (.cadastreRequest p r) s = .next s) ∧
    (∀ q r, s.fwd base = q * 2048 → s.fwd (q * 2048) = q * 2048 → devOf base = s.devnum → devOf (q * 2048) = s.devnum →
      exec (.cadastreRequest p r) s = exec (.cadastreRequest q r) s) ∧
    (∀ d, devOf base = s.devnum → devOf (s.fwd base) ≠ s.devnum → s.fatal = false →
      (∀ off n, asks (.peerRead d off n) (s.toHome (s.fwd base) (.forward d))) ∧ asks (.peerWrite d) (s.toHome (s.fwd base) (.forward d))) ∧
    (s.fwd base = base → devOf base = s.devnum → s.place base = .dram →
      (∀ d, s.fatal = true → (∀ off n, asks (.peerRead d off n) s) ∧ asks (.peerWrite d) s) ∧
      (∀ d, s.fatal = false → s.fabric.lost.contains d = true →
        let t := ((s.append { sev := .corrected, src := 6, cause := 0x41, sub := 0, unit := d }).ualink d base (.refused 7)).drawn
        (∀ off n, asks (.peerRead d off n) t) ∧ asks (.peerWrite d) t) ∧
      (∀ d, s.fatal = false → s.fabric.lost.contains d = false → home.fenced.isSome = true →
        (∀ off n, asks (.peerRead d off n) (s.ualink d base (.refused 7)).drawn) ∧ asks (.peerWrite d) (s.ualink d base (.refused 7)).drawn) ∧
      (∀ d, s.fatal = false → s.fabric.lost.contains d = false → home.fenced = none →
        (∀ off n, off + min n 256 ≤ 2048 → Answers (.cadastreRequest p ⟨none, .peerRead d off n⟩) s fun t =>
          (home.st = .uncached → look Parcel.init t.fabric.cad p = { home with st := .shared [d] }) ∧
          (∀ ds, home.st = .shared ds → look Parcel.init t.fabric.cad p =
            { home with st := .shared (if ds.contains d then ds else ds ++ [d]) }) ∧
          (∀ e, home.st = .owned e → e ≠ d → look Parcel.init t.fabric.cad p = { home with st := .shared [e, d] } ∧
            t.sends e base (.recall false)) ∧
          t.sends d (base + off) (.reply (t.bytesNow (base + off) (min n 256)) (poisonOf t.poison (base + off) (min n 256))) ∧
          ∀ q, q ≠ p → look Parcel.init t.fabric.cad q = look Parcel.init s.fabric.cad q) ∧
        (Answers (.cadastreRequest p ⟨none, .peerWrite d⟩) s fun t =>
          (look Parcel.init t.fabric.cad p).st = .owned d ∧
          (∀ ds, home.st = .shared ds → ∀ e ∈ ds, e ≠ d → t.sends e base .invalidate) ∧
          (∀ e, home.st = .owned e → e ≠ d → t.sends e base (.recall true)) ∧
          t.sends d base (.reply [] [])) ∧
        (∀ k off n, off + min n 256 ≤ 2048 → (∀ e ∈ look [] s.fabric.answers d, e.1 ≠ k) →
          Answers (.cadastreRequest p ⟨some k, .peerRead d off n⟩) s fun t => (look [] t.fabric.answers d).head? =
            some (k, base + off, .reply (t.bytesNow (base + off) (min n 256)) (poisonOf t.poison (base + off) (min n 256)))) ∧
        (∀ off bs, off + bs.length ≤ 2048 →
          (poisonedAt s.poison (base + off) bs.length = false →
            asks (.rmw d off bs) (((s.claim base true).peerStore (base + off) bs).reply d (base + off) []).drawn) ∧
          (poisonedAt s.poison (base + off) bs.length = true → asks (.rmw d off bs) (s.ualink d base (.refused 5)).drawn))) ∧
      (∀ d k r pa m, s.fatal = false → reqDev r = some d → s.fabric.lost.contains d = false → (look [] s.fabric.answers d).find? (fun e => e.1 == k) = some (k, pa, m) →
        exec (.cadastreRequest p ⟨some k, r⟩) s = .next (s.ualink d pa m).drawn) ∧
      (∀ wr, asks (if wr then .homeWrite else .homeRead) (s.claim base wr).drawn)) ∧
    (devOf base = s.devnum ∨ s.fatal = true → exec (.invalidationReceive p) s = .next s ∧ exec (.recallReceive p) s = .next s) ∧
    (devOf base ≠ s.devnum → s.fatal = false → s.fabric.lost.contains (devOf base) = false →
      (Answers (.invalidationReceive p) s fun t => t.sends (devOf base) base .ack ∧
        look .none t.fabric.held p = .none ∧ ∀ q, q ≠ p → look .none t.fabric.held q = look .none s.fabric.held q) ∧
      (Answers (.recallReceive p) s fun t => t.sends (devOf base) base .ack ∧
        look .none t.fabric.held p = (if look .none s.fabric.held p = .owned then .shared else look .none s.fabric.held p) ∧
        t.cores = s.cores))

/-- R419 to R422, R436: a device declared lost is on the list of the lost ones, once; a fenced parcel is Uncached again after a
scrub, which may zero it. A home answers a join with a nonce and judges the proof: refused where the signature by the key of the
device's first join fails or the device used peer memory, pending while its parcels are fenced, accepted otherwise, and then the
device is lost no longer.
What the rules leave open there is the model's choice: log entry 60. -/
def Sys2Proof.Machine.DevicesLostAndJoined : Prop :=
  ∀ s : State,
    (∀ v : Word, let d := v.toNat % 2048
      (d = s.devnum ∨ s.fabric.lost.contains d = true → exec (.lostcmd v) s = .next s) ∧
      (d ≠ s.devnum → s.fabric.lost.contains d = false → Answers (.lostcmd v) s fun t =>
        t.fabric.lost = s.fabric.lost ++ [d] ∧
        ∀ e ∈ t.gaz, (∀ x y z, e.owner ≠ .proxy x y z) → devOf e.pa ≠ d)) ∧
    (∀ d p, let home := look Parcel.init s.fabric.cad p
      (∀ ds, home.st = .shared ds → look Parcel.init (s.loseAgent d p).fabric.cad p =
        { home with st := if (ds.filter fun e => e ≠ d) = [] then .uncached else .shared (ds.filter fun e => e ≠ d) }) ∧
      (home.st = .owned d → s.loseAgent d p =
        (s.setFabric fun f => { f with cad := put Parcel.init f.cad p { st := .uncached, fenced := some d } }).append
          { sev := .contained, src := 8, cause := 0x2C, sub := 0, unit := s.homeSlice (p * 16) / 64, addr := BitVec.ofNat 64 (p * 2048) }) ∧
      (home.st = .uncached → s.loseAgent d p = s)) ∧
    (∀ p, p = s.fabric.scrubPa.toNat / 2048 →
      ((look Parcel.init s.fabric.cad p).fenced = none →
        exec .scrubUnfenceKeep s = .next (s.setFabric fun f => { f with scrubSt := 1 }) ∧
        exec .scrubUnfenceZero s = .next (s.setFabric fun f => { f with scrubSt := 1 })) ∧
      ((look Parcel.init s.fabric.cad p).fenced.isSome = true →
        let t := s.setFabric fun f => { f with scrubSt := 0, cad := put Parcel.init f.cad p Parcel.init }
        exec .scrubUnfenceKeep s = .next t ∧ exec .scrubUnfenceZero s = .next (t.devWrite (p * 2048) (List.replicate 2048 0)))) ∧
    (∀ dev answer, Answers (.joindevGo dev answer) s fun t =>
      t.fabric.joinSt = (if s.fabric.peerUsed then 2 else if answer.toNat < 3 then answer.toNat else 2) ∧
      t.sends dev.toNat (dev.toNat * 2 ^ 45) .join ∧
      (∃ sig, t.sends dev.toNat (dev.toNat * 2 ^ 45) (.proof s.fabric.peerUsed (s.idKey 0) sig)) ∧
      (s.fabric.peerUsed = true ∨ answer ≠ 0 → t.fabric.lost = s.fabric.lost) ∧
      (s.fabric.peerUsed = false → answer = 0 →
        (s.fenceCount dev.toNat = 0 → t.fabric.lost = s.fabric.lost.filter fun d => d ≠ dev.toNat) ∧
        (s.fenceCount dev.toNat ≠ 0 → t.fabric.lost = s.fabric.lost))) ∧
    (∀ p d used key sig, let base := p * 2048
      s.fwd base = base → devOf base = s.devnum → s.place base = .dram → s.fatal = false →
      (Answers (.cadastreRequest p ⟨none, .join d⟩) s fun t => (look [] t.fabric.nonces d).length = 32 ∧
        t.sends d base (.nonce (look [] t.fabric.nonces d)) ∧ t.fabric.lost = s.fabric.lost) ∧
      (Answers (.cadastreRequest p ⟨none, .proof d used key sig⟩) s fun t =>
        let key' := (find s.fabric.known d).getD key
        let good := look [] s.fabric.nonces d ≠ [] ∧
          Config.dsaVerify key' (toBytes 32 (sha3 (look [] s.fabric.nonces d ++ toBytes 4 d ++ toBytes 4 (if used then 1 else 0))).toNat) sig = true
        (¬ good ∨ used = true → t.sends d base (.joined 2) ∧ t.fabric.lost = s.fabric.lost) ∧
        (good → used = false → s.fenceCount d ≠ 0 → t.sends d base (.joined 1) ∧ t.fabric.lost = s.fabric.lost) ∧
        (good → used = false → s.fenceCount d = 0 → t.sends d base (.joined 0) ∧ t.fabric.lost.contains d = false ∧
          find t.fabric.known d = some key'))) ∧
    ∀ d b, let r : Record := { sev := .degraded, src := if b then 8 else 6, cause := if b then 0x44 else 0x3F, sub := 0, unit := d }
      let late (since : DWord) (told : Bool) : Prop := told = false ∧ s.fabric.cadtmo.toNat < (s.time - since).toNat
      let lateFor (w : Waiting) : Prop := w.dev = d ∧ (if b then w.msg.isRecall = true else w.msg.isRequest = true) ∧ late w.since w.told
      ((∀ w ∈ s.fabric.stuck, ¬ lateFor w) → (b = false → ∀ a, find s.fabric.asked d = some a → ¬ late a.since a.told) →
        exec (.homeTimeout d b) s = .next s) ∧
      (∀ w, s.fabric.stuck = [w] → lateFor w → b = true ∨ find s.fabric.asked d = none →
        exec (.homeTimeout d b) s = .next ((s.setFabric fun f => { f with stuck := [{ w with told := true }] }).append r)) ∧
      ∀ a, b = false → s.fabric.stuck = [] → find s.fabric.asked d = some a → late a.since a.told → ∃ l,
        exec (.homeTimeout d b) s = .next ((s.setFabric fun f => { f with asked := l }).append r) ∧
        find l d = some { a with told := true } ∧ ∀ e, e ≠ d → find l e = find s.fabric.asked e

/-- R343, R344, R426, R427, R436 to R438: port failures and notices are recorded; a fatal record stops the device, and it
issues no instruction any more; the time master's estimate is taken, and the plane map, under which what waited for a port
is sent.
What the rules leave open there is the model's choice: log entries 61, 80. -/
def Sys2Proof.Machine.DeviceEvents : Prop :=
  ∀ s : State,
    (∀ d, exec (.fatalNoticeReceive d) s =
      .next (s.append (if s.fabric.lost.contains d then { sev := .corrected, src := 6, cause := 0x41, sub := 0, unit := d }
        else { sev := .degraded, src := 6, cause := 0x42, sub := 0, unit := d }))) ∧
    (∀ p, exec (.ualinkPortDown p) s = .next ((s.setFabric fun f => { f with portUp := put false f.portUp p false }).append
      { sev := .degraded, src := 6, cause := 0x3E, sub := 0, unit := p })) ∧
    (∀ p, let t := s.setFabric fun f => { f with retries := upd 0 f.retries p (· + 1) }
      ((look 0 s.fabric.retries p + 1) % 4096 ≠ 0 → exec (.ualinkLinkRetry p) s = .next t) ∧
      ((look 0 s.fabric.retries p + 1) % 4096 = 0 → exec (.ualinkLinkRetry p) s =
        .next (t.append { sev := .corrected, src := 6, cause := 0x3D, sub := 0, unit := p }))) ∧
    (∀ v, (∀ e ∈ s.ifaces, e.2.returning = []) → Answers (.planemapWrite v) s fun t =>
      t.fabric.planeMap = v ∧ t.cores = s.cores ∧ t.mem = s.mem ∧
      (∀ e ∈ s.fabric.stuck, e ∈ t.fabric.stuck ∨ .ualink (t.planePort e.pa) e.dev e.pa e.tag e.msg ∈ t.out) ∧
      ∀ e ∈ t.fabric.stuck, t.linkUp (t.planePort e.pa) = false ∨
        (e.msg.isDelivery = true ∧ ∃ w ∈ t.fabric.stuck, w.dev = e.dev ∧ t.linkUp (t.planePort w.pa) = false)) ∧
    (∀ d m, (s.fabric.lost.contains d = true → exec (.timeSyncExchange ⟨d, m⟩) s =
        .next (s.append { sev := .corrected, src := 6, cause := 0x41, sub := 0, unit := d })) ∧
      (s.fabric.lost.contains d = false → s.fabric.timeMaster = true → Answers (.timeSyncExchange ⟨d, m⟩) s fun t =>
        t.sends d (d * 2 ^ 45) (.timeAnswer s.time) ∧ t.time = s.time ∧ t.fabric.slew = s.fabric.slew) ∧
      (s.fabric.lost.contains d = false → s.fabric.timeMaster = false → exec (.timeSyncExchange ⟨d, m⟩) s =
        .next { s with fabric := { s.fabric with slew := (m - s.time).toInt } })) ∧
    (s.fatal = true → exec .referenceClockLost s = .next s ∧ ∀ a c u, exec (.fatalEvent a c u) s = .next s) ∧
    (s.fatal = false →
      (Answers .referenceClockLost s fun t => t.fatal = true ∧
        t.fatalRec = ({ sev := .fatal, src := 11, cause := 0x50, sub := 0, unit := 0 } : Record).bytes s.elog.tail s.time ∧
        ∀ p < 16, s.linkUp p = true → .fatalNotice p ∈ t.out) ∧
      ∀ a c u, Answers (.fatalEvent a c u) s fun t => t.fatal = true ∧ t.fatalRec =
        ({ sev := .fatal, src := a.toNat, cause := c.toNat, sub := 0, unit := u.toNat } : Record).bytes s.elog.tail s.time) ∧
    (s.fatal = true → (∀ w ts, s.tape = .issue w :: ts → step s = .next { s with tape := ts }) ∧
      (∀ i ts, s.tape = .event i :: ts → actsFatal i = false → step s = .next { s with tape := ts }) ∧
      (∀ i is, s.tape = [] → s.backlog = i :: is → actsFatal i = false → step s = .next { s with backlog := is }) ∧
      (s.tape = [] → s.backlog = [] → Answers (.globalTick s.tickAdv) s fun t => step s = .next t ∧
        t.cores = s.cores ∧ t.mem = s.mem ∧ t.out = s.out ∧ t.backlog = s.backlog))

/-! ### The network -/

/-- R325 to R328, R331 to R336, R431, R432: a packet of a unit goes out with AGE 0 on the route of its table, unless the
interface holds it back; one that arrives waits at the output its next step leads to, comes back where that link is retired, and
is recorded where it is misrouted; in a promotion cycle an output grants the oldest of its candidates, else the best one of
the port whose quantum runs or of the next one in turn; those that wait for it grow older; and without a candidate the port at
its pointer yields.
What the rules leave open there is the model's choice: log entries 77, 121, 122. -/
def Sys2Proof.Machine.PacketsMove : Prop :=
  ∀ (r port : Nat) (s : State), let x := s.router r
    (port < 4 → ∀ p : Packet, let u := portUnit r port
      let i := look Iface.init s.ifaces u
      let q : Packet := { p with src := u, dst := netEntry p.unit p.dst, seq := 0 }
      let v := s.routeEntry u q.dst
      (leavesAt p.kind u = false → exec (.packetArrival r port p) s = .next s) ∧
      (leavesAt p.kind u = true → p.cls ≠ .rsp → i.holds q = true → exec (.packetArrival r port p) s =
        .next (s.modIface u fun x => { x with waiting := x.waiting ++ [q] })) ∧
      (leavesAt p.kind u = true → p.cls ≠ .rsp → p.kind ≠ .msend → i.holds q = false → ∃ j : Iface,
        exec (.packetArrival r port p) s = .next (((s.modIface u fun _ => j).wakeAhead u v).arrive (unitRouter u) (unitPort u)
          { q with turns := v.extractLsb' 0 24, port := v.extractLsb' 24 2, hops := 0, age := 0 }))) ∧
    (4 ≤ port → ∀ p : Packet, let out := stepPort r (p.turns.toNat % 16) p.port.toNat
      let s₁ := s.modRouter r fun x => { x with wire := upd [] x.wire port fun q => q.drop 1 }
      (x.awake = false ∨ (look [] x.wire port).head?.map (·.p) ≠ some p → exec (.packetArrival r port p) s = .next s) ∧
      (x.awake = true → (look [] x.wire port).head?.map (·.p) = some p → out = none → exec (.packetArrival r port p) s =
        .next ((s₁.append { sev := .contained, src := 2, cause := 0x35, sub := 0, unit := r, detail0 := BitVec.ofNat 32 p.src }).bounce r p)) ∧
      ∀ o, x.awake = true → (look [] x.wire port).head?.map (·.p) = some p → out = some o →
        (x.link o = 3 ∨ (o < 4 ∧ s.unitRetired (portUnit r o) = true ∧ p.unit = .own) →
          exec (.packetArrival r port p) s = .next (s₁.bounce r p)) ∧
        (x.link o ≠ 3 → 4 ≤ o ∨ s.unitRetired (portUnit r o) = false ∨ p.unit ≠ .own → Answers (.packetArrival r port p) s fun t =>
          t = { s with routers := t.routers } ∧ (t.router r).wire = (s₁.router r).wire ∧
          look [] (t.router r).inq (port * 12 + clsRank p.cls * 3 + min p.hops 2) =
            look [] x.inq (port * 12 + clsRank p.cls * 3 + min p.hops 2) ++ [p])) ∧
    (2 ≤ x.link port → Answers (.outputArbitration r port) s fun t => t = { s with routers := t.routers } ∧
      look OutPort.init (t.router r).outs port = { look OutPort.init x.outs port with left := 0 } ∧
      ∀ q, q ≠ r → t.router q = s.router q) ∧
    (∀ c ∈ s.cands r port,
      let o := look OutPort.init x.outs port
      let grants (o' : OutPort) : Prop := Answers (.outputArbitration r port) s fun t => ∃ u : State,
        t = u.forward r port c.key c.p ∧ look OutPort.init (u.router r).outs port = o' ∧
        look [] (u.router r).inq c.key = (look [] x.inq c.key).drop 1 ∧
        ∀ k p ps, k ≠ c.key → look [] x.inq k = p :: ps → stepPort r (p.turns.toNat % 16) p.port.toNat = some port →
          look [] (u.router r).inq k = { p with age := min 255 (p.age + c.p.flits) } :: ps
      let rank (e : Cand) : Nat := clsRank e.p.cls * 3 + (2 - min e.p.hops 2)
      (o.promo = true → (∀ e ∈ s.cands r port, e = c ∨ e.p.age < c.p.age ∨ (e.p.age = c.p.age ∧
          (c.key / 12 < e.key / 12 ∨ (c.key / 12 = e.key / 12 ∧ e.p.hops < c.p.hops)))) → grants { o with promo := false }) ∧
      (o.promo = false → (∀ e ∈ s.cands r port, e.key / 12 = c.key / 12 → e = c ∨ rank c < rank e) →
        (o.left ≠ 0 → c.key / 12 = o.ptr → grants { o with left := o.left - 1 }) ∧
        (o.left = 0 ∨ (∀ e ∈ s.cands r port, e.key / 12 ≠ o.ptr) → ∀ i < 12, c.key / 12 = (o.ptr + 1 + i) % 12 →
          (∀ j < i, ∀ e ∈ s.cands r port, e.key / 12 ≠ (o.ptr + 1 + j) % 12) →
          grants { o with ptr := c.key / 12, left := if c.p.cls = .msg then 1 else 3 }))) ∧
    (Answers (.promotionCycle r port) s fun t => t = { s with routers := t.routers } ∧
      (look OutPort.init (t.router r).outs port).promo = true) ∧
    (Answers (.routerWake r) s fun t => t = { s with routers := t.routers } ∧ (t.router r).awake = true ∧ (t.router r).inq = x.inq) ∧
    (x.pgen = true → (∀ e ∈ x.inq, e.2 = []) → (∀ e ∈ x.wire, e.2 = []) → Answers (.routerGate r) s fun t =>
      t = { s with routers := t.routers } ∧ (t.router r).awake = false) ∧
    (x.pgen = false ∨ (∃ e ∈ x.inq, e.2 ≠ []) ∨ (∃ e ∈ x.wire, e.2 ≠ []) → exec (.routerGate r) s = .next s)

/-- R326, R428, R429, R430, R431, R432: replays are counted, and each 4,096th is recorded; the eighth in a row takes the link down,
and what was on its wire stays with the sending router; one less in a row may narrow it. The head of a channel that waits for go
for too long is recorded. LINKCTL
retires, clears or trains a port of 4 to 11; a route with at most two global hops is taken, and a bounced packet goes out
again on it.
What the rules leave open there is the model's choice: log entries 77, 109. -/
def Sys2Proof.Machine.LinksAndRoutes : Prop :=
  ∀ s : State,
    (∀ r port, let x := s.router r
      let s₁ := s.modRouter r fun x => { x with lerr := satInc x.lerr, replays := (x.replays + 1) % 4096 }
      let rec_ (sev : Sev) (cause sub : Nat) : Record := { sev := sev, src := 2, cause := cause, sub := sub, unit := r, detail0 := 0 }
      let s₂ := if x.replays = 4095 then s₁.append (rec_ .corrected 0x31 0) else s₁
      (port < 4 ∨ 11 < port ∨ 2 ≤ x.link port → ∀ b, exec (.flitReplay r port b) s = .next s) ∧
      (4 ≤ port → port ≤ 11 → x.link port < 2 →
        (let t := ((s₂.takeBack r port).modRouter r fun x => x.setLink port 2).append (rec_ .degraded 0x33 port)
         exec (.flitReplay r port true) s = .next { t with draw := t.draw + 1 }) ∧
        (exec (.flitReplay r port false) s = .next { s₂ with draw := s₂.draw + 1 } ∨
          ((s₂.router r).link port = 0 ∧
            let t := (s₂.modRouter r fun x => x.setLink port 1).append (rec_ .degraded 0x32 port)
            exec (.flitReplay r port false) s = .next { t with draw := t.draw + 1 })))) ∧
    (∀ r port, 4 ≤ port → port ≤ 11 → let (q, i) := neighbour r port
      look [] ((s.takeBack r port).router q).wire i = [] ∧
      (q ≠ r → ((s.takeBack r port).router r).inq =
        (look [] (s.router q).wire i).foldr (fun f t => upd [] t f.key fun q => f.sent :: q) (s.router r).inq)) ∧
    (∀ r out p, 4 ≤ out → (s.linkGo r out p = true ↔ (s.router (neighbour r out).1).awake = true ∧
      ((look [] (s.router (neighbour r out).1).inq ((neighbour r out).2 * 12 + clsRank p.cls * 3 +
        min (if out = 11 then p.hops + 1 else p.hops) 2)).map (·.flits)).sum < 4)) ∧
    (∀ r port vc,
      let waits : Prop := ∃ p ps out, look [] (s.router r).inq (port * 12 + vc) = p :: ps ∧
        stepPort r (p.turns.toNat % 16) p.port.toNat = some out ∧ 4 ≤ out ∧ ((s.router r).link out = 2 ∨ s.linkGo r out p = false)
      (¬ waits → exec (.channelStall r port vc) s = .next s) ∧
      (waits → exec (.channelStall r port vc) s =
        .next ((s.modRouter r fun x => { x with stall := x.stall ||| BitVec.ofNat 12 (2 ^ port) }).append
          { sev := .degraded, src := 2, cause := 0x34, sub := port, unit := r, detail0 := BitVec.ofNat 32 vc }))) ∧
    (∀ r port, port < 4 ∨ 11 < port → exec (.linkRetire r port) s = .next s ∧ exec (.linkBounce r port) s = .next s ∧
      ∀ ok, exec (.linkTrain r port ok) s = .next s) ∧
    (∀ r port, 4 ≤ port → port ≤ 11 →
      exec (.linkRetire r port) s = .next ((((s.takeBack r port).modRouter r fun x => x.setLink port 3).bounceHeld r port).retryMsgs) ∧
      exec (.linkBounce r port) s = .next ((s.bounceHeld r port).bounceMsgs r port) ∧
      exec (.linkTrain r port true) s = .next (s.modRouter r fun x => x.setLink port 0).retryMsgs.kickRuns ∧
      exec (.linkTrain r port false) s = .next ((s.modRouter r fun x => x.setLink port 2).append
        { sev := .degraded, src := 2, cause := 0x33, sub := port, unit := r, detail0 := 0 }) ∧
      ∀ (x : Router) (v : Nat), v < 4 → (x.setLink port v).link port = v ∧ ∀ q, q ≠ port → q ≤ 11 → (x.setLink port v).link q = x.link q) ∧
    (∀ u e v, (2 < globalHops (v.toNat % 2 ^ 24) → exec (.routeTableWrite u e v) s = .next s) ∧
      (globalHops (v.toNat % 2 ^ 24) ≤ 2 → (∀ x ∈ s.ifaces, x.2.returning = []) → Answers (.routeTableWrite u e v) s fun t =>
        t.routeEntry u e = (v &&& 0x03FFFFFF) ∧
        (∀ p ∈ (look Iface.init s.ifaces u).bounced, p.dst = e → p.id ∈ (look Iface.init t.ifaces u).rewritten) ∧
        (∀ x ∈ (look Iface.init t.ifaces u).sent, x.dst = e → x.old = true) ∧
        ∀ d, d ≠ e → t.routeEntry u d = s.routeEntry u d)) ∧
    ∀ u, let x := look Iface.init s.ifaces u
      ((∀ p ∈ x.bounced, x.rewritten.contains p.id = false) → exec (.bouncedReinject u) s = .next s) ∧
      ∀ p, x.bounced.find? (fun p => x.rewritten.contains p.id) = some p → exec (.bouncedReinject u) s =
        .next (((s.modIface u fun x => { x with bounced := x.bounced.erase p, rewritten := x.rewritten.filter fun i => i ≠ p.id }).launchPacket
          p).launchWaiting u)

/-! ### Endpoints and Ultra Ethernet -/

/-- R353 to R356, R408, R439: a request of an endpoint whose requester the device table does not admit, or that does not
translate, is refused: a write drops, any other gets Unsupported Request. One with a bad ECRC drops where the port checks it. One that translates is performed; each is once its
requests find their way (log entry 127). IOCMD drops what
the IOMMU keeps.
What the rules leave open there is the model's choice: log entry 63. -/
def Sys2Proof.Machine.EndpointRequests : Prop :=
  ∀ s : State,
    (∀ r : IoReq, let rid := r.rid.toNat
      let ends (t : State) : Prop := s.endpoint r = t
      let unserved (t : State) : State := match r.kind with | .write _ => t | _ => t.emit (.unsupported rid)
      UnitDoes (.endpointRequest r) (rootUnit r.port) (fun s => s.endpoint r) s ∧
      (s.portUp r.port = false ∨ (r.ecrcBad = true ∧ s.ecrcCheck r.port = true) → ends s) ∧
      (s.portUp r.port = true → r.ecrcBad = false ∨ s.ecrcCheck r.port = false →
        (∀ d, isMsi r = some d → ends (s.msi (.endpoint r.rid r.port) d)) ∧
        (isMsi r = none → r.kind = .ats → ends (s.emit (.unsupported rid))) ∧
        (isMsi r = none → r.kind ≠ .ats →
          (∀ e t, s.ioDev rid = (.error e, t) → ends (unserved (t.ioRefuse rid 0 r.addr e))) ∧
          ∀ d t, s.ioDev rid = (.ok d, t) →
            (∀ e u, t.ioPlaces r d (ioAcc r.kind) (ioParts r.addr.toNat (ioLen r.kind)) = (.error e, u) →
              ends (unserved (u.ioRefuse rid (ioPasid r d) r.addr e))) ∧
            ∀ ps u, t.ioPlaces r d (ioAcc r.kind) (ioParts r.addr.toNat (ioLen r.kind)) = (.ok ps, u) → ends (u.ioPerform r ps)))) ∧
    (∀ rid, s.io.en = false → s.ioDev rid = (.error ⟨1, 0⟩, s)) ∧
    (∀ rid x addr e, let recent : Bool := match find s.io.recAt rid with | some t => decide ((s.time - t).toNat < 2 ^ 20) | none => false
      recent = true → s.ioRefuse rid x addr e = { s with io := { s.io with ioref := satInc s.io.ioref } }) ∧
    (let drops (i : Instr) (p : IoKept → Prop) : Prop := Answers i s fun t => t = { s with io := { s.io with kept := t.io.kept } } ∧
       ∀ k, k ∈ t.io.kept ↔ k ∈ s.io.kept ∧ ¬ p k
     drops .iommuInvAll (fun _ => True) ∧
     (∀ a : Word, drops (.iommuInvPartition a) (fun k => k.part = a.toNat % 64) ∧
       drops (.iommuInvRequester a) (fun k => k.rid = a.toNat % 65536) ∧
       drops (.iommuInvPasid a) (fun k => k.remap = false ∧ k.pasid = a.toNat % 2 ^ 20) ∧
       drops (.iommuInvRemap a) fun k => k.remap = true ∧ k.rid = a.toNat % 65536))

/-- R357, R352, R440, R441: an interrupt message of no remap entry is dropped and recorded; an entry sets the pending bit that
it names. Root ports train, fail and report.
What the rules leave open there is the model's choice: log entries 40, 126. -/
def Sys2Proof.Machine.InterruptsAndRootPorts : Prop :=
  ∀ s : State,
    (∀ by_ data, UnitDoes (.interruptMessageWrite by_ data) (s.irqUnit by_) (fun s => s.msi by_ data) s) ∧
    (∀ (data : Word) (dev : Nat), let i := data.toNat % 65536
      (s.fabric.lost.contains dev = true → s.msi (.peer dev) data =
        s.append { sev := .corrected, src := 6, cause := 0x41, sub := 0, unit := dev }) ∧
      (s.fabric.lost.contains dev = false → s.fabric.uirtn.toNat ≤ i → s.msi (.peer dev) data =
        s.append { sev := .contained, src := 5, cause := 0x39, sub := 0, unit := 0 }) ∧
      (s.fabric.lost.contains dev = false → i < s.fabric.uirtn.toNat →
        let e := s.readNat (s.localAddr (s.fabric.uirtb.toNat + 16 * i)) 16
        s.msi (.peer dev) data = e.2.msiAct 0 e.1)) ∧
    (∀ (data : Word) (rid : BitVec 16) port, let i := data.toNat % 65536
      (∀ e t, s.ioDev rid.toNat = (.error e, t) → s.msi (.endpoint rid port) data = t.ioRefuse rid.toNat 0 0 e) ∧
      ∀ e t, s.ioDev rid.toNat = (.ok e, t) → let at_ := t.localAddr (e.rtb + 16 * i)
        (e.rtn ≤ i → s.msi (.endpoint rid port) data =
          t.append { sev := .contained, src := 5, cause := 0x39, sub := 0, unit := rid.toNat }) ∧
        (i < e.rtn → (t.badData at_ 16).isSome = true → s.msi (.endpoint rid port) data = t.ioRefuse rid.toNat 0 0 ⟨9, 0⟩) ∧
        (i < e.rtn → t.badData at_ 16 = none → let d := t.msiEntry rid.toNat e.part at_ i
          s.msi (.endpoint rid port) data = d.2.msiAct rid.toNat d.1)) ∧
    (∀ unit d : Nat, d % 2 = 0 → s.msiAct unit d = s.append { sev := .contained, src := 5, cause := 0x39, sub := 0, unit := unit }) ∧
    (∀ unit d : Nat, d % 4 = 3 →
      s.msiAct unit d = s.modCore (d / 4 % 128) fun c => { c with ipendEdge := c.ipendEdge ||| BitVec.ofNat 32 (2 ^ (16 + d / 512 % 16)) }) ∧
    (∀ p, exec (.rootPortCompletionTimeout p) s = .next (s.append { sev := .contained, src := 5, cause := 0x3B, sub := 14, unit := p })) ∧
    (∀ p, (look false s.io.portUp p = false → exec (.rootPortLinkDown p) s = .next s) ∧
      (look false s.io.portUp p = true → exec (.rootPortLinkDown p) s =
        .next (({ s with io := { s.io with portUp := put false s.io.portUp p false, portRate := put 0 s.io.portRate p 0 } } : State).append
          { sev := .degraded, src := 5, cause := 0x3C, sub := 0, unit := p }))) ∧
    (∀ p b, exec (.rootPortAerEvent p true b) s = .next ((s.aerStatus p true b.toNat).append { sev := .contained, src := 5, cause := 0x3B, sub := b.toNat, unit := p }) ∧
      exec (.rootPortAerEvent p false b) s = .next ((s.aerStatus p false b.toNat).append { sev := .corrected, src := 5, cause := 0x3A, sub := b.toNat, unit := p })) ∧
    ∀ p rate, (s.io.hasPort p = true → exec (.rootPortLinkTrained p rate) s =
        .next { s with io := { s.io with portUp := put false s.io.portUp p true, portRate := put 0 s.io.portRate p rate } }) ∧
      (s.io.hasPort p = false → exec (.rootPortLinkTrained p rate) s = .next s)

/-- R360, R361, R362, R442: the doorbell of a queue pair without an error begins every descriptor up to the new count, in ring
order, each with the remote endpoint of its context, once its port is up and its requests find their way (log entry 127); the
network finishes the oldest of a queue pair in order; a remote write needs a valid context.
What the rules leave open there is the model's choice: log entry 64. -/
def Sys2Proof.Machine.QueuePairs : Prop :=
  ∀ (p q : Nat) (s : State), (s.ueQp p q).err = false →
    let c := s.ueCtx p q
    let up : Bool := look false s.ue.portUp p
    let flushed (ordered : Bool) (t : State) : State := State.ueFlush p q ordered (t.ueQp p q).pending.length t
    (∀ count : Word, let s₁ := s.modQp p q fun x => { x with count := count }
      let t := State.ueRun { s₁ with agent := some (ueUnit p), cut := false } p q
      (up = false ∨ t.cut = true → exec (.ueDoorbell p q count) s = .next { s₁ with draw := s₁.draw + 1 }) ∧
      (up = true → t.cut = false →
        exec (.ueDoorbell p q count) s = .next { t with agent := s.agent, cut := s.cut, draw := t.draw + 1 })) ∧
    ((s.ueQp p q).count = BitVec.ofNat 32 (s.ueQp p q).done → s.ueRun p q = flushed c.1.ordered c.2) ∧
    ((s.ueQp p q).count = BitVec.ofNat 32 ((s.ueQp p q).done + 1) → (s.ueQp p q).pending = [] →
      ∀ e t, s.ueStart p q (s.ueQp p q).done = (e, t) → e.st = 0 → t.ueQp p q = s.ueQp p q →
        ((s.ueRun p q).ueQp p q).pending = [e] ∧ ((s.ueRun p q).ueQp p q).done = (s.ueQp p q).done + 1) ∧
    (∀ i, c.1.valid = true → ∀ bs t, c.2.ueDesc c.1 i = (.bytes bs, t) →
      let d := ofBytes bs
      let far : DWord := BitVec.ofNat 64 (dField d 0x10 8)
      (dField d 0 4 = 0 → ∀ xs u, t.ueGet c.1.cx (dField d 8 8) (dField d 4 4) = (.bytes xs, u) →
        s.ueStart p q i = (⟨i, 0, some bs⟩, u.emit (.ueWrite p c.1.remote (dField d 0x18 8 % 1024) far xs))) ∧
      (dField d 0 4 = 1 →
        s.ueStart p q i = (⟨i, 0, some bs⟩, t.emit (.ueRead p c.1.remote (dField d 0x18 8 % 1024) far (dField d 4 4))))) ∧
    (∀ st bs, (up = false → exec (.ueDescriptorComplete p q st bs) s = .next { s with draw := s.draw + 1 }) ∧
      (up = true → UnitDoes (.ueDescriptorComplete p q st bs) (ueUnit p) (State.ueComplete p q st bs) s)) ∧
    (∀ st bs, (∀ e ∈ (c.2.ueQp p q).pending, e.st ≠ 0) → State.ueComplete p q st bs s = c.2) ∧
    (∀ (st : Word) bs e rest, c.1.ordered = true → (c.2.ueQp p q).pending = e :: rest → e.st = 0 → st ≠ 0 →
      State.ueComplete p q st bs s = flushed true (c.2.ueFinish p q e (st.toNat % 7))) ∧
    ∀ va bs, (up = false → exec (.ueRemoteWrite p q va bs) s = .next { s with draw := s.draw + 1 }) ∧
      (up = true → UnitDoes (.ueRemoteWrite p q va bs) (ueUnit p) (State.ueTake p q va bs) s) ∧
      State.ueTake p q va bs s = if c.1.valid then (c.2.uePut { c.1.cx with user := true } va.toNat bs).2 else c.2

/-! ### Boot, election, Surveyor, registers -/

/-- R342, R344, R362, R364, R365: reset; SLSTART starts a lane that is halted; TIMESET moves %time forward once; MEASEXT extends the
measurement with SHA3-256; ATTGO signs the hash of nonce, measurement, device and die, and sets the status; die 1 halts where the lock never came; a boot ends at once on a die that has
booted.
What the rules leave open there is the model's choice: log entries 65, 66, 83. -/
def Sys2Proof.Machine.BootActions : Prop :=
  ∀ s : State,
    (exec .powerOnReset s = .next { State.reset with tape := s.tape, draw := s.draw + 1, bornAt := s.draw + 1, out := s.out }) ∧
    (∀ n, let c := s.core n
      (128 ≤ n ∨ c.sl.halt = false ∨ c.sl.exitHalt = true → exec (.slstartGo n) s = .next s) ∧
      (n < 128 → c.sl.halt = true → c.sl.exitHalt = false → Answers (.slstartGo n) s fun t =>
        let y := (t.core n).sl
        y.halt = false ∧ y.ih = false ∧ y.started = true ∧ (y.warp.lane 0).pc = c.sl.slstart.extractLsb' 1 63 ∧
        (y.warp.lane 0).st = .runnable ∧ (n ≠ 0 → n ≠ 64 → t.timesetOpen = false) ∧ (∀ k, k ≠ n → t.core k = s.core k) ∧
        t = { s with cores := t.cores, timesetOpen := t.timesetOpen })) ∧
    (∀ v, (s.timesetOpen = true → s.time < v → exec (.timeset v) s = .next { s with time := v, timesetOpen := false }) ∧
      (s.timesetOpen = false ∨ v ≤ s.time → exec (.timeset v) s = .next s)) ∧
    (∀ d digest, exec (.measext d digest) s = .next (s.modBoot d fun b =>
      { b with meas := sha3 (toBytes 32 b.meas.toNat ++ toBytes 32 digest.toNat) })) ∧
    (∀ d, let b := s.bootDie d
      let hash := sha3 (toBytes 32 b.attNonce.toNat ++ toBytes 32 b.meas.toNat ++ toBytes 4 s.devnum ++ toBytes 4 d)
      let t := s.devWrite (s.localAddr b.attBuf.toNat) (s.idSign d (toBytes 32 hash.toNat))
      exec (.attgo d) s = .next { t.modBoot d fun b => { b with attSt := true } with draw := t.draw + 1 }) ∧
    (s.memctl.lock = true ∨ s.time.toNat < 2 ^ 30 ∨ (s.bootDie 1).halted = true ∨ (s.bootDie 1).bootst.toNat % 256 ≠ 0 →
      exec .siblingLockTimeout s = .next s) ∧
    (s.memctl.lock = false → 2 ^ 30 ≤ s.time.toNat → (s.bootDie 1).halted = false → (s.bootDie 1).bootst.toNat % 256 = 0 →
      let t := (s.modBoot 1 fun b => { b with bootst := 8, halted := true }).modCore 64 fun c =>
        { c with sl := { c.sl with halt := true, exitHalt := false } }
      exec .siblingLockTimeout s = .next (if (s.bootDie 0).halted then t
        else t.append { sev := .degraded, src := 9, cause := 0x4A, sub := 0, unit := s.devnum * 2 + 1, detail0 := 0 })) ∧
    ∀ d a b train, (1 < d ∨ (s.bootDie d).halted = true ∨ (s.bootDie d).bootst.toNat % 256 ≠ 0 ∨ (d = 1 ∧ s.memctl.lock = false) →
      exec (.bootRomLoad d a b train) s = .next s) ∧
      (d = 0 → (s.bootDie 0).halted = false → (s.bootDie 0).bootst.toNat % 256 = 0 → Answers (.bootRomLoad d a b train) s fun t =>
        (t.bootDie 0).bootst.toNat % 256 ≠ 0 ∧
        (headerFault 0 a = none → train = none → (flashStages a).all (·.ldr) = true → (∀ e ∈ s.ifaces, e.2.returning = []) →
          t.devnum = flashNum a 0xC 4 % 2048 ∧ t.memctl.lock = true ∧ (t.bootDie 0).bootst = 1 ∧
          t.memctl.trained &&& 0x3F = 0x3F ∧ (∀ p < 8, t.linkUp p = true) ∧ look false t.ue.portUp 0 = true ∧
          (s.memctl.lock = false → t.pinned = flashPcnt a) ∧ (s.memctl.lock = true → t.pinned = s.pinned)))

/-- R367, R438, R445: a claim of a lost device is discarded with a record; one with an older epoch than the one held is recorded and not taken; of claims of one epoch the lower
identity is taken, where its key is one of the domain and signed it; a claim held for 2^20 ticks settles and makes its die
leader. CLAIMGO sends a signed claim to the dies of the domain on other devices.
What the rules leave open there is the model's choice: log entry 65. -/
def Sys2Proof.Machine.Claims : Prop :=
  ∀ (d : Nat) (s : State), d < 2 → let b := s.bootDie d
    let gone (dev : Nat) : State := s.append { sev := .corrected, src := 6, cause := 0x41, sub := 0, unit := dev }
    (∀ c : Claim, s.fabric.lost.contains (c.identity.toNat / 2) = true →
      exec (.claimReceive d c) s = .next (gone (c.identity.toNat / 2))) ∧
    (∀ c : Claim, s.fabric.lost.contains (c.identity.toNat / 2) = false →
      (leaderV b.leader = true → c.epoch.toNat < leaderEpoch b.leader → exec (.claimReceive d c) s =
        .next (s.append { sev := .corrected, src := 9, cause := 0x49, sub := 0, unit := s.devnum * 2 + d, detail0 := 0 })) ∧
      (leaderV b.leader = false ∨ leaderEpoch b.leader ≤ c.epoch.toNat → c.heartbeat = true →
        exec (.claimReceive d c) s = .next (s.modBoot d fun b => { b with hb := c.time, hbLast := s.time, lapsed := false })) ∧
      (leaderV b.leader = false ∨ leaderEpoch b.leader ≤ c.epoch.toNat → c.heartbeat = false →
        let signed := Config.dsaVerify c.key (claimBytes c) c.sig
        (b.knows c = false → exec (.claimReceive d c) s = .next s) ∧
        (c.identity.toNat ≠ s.devnum * 2 + d →
          leaderV b.leader = false ∨ leaderEpoch b.leader < c.epoch.toNat ∨ c.identity.toNat < leaderId b.leader →
          Answers (.claimReceive d c) s fun t => if signed = true ∧ b.knows c = true then
              (t.bootDie d).leads = false ∧ (t.bootDie d).claimAt = none ∧
              leaderV (t.bootDie d).leader = true ∧ leaderEpoch (t.bootDie d).leader = c.epoch.toNat ∧
              leaderId (t.bootDie d).leader = c.identity.toNat ∧ settled? (t.bootDie d).leader = false
            else t = s) ∧
        (c.identity.toNat = s.devnum * 2 + d → signed = true → b.knows c = true →
          leaderV b.leader = false ∨ leaderEpoch b.leader < c.epoch.toNat ∨ c.identity.toNat < leaderId b.leader →
          exec (.claimReceive d c) s = .next (s.modBoot d fun b => { b with leader := leaderWord c.epoch.toNat c.identity.toNat })) ∧
        (leaderV b.leader = true → leaderEpoch b.leader = c.epoch.toNat → leaderId b.leader ≤ c.identity.toNat →
          exec (.claimReceive d c) s = .next s))) ∧
    (s.devnum < 2048 → Answers (.claimgo d) s fun t =>
      let c : Claim := { identity := BitVec.ofNat 12 (s.devnum * 2 + d), epoch := BitVec.ofNat 12 (leaderEpoch b.leader), heartbeat := false
                         time := s.time, meas := b.meas, key := s.idKey d, sig := [] }
      (∀ f ∈ s.domainDies d, f / 2 ≠ s.devnum →
        t.sends (f / 2) (f / 2 * 2 ^ 45) (.claim f (claimBytes c) c.key (s.idSign d (claimBytes c)))) ∧
      (t.bootDie d).leads = b.leads ∧
      (leaderV b.leader = false → b.knows c = true →
        leaderId (t.bootDie d).leader = s.devnum * 2 + d ∧ (t.bootDie d).claimAt = some s.time ∧ (t.bootDie d).claimEpoch = c.epoch)) ∧
    (leaderV b.leader = false ∨ settled? b.leader = true → exec (.claimSettle d) s = .next s) ∧
    (leaderV b.leader = true → settled? b.leader = false → leaderId b.leader / 2 ≠ s.devnum →
      exec (.claimSettle d) s = .next ((s.modBoot d fun b => { b with leader := b.leader ||| 0x40000000 }).append
        { sev := .corrected, src := 9, cause := 0x48, sub := 0, unit := s.devnum * 2 + d, detail0 := 0 })) ∧
    ∀ t₀, leaderV b.leader = true → settled? b.leader = false → leaderId b.leader = s.devnum * 2 + d → b.claimAt = some t₀ →
      leaderEpoch b.leader = b.claimEpoch.toNat →
      ((s.time - t₀).toNat < 2 ^ 20 → exec (.claimSettle d) s = .next s) ∧
      (2 ^ 20 ≤ (s.time - t₀).toNat → Answers (.claimSettle d) s fun t =>
        (t.bootDie d).leads = true ∧ settled? (t.bootDie d).leader = true ∧ (t.bootDie d).claimAt = none)

/-- R368, R369, R438, R444, R446: what a lost device sends is discarded with a record; a follower hashes a delivered stage in its memory and answers; a match extends the measurement and
PROGRESS; the leader goes on to the
next stage, tries a refused one three times and then gives the follower up; heartbeats go out by their period, and a follower
whose heartbeat lapsed records it and claims the next epoch.
What the rules leave open there is the model's choice: log entries 65, 110. -/
def Sys2Proof.Machine.DeliveriesAndHeartbeats : Prop :=
  ∀ (d : Nat) (s : State), d < 2 → let b := s.bootDie d
    let gone (dev : Nat) : State := s.append { sev := .corrected, src := 6, cause := 0x41, sub := 0, unit := dev }
    (∀ k digest, (b.stages[k]? = none → exec (.stageDelivery d k digest) s = .next s) ∧
      (∀ x, b.stages[k]? = some x → s.fabric.lost.contains (leaderId b.leader / 2) = true →
        exec (.stageDelivery d k digest) s = .next (gone (leaderId b.leader / 2))) ∧
      ∀ x, b.stages[k]? = some x → s.fabric.lost.contains (leaderId b.leader / 2) = false →
        let r := s.devRead (s.localAddr x.load.toNat) x.image.length
        let answered (ok : Bool) : State := if leaderId b.leader / 2 = r.2.devnum then
            { r.2 with backlog := r.2.backlog ++ [.stageDeliveryAnswer (leaderId b.leader % 2) (r.2.devnum * 2 + d) ok] }
          else r.2.ualink (leaderId b.leader / 2) (leaderId b.leader / 2 * 2 ^ 45) (.deliveryAnswer (leaderId b.leader) k ok)
        (sha3 r.1 = x.digest → b.prog ≤ k → exec (.stageDelivery d k digest) s =
          .next ((answered true).modBoot d fun b =>
            { b with meas := sha3 (toBytes 32 b.meas.toNat ++ toBytes 32 x.digest.toNat), prog := k + 1 })) ∧
        (sha3 r.1 = x.digest → k < b.prog → exec (.stageDelivery d k digest) s = .next (answered true)) ∧
        (sha3 r.1 ≠ x.digest → exec (.stageDelivery d k digest) s = .next (answered false))) ∧
    (∀ f ok, (b.leads = false ∨ b.givenUp.contains f = true ∨ find b.sent f = none → exec (.stageDeliveryAnswer d f ok) s = .next s) ∧
      ∀ k, b.leads = true → b.givenUp.contains f = false → find b.sent f = some k →
        if s.fabric.lost.contains (f / 2) then exec (.stageDeliveryAnswer d f ok) s = .next (gone (f / 2)) else
        (ok = true → exec (.stageDeliveryAnswer d f ok) s =
          .next ((s.modBoot d fun b => { b with tries := del b.tries f }).deliverTo d f (k + 1))) ∧
        (ok = false → look 0 b.tries f + 1 < 3 → Answers (.stageDeliveryAnswer d f ok) s fun t =>
          (∀ x, b.stages[k]? = some x →
            (f / 2 = s.devnum → .stageDelivery (f % 2) k x.digest ∈ t.backlog) ∧
            (f / 2 ≠ s.devnum → (∀ p < 16, s.linkUp p = true) → (∀ w ∈ s.fabric.stuck, w.dev ≠ f / 2) →
              t.sends (f / 2) (f / 2 * 2 ^ 45) (.delivery f k x.digest))) ∧
          look 0 (t.bootDie d).tries f = look 0 b.tries f + 1 ∧ (t.bootDie d).givenUp = b.givenUp) ∧
        (ok = false → 3 ≤ look 0 b.tries f + 1 → Answers (.stageDeliveryAnswer d f ok) s fun t =>
          (t.bootDie d).givenUp = b.givenUp ++ [f])) ∧
    (s.heartbeatDue d = false → exec (.heartbeatSend d) s = .next s) ∧
    (s.heartbeatDue d = true → Answers (.heartbeatSend d) s fun t =>
      (∀ f ∈ s.followers d, f / 2 ≠ s.devnum → t.sends (f / 2) (f / 2 * 2 ^ 45) (.heartbeat f (leaderEpoch b.leader) s.time)) ∧ (t.bootDie d).hbSent = s.time) ∧
    (s.heartbeatLapsed d = false → exec (.heartbeatLapse d) s = .next s) ∧
    (s.heartbeatLapsed d = true → exec (.heartbeatLapse d) s =
      let t := (s.modBoot d fun b => { b with lapsed := true }).append
        { sev := .degraded, src := 9, cause := 0x47, sub := 0, unit := s.devnum * 2 + d, detail0 := 0 }
      let u := t.claimNow d (leaderEpoch (t.bootDie d).leader + 1)
      .next { u with draw := u.draw + 1 })

/-- R447 to R453: Surveyor measures only where it is enabled; a slack under the guard band is a critical margin, and is
recorded when it becomes one; PLANGO adopts the latest plan and no other; a warning of a sensor is recorded once in 2^30 ticks,
a trip is fatal.
What the rules leave open there is the model's choice: log entry 69. -/
def Sys2Proof.Machine.SurveyorEvents : Prop :=
  ∀ s : State,
    (s.survey.en = false → ∀ xs p f, exec (.surveyorTrigMeasure xs p f) s = .next s) ∧
    (s.survey.en = true → ∀ xs p f, Answers (.surveyorTrigMeasure xs p f) s fun t =>
      (t.survey.mc = true ↔ ∃ i < 1024, (look 0 t.survey.slack i).toInt < s.survey.guardBand.toNat) ∧
      (t.survey.ra = true ↔ s.survey.ra = true ∨ f = true) ∧
      (∀ i < 1024, look 0 t.survey.slack i = (xs[i]?).getD (look 0 s.survey.slack i)) ∧
      (planOk p = true → p ≠ s.survey.plan → t.survey.plan = p ∧ t.survey.planSeq = s.survey.planSeq + 1) ∧
      (planOk p = false → t.survey.plan = s.survey.plan ∧ t.survey.planSeq = s.survey.planSeq) ∧
      t.survey.inForce = s.survey.inForce ∧ t.survey.adopted = s.survey.adopted) ∧
    (∀ b c a p f, (s.survey.en = true → (s.freeSlot b).isSome = true → Answers (.surveyorTimingTest ⟨b, c, a⟩ p f) s fun t =>
        t.survey.timing = put (0, 0) s.survey.timing b (c, a) ∧ (t.survey.ra = true ↔ s.survey.ra = true ∨ f = true) ∧
        (planOk p = true → p ≠ s.survey.plan → t.survey.plan = p ∧ t.survey.planSeq = s.survey.planSeq + 1) ∧
        (planOk p = false → t.survey.plan = s.survey.plan ∧ t.survey.planSeq = s.survey.planSeq) ∧
        t.survey.slack = s.survey.slack ∧ t.survey.inForce = s.survey.inForce ∧ t.survey.adopted = s.survey.adopted) ∧
      (s.survey.en = false ∨ s.freeSlot b = none → exec (.surveyorTimingTest ⟨b, c, a⟩ p f) s = .next s)) ∧
    (∀ seq, (seq = s.survey.planSeq → exec (.plango seq) s =
        .next { s with survey := { s.survey with planSt := 0, adopted := seq.setWidth 32, inForce := s.survey.plan } }) ∧
      (seq ≠ s.survey.planSeq → exec (.plango seq) s = .next { s with survey := { s.survey with planSt := 2 } })) ∧
    (∀ k t, look none s.survey.warnAt k = some t → (s.time - t).toNat < 2 ^ 30 → exec (.temperatureWarning k) s = .next s) ∧
    (∀ k, (∀ t, look none s.survey.warnAt k = some t → 2 ^ 30 ≤ (s.time - t).toNat) → exec (.temperatureWarning k) s =
      .next (({ s with survey := { s.survey with warnAt := put none s.survey.warnAt k (some s.time) } } : State).append
        { sev := .degraded, src := 10, cause := 0x4E, sub := 0, unit := 0, addr := 0 })) ∧
    (s.fatal = false → ∀ k, Answers (.temperatureTrip k) s fun t => t.fatal = true ∧ t.fatalRec =
      ({ sev := .fatal, src := 10, cause := 0x4F, sub := 0, unit := 0 } : Record).bytes s.elog.tail s.time)

/-- R340, R341: a write of 4 aligned bytes to the control space writes that one register; a misaligned one, or one of another
size, writes nothing. -/
def Sys2Proof.Machine.RegisterWrites : Prop :=
  ∀ (off : Nat) (v : DWord) (s : State),
    (∀ n, (n ≠ 4 ∧ n ≠ 8) ∨ off % n ≠ 0 ∨ 2 ^ 32 ≤ off ∨ (0x10200000 ≤ off ∧ off < 0x10240000) →
      exec (.registerWrite off n v) s = .next s) ∧
    (off = 0x101A0040 → exec (.registerWrite off 8 v) s = .next { s.push (.timeset v) with draw := s.draw + 1 }) ∧
    (off % 4 = 0 → off < 0x10200000 → off / 8 ≠ 0x101A0040 / 8 → exec (.registerWrite off 4 v) s =
      .next { s.setCtlWord 0 off (v.setWidth 32) with draw := (s.setCtlWord 0 off (v.setWidth 32)).draw + 1 }) ∧
    (∀ n (w : Word), n < 128 → let base := 0x10020000 + 4096 * n
      s.setCtlWord 0 (base + 0x128) w = s.setCore n { s.core n with arithen := w.setWidth 5 } ∧
      (s.setCtlWord 0 (base + 0x120) w).ctlWord 0 (base + 0x120) = w ∧ (s.setCtlWord 0 (base + 0x124) w).ctlWord 0 (base + 0x124) = w ∧
      (s.setCtlWord 0 (base + 0x120) w).ctlWord 0 (base + 0x124) = s.ctlWord 0 (base + 0x124))

/-! ### The whole machine -/

/-- R94: a first halfword whose bits 2–0 are all ones is the reserved length: no bit above bit 2 enters its decoding, no
further halfword is fetched, and every lane of the cluster takes trap 1, whatever its guard. -/
def Obligations.ReservedLength : Prop :=
  (∀ w : BitVec 96, w.extractLsb' 0 3 = 7 → decodeOr w = .unassignedEncoding none) ∧
  (∀ h : Nat, h % 8 = 7 → halfwords h = 1) ∧
  ∀ s : State, exec (.unassignedEncoding none) s =
    .next (finish false 0 (s.trapMask s.cur.cluster (fun _ => ⟨0x01, 0⟩) fun _ => Tops.zero))

/-- R111, R129: an integer instruction changes nothing but the issuing warp, and of it, without a switch marker, nothing but
its destination in the active lanes and the program counters and ages of the lanes; with one, no register outside the
destination that has no open write. -/
def Obligations.RegisterFrame : Prop :=
  ∀ c ∈ [Instr.iadd, .isub, .iadd3, .ineg, .iabs, .imul, .imulh, .imad, .imin, .imax, .and, .or, .xor, .not, .andn, .orn, .shl,
      .shr, .sar, .rotl, .rotr, .fshl, .fshr, .bfe, .bfi, .popc, .clz, .brev, .ffs, .lea, .leaw, .sel],
    ∀ (o : WForm IMod) (s : State), Executes (c o) s → ∃ t, exec (c o) s = .next t ∧
      let act := s.activeOf o.g
      let dest (r : Nat) : Prop := o.d.toNat ≤ r ∧ r < o.d.toNat + (IMod.kind o.m).regs
      t = { s with cores := t.cores, draw := s.draw + 1 } ∧ (∀ n, n ≠ s.cur.who.core → t.core n = s.core n) ∧
      (∀ w, w ≠ s.cur.who → t.warpOf w = s.warpOf w) ∧
      (∀ l r, o.g.sw = false ∨ (look zeroV (s.warp.lane l).v r).opens = [] → o.m.ud = true ∨ l ∉ lanesOf act ∨ ¬ dest r →
        look zeroV (t.warp.lane l).v r = look zeroV (s.warp.lane l).v r) ∧
      (∀ r, o.g.sw = false ∨ (look zeroV s.warp.s r).opens = [] → o.m.ud = false ∨ act = 0 ∨ ¬ dest r →
        look zeroV t.warp.s r = look zeroV s.warp.s r) ∧
      (o.g.sw = false →
        t.warp = { s.warp with lanes := t.warp.lanes, s := t.warp.s, user := t.warp.user, sup := t.warp.sup, last := t.warp.last } ∧
        ∀ l, t.warp.lane l = { s.warp.lane l with v := (t.warp.lane l).v, pc := (t.warp.lane l).pc, age := (t.warp.lane l).age } ∧
          (t.warp.lane l).pc = (if l ∈ lanesOf s.cur.cluster then (s.warp.lane l).pc + BitVec.ofNat 63 (s.cur.len / 2)
            else (s.warp.lane l).pc))

/-- R64, R342, R344, R362, R376: what reset leaves, and the form of memory there.
What the rules leave open there is the model's choice: log entries 3, 4, 6, 7, 8, 9. -/
def Obligations.ResetState : Prop :=
  let s := State.reset
  MemOk s ∧ s.time = 0 ∧ s.timesetOpen = true ∧ s.fatal = false ∧ s.disp.queues = [] ∧ s.disp.tasks = [] ∧ s.io.portUp = [] ∧ s.fabric.portUp = [] ∧ s.memctl.trained = 0 ∧
  ∀ n < 128, let c := s.core n
    let boots : Bool := n = 0 ∨ n = 64
    c.slots = [] ∧ c.waymask = 0 ∧ c.sl.warp.ptroot.getLsbD 0 = false ∧ c.sl.halt = !boots ∧ c.sl.started = boots ∧ c.sl.ih = false ∧
    c.sl.slvec = 0 ∧ c.sqctl = 0 ∧ c.sqwva = 0 ∧ c.sq = [] ∧ c.imask = 0 ∧ c.tvec = 0 ∧
    (boots = true → c.sl.slstart.extractLsb' 1 63 = 0x0C0008100000#63 ∧ (c.sl.warp.lane 0).pc = 0x0C0008100000#63) ∧
    (boots = false → c.sl.slstart = 0) ∧ (c.sl.warp.lane 0).sv = true

/-- R3, R13: every step keeps the canonical form of memory: addresses strictly rising, and no listed byte that an unlisted
address would read as.
What the rules leave open there is the model's choice: log entry 2. -/
def Obligations.StepKeepsMemory : Prop :=
  ∀ s t : State, MemOk s → step s = .next t → MemOk t

/-! ### Where the instructions on memory, barriers and regions complete -/

/-- R196 to R199: DISCARD and DRIFT on this device's DRAM, whose home the core reaches, complete for every active lane:
DISCARD changes no byte outside the lines of its addresses, DRIFT none at all, and each lane of DRIFT receives a status of
its minor, or a word with DB = 1 and LCL = 01. -/
def Sys2Proof.Machine.HintsOnDram : Prop :=
  ∀ s : State, s.plainSpace → s.poison = [] →
    let cx := s.rdCx 0 .none
    let held (t : State) (p : Nat → Prop) : Prop := ∀ pa, s.dramAt pa 1 → p pa → t.held pa = s.held pa
    (∀ o : MForm MMod, Executes (.discard o) s →
      (∀ l ∈ lanesOf (s.activeOf o.g), s.there (cx.va o.a (moffVal o.off) l) 1) → Answers (.discard o) s fun t =>
        held t (fun pa => ∀ l ∈ lanesOf (s.activeOf o.g), pa / 128 ≠ cx.va o.a (moffVal o.off) l / 128) ∧
        (o.g.sw = false → s.onlyWrites t fun _ _ => False)) ∧
    ∀ o : MForm NoMod, (∀ l ∈ lanesOf (s.activeOf o.g), s.there (cx.va o.a (moffVal o.off) l) 1) →
      let drifts (i : Instr) (p : Nat → Prop) : Prop := Executes i s → Answers i s fun t =>
        held t (fun _ => True) ∧ (∀ l ∈ lanesOf (s.activeOf o.g), ∃ v, p v ∧ s.gives t l o.d.toNat v) ∧
        (o.g.sw = false → s.onlyWrites t fun l r => l ∈ lanesOf (s.activeOf o.g) ∧ r = o.d.toNat)
      drifts (.driftP o) (· ≤ 2) ∧ drifts (.driftD o) (· ≤ 1) ∧ drifts (.driftQ o) fun v => v / 128 = 5

/-- R193, R194: LDT of a valid tile in the stash, on a core without windows, gives each active lane the elements of its rows
and columns, 0 outside the tile; memory and the stash stay. -/
def Sys2Proof.Machine.TileLoads : Prop :=
  ∀ (o : LdtForm) (s : State), Executes (.ldt o) s →
    let c := s.core s.cur.who.core
    let cx := s.rdCx 0 o.perm
    let t := tileD (cx.rT o.ti.toNat)
    s.ldtBad t = none → c.windows = [] → c.stashPoison = [] →
    let elem (i j : Nat) : Nat :=
      if t.rows ≤ i ∨ t.cols ≤ j then 0
      else ofBytes (getBytes c.stash ((c.run s.warp.task).base + t.bitAt i j / 8) ((t.width + 7) / 8)) / 2 ^ (t.bitAt i j % 8) % 2 ^ t.width
    let pos (l k : Nat) : Nat × Nat :=
      let b := cx.srcB l o.b .i32
      if o.trn then (b % 65536 + k, b / 65536 + l) else (b % 65536 + l, b / 65536 + k)
    Answers (.ldt o) s fun u => u.mem = s.mem ∧ u.slices = s.slices ∧ (u.core s.cur.who.core).stash = c.stash ∧
      ∀ l ∈ lanesOf (s.activeOf o.g), ∀ j < 2 ^ o.rc.toNat, s.gives u l (o.d.toNat + j)
        ((List.range (32 / t.width)).foldl (fun x k =>
          let p := pos l (j * (32 / t.width) + k)
          x + elem p.1 p.2 * 2 ^ (t.width * k)) 0)

/-- R180, R202, R203: ATOM on aligned words of this device's DRAM completes for every active lane: no byte outside the words
changes, and the lane of a single active one receives the old value and leaves the new one. -/
def Sys2Proof.Machine.AtomicsComplete : Prop :=
  ∀ (op : AtomOp) (o : AForm) (s : State), Executes (.atom op o) s → s.plainSpace → s.poison = [] →
    let cx := s.rdCx 0 .none
    let k := 4 * Ty.regs o.ty
    let va (l : Nat) : Nat := cx.srcA l o.a .i64
    let old (l : Nat) : Nat := ofBytes ((List.range k).map fun i => s.held (va l + i))
    (∀ l ∈ lanesOf (s.activeOf o.g), s.there (va l) k) → Answers (.atom op o) s fun t =>
      (∀ pa, s.dramAt pa 1 → (∀ l ∈ lanesOf (s.activeOf o.g), pa < va l ∨ va l + k ≤ pa) → t.held pa = s.held pa) ∧
      (o.g.sw = false → s.onlyWrites t fun l r => l ∈ lanesOf (s.activeOf o.g) ∧ o.d.toNat ≤ r ∧ r < o.d.toNat + Ty.regs o.ty) ∧
      ∀ l, lanesOf (s.activeOf o.g) = [l] →
        (∀ j < Ty.regs o.ty, s.gives t l (o.d.toNat + j) (old l / 2 ^ (32 * j))) ∧
        ∀ i < k, t.held (va l + i) = (toBytes k ((atomNew op o.ty (old l) (cx.srcB l o.b (Ty.kind o.ty))
          (if op = .cas then cx.srcC l o.c (Ty.kind o.ty) else 0)).getD (old l))).getD i 0

/-- R90, R245: REDQ of a single active lane, on records in this device's DRAM, leaves the requantised sum of its two records in
the one at its address and changes no other byte. -/
def Sys2Proof.Machine.RequantisedSums : Prop :=
  ∀ (f : RedqFmt) (o : MForm NoMod) (s : State) (l : Nat), Executes (.redq f o) s → s.plainSpace → s.poison = [] →
    lanesOf (s.activeOf o.g) = [l] →
    let cx := s.rdCx 0 .none
    let F := redqFmt f
    let n := if F.width = 4 then 32 else 48
    let va := cx.va o.a (moffVal o.off) l
    let src := cx.srcB l o.b .i64
    let bytes (a : Nat) : List Byte := (List.range n).map fun i => s.held (a + i)
    va % 16 = 0 → src % 16 = 0 → s.dramAt va n → s.linked s.cur.who.core va n → s.dramAt src n → s.linked s.cur.who.core src n →
    let y := redqBlock F (recBlock F (bytes src)) (recBlock F (bytes va))
    let old := (bytes va).getD (4 * F.width + 2) 0
    let out := blockBytes F y.1 (if y.2 then old ||| 1 else old) ++ (bytes va).drop (4 * F.width + 3)
    Answers (.redq f o) s fun t => (∀ i < n, t.held (va + i) = out.getD i 0) ∧
      (∀ pa, s.dramAt pa 1 → pa < va ∨ va + n ≤ pa → t.held pa = s.held pa) ∧ (o.g.sw = false → s.onlyWrites t fun _ _ => False)

/-- R78, R79, R90, R245: the sum of two blocks. The NaN block where a scale is NaN, or a sum of E2M1 elements is; else each pair of
elements is added exactly and rounded to FP32, the scale is the least that holds the greatest finite sum, and each element is
its sum divided by the scale and rounded to nearest, an infinity the greatest finite number with ovf, a NaN the canonical one. A
record holds its elements from the low end, then the scale as ten bits, then the OVF byte. -/
def Sys2Proof.Machine.RequantisedBlocks : Prop :=
  ∀ F ∈ [e5m2, e4m3, e2m1],
    (∀ a y : Block,
      let nan : Block × Bool := (⟨none, List.replicate 32 0⟩, false)
      (a.e = none ∨ y.e = none → redqBlock F a y = nan) ∧
      ∀ A Y, a.e = some A → y.e = some Y →
        let x (i : Nat) : FVal := match F.value (a.el.getD i 0), F.value (y.el.getD i 0) with
          | .fin n m e, .fin k l f =>
            let q := min (e + A) (f + Y)
            let t := scaleTo n m (e + A) q + scaleTo k l (f + Y) q
            fp32.value (fp32.round .rne false (decide (t < 0) || m == 0 && l == 0 && n && k) t.natAbs q false).bits
          | .inf i, .inf j => if i = j then .inf i else .nan false
          | .inf i, .fin _ _ _ => .inf i
          | .fin _ _ _, .inf j => .inf j
          | _, _ => .nan false
        let holds (E : Int) : Prop := ∀ i < 32, ∀ n m e, x i = .fin n m e →
          ∃ n' k q, F.value F.maxBits = .fin n' k q ∧ cmpFin (.fin false m e) (.fin false k (q + E)) ≤ 0
        let nanBlock : Prop := F.width = 4 ∧ ∃ i < 32, (x i).isNan = true
        (nanBlock → redqBlock F a y = nan) ∧
        (¬ nanBlock → ∃ E : Int, -511 ≤ E ∧ E ≤ 511 ∧ holds E ∧ (∀ E', -511 ≤ E' → holds E' → E ≤ E') ∧
          redqBlock F a y = (⟨some E, (List.range 32).map fun i => match x i with
            | .nan _ => F.canon
            | .inf n => F.maxOf n
            | .fin n m e => (F.round .rne false n m (e - E) false).bits⟩, (List.range 32).any fun i => (x i).isInf))) ∧
    (∀ bs : List Byte, bs.length = (if F.width = 4 then 32 else 48) →
      let s := ofBytes ((bs.drop (4 * F.width)).take 2) % 2 ^ 10
      (∀ i < 32, (recBlock F bs).el.getD i 0 = ofBytes bs / 2 ^ (F.width * i) % 2 ^ F.width) ∧
      (recBlock F bs).e = if s = 0x200 then none else some (BitVec.ofNat 10 s).toInt) ∧
    ∀ (b : Block) (ovf : Byte), b.el.length = 32 → let bs := blockBytes F b ovf
      bs.length = 4 * F.width + 3 ∧ (∀ i < 32, ofBytes bs / 2 ^ (F.width * i) % 2 ^ F.width = b.el.getD i 0 % 2 ^ F.width) ∧
      ofBytes ((bs.drop (4 * F.width)).take 2) = (match b.e with | none => 0x200 | some E => (BitVec.ofInt 10 E).toNat) ∧
      bs.getD (4 * F.width + 2) 0 = ovf

/-- R207 to R210, R213, R214: for one active lane and a Gazetteer without entries: ENQ on a ring that has room leaves its item and
counts the tail up, DEQ on a ring that is not empty receives the item and counts the head up, WAITV of a word that
differs gives status 1 and of one that agrees, before its deadline, waits, WAKEV wakes none. -/
def Sys2Proof.Machine.RingsAndWaitsComplete : Prop :=
  ∀ (s : State) (l : Nat), s.plainSpace → s.poison = [] → s.gaz = [] →
    let cx := s.rdCx 0 .none
    (∀ o : MForm MMod, lanesOf (s.activeOf o.g) = [l] →
      let va := cx.va o.a (moffVal o.off) l
      let r := rcbOf ((List.range 32).map fun i => s.held (va + i))
      s.there va 32 → r.ok = true →
      (Executes (.enq o) s → r.used < 2 ^ r.log → s.there (r.slot r.tail) 8 → (r.slot r.tail + 8 ≤ va ∨ va + 32 ≤ r.slot r.tail) →
        Answers (.enq o) s fun t => s.gives t l o.d.toNat 0 ∧
          (∀ i < 8, t.held (r.slot r.tail + i) = (storeData cx l o.b 2 8).getD i 0) ∧
          ∀ i < 4, t.held (va + 12 + i) = (toBytes 4 (r.tail + 1)).getD i 0) ∧
      (Executes (.deq o) s → 0 < r.used → s.there (r.slot r.head) 8 → Answers (.deq o) s fun t =>
        let item := ofBytes ((List.range 8).map fun i => s.held (r.slot r.head + i))
        s.gives t l o.d.toNat item ∧ s.gives t l (o.d.toNat + 1) (item / 2 ^ 32) ∧ s.gives t l (o.d.toNat + 2) 0 ∧
        ∀ i < 4, t.held (va + 8 + i) = (toBytes 4 (r.head + 1)).getD i 0)) ∧
    (∀ o : MForm MMod, Executes (.wakev o) s → lanesOf (s.activeOf o.g) = [l] → s.there (cx.va o.a (moffVal o.off) l) 4 →
      Answers (.wakev o) s fun t => s.gives t l o.d.toNat 0 ∧ t.gaz = [] ∧ ∀ pa, s.dramAt pa 1 → t.held pa = s.held pa) ∧
    ∀ o : AForm, Executes (.waitv o) s → lanesOf (s.activeOf o.g) = [l] →
      let k := 4 * Ty.regs o.ty
      let va := cx.srcA l o.a .i64
      let x := ofBytes ((List.range k).map fun i => s.held (va + i))
      let y := cx.srcB l o.b (Ty.kind o.ty)
      let deadline : DWord := BitVec.ofNat 64 (cx.srcC l o.c .i64)
      s.there va k → (s.warp.lane l).st = .runnable →
      (x ≠ y → Answers (.waitv o) s fun t => s.gives t l o.d.toNat 1 ∧ t.gaz = []) ∧
      (x = y → deadline = 0 ∨ s.time < deadline → Answers (.waitv o) s fun t =>
        (t.warp.lane l).st = .waiting ∧ (t.warp.lane l).wait = .gaz deadline o.d ∧
        (t.warp.lane l).pc = (s.warp.lane l).pc ∧
        t.gaz.map (fun e => (e.asid, e.va, e.pa, e.lanes)) =
          [(s.warp.asid, BitVec.ofNat 64 va, va, [⟨l, o.d, deadline⟩])])

/-- R217 to R220: BAR on a group whose object is in the core, by a warp whose core has no window: the arrival and the wait
act on the object at once. -/
def Sys2Proof.Machine.BarriersInTheCore : Prop :=
  ∀ (o : BarForm) (s : State) (t : Task), let n := s.cur.who.core
    let k := o.k.toNat
    let g := (s.warp.groupId k).toNat
    s.activeOf o.g ≠ 0 → s.cur.who.ctx ≠ .sl → s.warp.groupOk k = true → (s.core n).windows = [] →
    find s.disp.tasks s.warp.task.toNat = some t → t.localGroups.contains g = true →
    let act := s.activeOf o.g
    let key := s.warp.task.toNat * 256 + g
    let b := look BarObj.init (s.core n).bars key
    let votes := (lanesOf act).map fun l => (s.rdCx 0 o.perm).rP 5 l o.vin.toNat
    let vote (b : BarObj) : BarObj := if o.ve then { b with all := b.all && votes.all id, any := b.any || votes.any id } else b
    let set (u : State) (b : BarObj) : State := u.barSet n s.warp.task g (.core n key) 0 b
    let joined := s.modWarp fun w => { w with phases := ins w.phases k ⟨b.phase, true⟩ }
    ((find s.warp.phases k).map (·.phase) ≠ some b.phase →
      (Executes (.barArrive o) s → EndsWith (.barArrive o) o.g s (set joined (vote { b with arr := b.arr + 1 })) act) ∧
      (Executes (.barSync o) s → EndsWith (.barSync o) o.g s (set (joined.barWaits o false act) (vote { b with arr := b.arr + 1 })) 0)) ∧
    ((find s.warp.phases k).map (·.phase) = some b.phase →
      (Executes (.barArrive o) s → EndsWith (.barArrive o) o.g s (s.barWaits o true act) 0) ∧
      (Executes (.barSync o) s → EndsWith (.barSync o) o.g s (s.barWaits o true act) 0)) ∧
    (Executes (.barWait o) s →
      (find s.warp.phases k = some ⟨b.phase, true⟩ → EndsWith (.barWait o) o.g s (s.barWaits o false act) 0) ∧
      (∀ p, find s.warp.phases k = some p → p.pw = false ∨ p.phase ≠ b.phase → EndsWith (.barWait o) o.g s (s.modWarp fun w =>
        let w : Warp := { w with phases := ins w.phases k { p with pw := false } }
        if o.ve then w.onLanes act fun _ y => y.wP s.cur.front o.vout.toNat (voteOut b o.vop) else w) act)) ∧
    (Executes (.barPend o) s → EndsWith (.barPend o) o.g s (set s { b with
      pend := (BitVec.ofInt 40 (b.pend + asS 32 ((s.rdCx 0 o.perm).srcB (lowLane act) o.b .i32))).toInt }) act)

/-- R231, R241 to R243: a reader of a region that the warp holds, none of it poisoned, completes where every active lane's
element lies in it: the lanes receive its value, and the regions and memory stay.
What the rules leave open there is the model's choice: log entry 124. -/
def Sys2Proof.Machine.ReadersComplete : Prop :=
  ∀ (o : RegForm) (s : State) (r : Region),
    let cx := s.rdCx 0 o.perm
    let a := accD (cx.rA o.ai.toNat)
    let e (l : Nat) : Nat := cx.srcB l o.b .i32
    find (s.slice a.hcore).regions a.line = some r → a.v = true → r.key = a.key → r.rows = a.rows → r.cols = a.cols →
    r.holder = some s.source → r.poison = [] →
    let reads (i : Instr) (n size : Nat) (v : Nat → Nat) : Prop :=
      Executes i s → (∀ l ∈ lanesOf (s.activeOf o.g), e l < size) → Answers i s fun t =>
        t.mem = s.mem ∧ t.slices = s.slices ∧
        ∀ l ∈ lanesOf (s.activeOf o.g), ∀ j < n, s.gives t l (o.d.toNat + j) (v (e l) / 2 ^ (32 * j))
    reads (.mread .plain o) 1 r.size r.read ∧
    (a.fixed = true → reads (.mread .raw o) 4 r.size fun e => (r.at_ e).toNat) ∧
    reads (.mread .st o) 1 (2 ^ 32) (fun _ => (if r.ovf then 1 else 0) + (if r.nvf then 2 else 0) + (if r.fixed then 4 else 0)) ∧
    (∀ df sat, let F := mcvtFmt df
      let n := 32 / F.width
      reads (.mcvt df sat o) 1 (r.size + 1 - n) fun e =>
        (mapElemsF F.width n fun j => F.convert .rne sat false (fp32.value (r.read (e + j)))).1) ∧
    reads (.rowstat o) 4 r.rows fun i => let x := rowStats r i
      x.1 + x.2.1 * 2 ^ 32 + x.2.2 * 2 ^ 64 + ((if r.ovf then 1 else 0) + (if r.nvf then 2 else 0)) * 2 ^ 96

/-- R244: MSPILL to this device's DRAM, of a region that the warp holds and whose slice has no request waiting, writes the image
there and no other byte; MFILL from it gives the region the elements and flags of the image. -/
def Sys2Proof.Machine.ImagesComplete : Prop :=
  ∀ (o : SpillForm) (s : State) (r : Region), s.activeOf o.g ≠ 0 → (s.core s.cur.who.core).l1 = [] →
    let cx := s.rdCx 0 .none
    let va := cx.va o.a (moffVal o.off) (lowLane (s.activeOf o.g))
    let a := accD (cx.rA o.ai.toNat)
    let n := 128 * r.lines + 16
    va % 128 = 0 → s.plainSpace → s.poison = [] → s.dramAt va n → s.linked s.cur.who.core va n →
    (s.slice a.hcore).inq = [] → find (s.slice a.hcore).regions a.line = some r → a.v = true → r.key = a.key →
    r.rows = a.rows → r.cols = a.cols → r.holder = some s.source → r.size * elemBytes r.fixed = 128 * r.lines →
    (Executes (.mspill o) s → r.poison = [] → Answers (.mspill o) s fun t =>
      (∀ i < n, t.held (va + i) = r.image.getD i 0) ∧ ∀ pa, s.dramAt pa 1 → pa < va ∨ va + n ≤ pa → t.held pa = s.held pa) ∧
    (Executes (.mfill o) s → Answers (.mfill o) s fun t =>
      let bs := (List.range n).map fun i => s.held (va + i)
      let trail := ofBytes (bs.drop (128 * r.lines))
      ∃ r', find (t.slice a.hcore).regions a.line = some r' ∧
        (∀ e < r.size, r'.at_ e = BitVec.ofNat 128 (ofBytes ((bs.drop (elemBytes r.fixed * e)).take (elemBytes r.fixed)))) ∧
        r'.ovf = decide (trail % 2 = 1) ∧ r'.nvf = decide (trail / 2 % 2 = 1) ∧ r'.poison = [] ∧ r'.key = r.key)

/-- R265: CFLUSH, CINV and ICINV of addresses in this device's DRAM, of parcels that are not fenced and with open ways to their
homes, act for every active lane in turn.
What the rules leave open there is the model's choice: log entry 97. -/
def Sys2Proof.Machine.CacheLinesComplete : Prop :=
  ∀ (o : WForm NoMod) (s : State), s.warp.ptroot.getLsbD 0 = false → s.still → s.parcelsFree →
    let act := s.activeOf o.g
    let va (l : Nat) : Nat := (s.rdCx (o.lit.getD 0) o.perm).srcA l o.a .i64
    (∀ l ∈ lanesOf act, va l < 2 ^ 56 ∧ s.place (va l) = .dram ∧ s.linked s.cur.who.core (va l) 1) →
    let as1 (f : State → Nat → State) (t : State) (pa : Nat) : State := (f (t.carry 1) pa).carry 0
    let does (i : Instr) (f : State → Nat → State) : Prop := Executes i s →
      EndsWith i o.g s ((((lanesOf act).foldl (fun t l => f t (va l)) s).fqFlush s.cur.who.core
        (s.core s.cur.who.core).fqCount).marks act) act
    does (.cflush o) (as1 State.flushLine) ∧ does (.cinv o) (as1 fun t => t.dropLine t.cur.who.core) ∧ does (.icinv o) State.dropCopies

/-- R249, R250: a message for a ring in the stash that has room fills the slot of its tail, and the tail counts up.
What the rules leave open there is the model's choice: log entry 39. -/
def Sys2Proof.Machine.MessagesLand : Prop :=
  ∀ (n : Nat) (s : State) (m : Msg) (t : Task), n < 128 → (s.msgs.find? fun m => decide (s.msgEnd m = .unit n) && !s.msgHeld m) = some m →
    find s.disp.tasks m.task.toNat = some t → ((s.core n).slots.any fun e => e.2.task == m.task) = true →
    (s.core n).windows = [] → (s.core n).stashPoison = [] → m.data.length ≤ 64 →
    let run := (s.core n).run m.task
    let r := ringOf (getBytes (s.core n).stash (run.base + 32 * m.ring) 32) run.size
    let slot := r.doff + 128 * (r.tail % 2 ^ r.log)
    32 * m.ring + 32 ≤ run.size → r.ok = true → r.used < 2 ^ r.log → (r.we = false ∨ r.used ≠ 0) →
    (slot + 128 ≤ 32 * m.ring ∨ 32 * m.ring + 32 ≤ slot) →
    Answers (.messageReceive n) s fun u => u.msgs = (s.msgs.filter fun x => x.id ≠ m.id) ∧
      (∀ i < 128, look 0 (u.core n).stash (run.base + slot + i) = m.slot.getD i 0) ∧
      (∀ i < 4, look 0 (u.core n).stash (run.base + 32 * m.ring + 12 + i) = (toBytes 4 (r.tail + 1)).getD i 0) ∧ u.mem = s.mem

/-- R252, R253, R315, R318, R319: a launch with a well-formed descriptor in this device's DRAM, of a task without groups, enters its queue;
a head whose dependence word is not 0 becomes eligible; the only head, of one warp, goes to the first slot of the core that
the Dispatcher points at, where that core is free. -/
def Sys2Proof.Machine.LaunchToPlacement : Prop :=
  (∀ (r : LaunchReq) (rest : List LaunchReq) (s : State) (t : Task), s.fatal = false → firstLaunch s.disp.reqs = ([r], rest) →
    let q := r.queue.toNat % 64
    let bs := (List.range 192).map fun i => s.held (r.addr.toNat + i)
    let u : Task := { t with memb := List.replicate t.nwarps 0xFFFFFFFF, localGroups := [] }
    let k := s.disp.freshNum
    (look [] s.disp.queues q).length < 256 → r.queue.toNat / 64 = 0 → r.addr.toNat % 64 = 0 → r.ptroot.getLsbD 0 = false →
    s.poison = [] → s.parcelsFree → s.still → s.dramAt r.addr.toNat 192 → s.linked 128 r.addr.toNat 192 →
    s.parseTask r (ofBytes bs) = some t → dField (ofBytes bs) 0x20 8 = 0 → t.used = 0 → t.gtab = 0 → s.placeable u = true →
    Answers .launchAccept s fun v => v.disp.reqs = rest ∧
      find v.disp.tasks k = some { u with num := BitVec.ofNat 32 k } ∧
      (look [] v.disp.queues q).map (·.task) = (look [] s.disp.queues q).map (·.task) ++ [BitVec.ofNat 32 k]) ∧
  (∀ (q : Nat) (s : State) (e : QEntry) (es : List QEntry) (t : Task), look [] s.disp.queues q = e :: es → e.dep ≠ .met →
    find s.disp.tasks e.task.toNat = some t → t.ptroot.getLsbD 0 = false → s.poison = [] → s.parcelsFree →
    s.still → s.dramAt t.depva.toNat 4 → s.linked 128 t.depva.toNat 4 → t.depva.toNat % 4 = 0 →
    (∃ i < 4, s.held (t.depva.toNat + i) ≠ 0) → Answers (.dependencePoll q) s fun u =>
      look [] u.disp.queues q = { e with dep := .met, since := some s.time, rise := s.time } :: es ∧
      ∀ g ∈ u.gaz, g.owner ≠ .queue q) ∧
  ∀ (q : Nat) (s : State) (e : QEntry) (t : Task), s.fatal = false → s.disp.owed = [] → s.disp.resume = [] → s.disp.queues = [(q, [e])] → e.dep = .met →
    e.level ≤ 7 →
    find s.disp.tasks e.task.toNat = some t → t.memb = [0xFFFFFFFF] → t.used = 0 → t.gtab = 0 → t.place = .any →
    s.disp.ptr < 128 →
    let n := s.disp.ptr
    let c := s.core n
    c.retired = false → c.slots = [] → c.stashRuns = [] → t.stash ≤ c.stashSize → t.vgran ≤ 64 → t.sgran ≤ 64 →
    Answers .taskPlacement s fun u => u.warpOf ⟨n, .slot 0⟩ = t.newWarp 0 ∧
      find u.disp.tasks t.num.toNat = some { t with st := .running, warps := [(0, ⟨n, 0⟩)] } ∧
      u.disp.queues = [] ∧ u.disp.ptr = (n + 1) % 128 ∧ .taskStart t.num.toNat ∈ u.backlog

/-- R204, R205, R230: a contribution that stands alone at its slice and names a region by its key is added to its element. -/
def Sys2Proof.Machine.ContributionsLand : Prop :=
  ∀ (h : Nat) (s : State) (q : SliceReq) (hd : Desc128) (r : Region) (l e : Nat) (v : Word),
    let a := accD hd
    (s.slice h).inq = [q] → q.op = .contribute hd none false false [(l, e, v)] → a.v = true →
    find (s.slice h).regions a.line = some r → r.key = a.key → e < r.size →
    Answers (.contributionApply h 0) s fun t => (t.slice h).inq = [] ∧ find (t.slice h).regions a.line = some (r.add e v) ∧
      (∀ k, k ≠ a.line → find (t.slice h).regions k = find (s.slice h).regions k) ∧ t.mem = s.mem

/-- R353 to R355, R408: a read and a write of an endpoint that the device table admits without a stage, on this device's DRAM, within
one page: the read completes with the bytes, the write leaves its bytes there.
What the rules leave open there is the model's choice: log entry 63. -/
def Sys2Proof.Machine.EndpointsReachDram : Prop :=
  ∀ (r : IoReq) (s : State),
    let at_ := s.localAddr (bitsN s.io.iodtb.toNat 55 21 * 2 ^ 21 + 32 * r.rid.toNat)
    let d := ofBytes ((List.range 32).map fun i => s.held (at_ + i))
    let w := dField d 0 4
    let a := r.addr.toNat
    s.portUp r.port = true → r.ecrcBad = false → r.pasid = none → r.poisoned = false → isMsi r = none → s.io.en = true → s.io.kept = [] →
    (∀ e ∈ s.parked, e.1 ≠ rootUnit r.port) →
    s.poison = [] → s.parcelsFree → s.still → s.dramAt at_ 32 → s.linked (rootUnit r.port) at_ 32 →
    w.testBit 0 = true → w.testBit 1 = false → w.testBit 2 = false → bitsN w 31 12 < dField d 4 4 % 2 ^ 21 →
    (∀ n, r.kind = .read n → 0 < n → a % 4096 + n ≤ 4096 → s.dramAt a n → s.linked (rootUnit r.port) a n → Answers (.endpointRequest r) s fun t =>
      t.out = s.out ++ [.completion r.rid.toNat ((List.range n).map fun i => s.held (a + i)) false] ∧
      ∀ pa, s.dramAt pa 1 → t.held pa = s.held pa) ∧
    ∀ bs, r.kind = .write bs → 0 < bs.length → a % 4096 + bs.length ≤ 4096 → s.dramAt a bs.length → s.linked (rootUnit r.port) a bs.length →
      Answers (.endpointRequest r) s fun t => (∀ i < bs.length, t.held (a + i) = bs.getD i 0) ∧
        ∀ pa, s.dramAt pa 1 → pa < a ∨ a + bs.length ≤ pa → t.held pa = s.held pa

/-! ### The statements that join several of these -/

/-- R3, R93, R94, R265, R269, R342: the bits that an issue fetches, and how many of them enter its decoding. -/
def Obligations.FetchAndLength : Prop :=
  Sys2Proof.Machine.FetchFromRom ∧ Sys2Proof.Machine.FetchFromDram ∧ Sys2Proof.Machine.DecodeReadsItsLength

/-- R132, R133: integer arithmetic and the bitwise operations, element by element. -/
def Obligations.IntegerArithmetic : Prop :=
  Sys2Proof.Machine.IntegerArithmetic ∧ Sys2Proof.Machine.IntegerBitwise

/-- R134, R135: shifts, rotates, funnel shifts, and the field and bit-count operations. -/
def Obligations.IntegerShiftsAndFields : Prop :=
  Sys2Proof.Machine.IntegerShifts ∧ Sys2Proof.Machine.IntegerFields

/-- R53, R103, R107, R112, R113, R130, R131: where the result of an instruction stands after it. -/
def Obligations.ResultsLand : Prop :=
  Sys2Proof.Machine.ResultRegisters ∧ Sys2Proof.Machine.UniformResult ∧ Sys2Proof.Machine.SettledWrites ∧ Sys2Proof.Machine.PredicateSeven

/-- R54, R55, R57, R139 to R141: predicate combinations, moves, and the descriptor words of the uniform file. -/
def Obligations.PredicatesAndMoves : Prop :=
  Sys2Proof.Machine.PredicateCombinations ∧ Sys2Proof.Machine.Moves ∧ Sys2Proof.Machine.DescriptorMoves

/-- R82, R84, R85, R158, R160 to R163, R165, R166, R169, R170, R383: the float instructions, what their results are of the operands, and the bound of each special function. -/
def Obligations.FloatInstructions : Prop :=
  Sys2Proof.Machine.FloatArithmetic ∧ Sys2Proof.Machine.SpecialFunctions ∧ Sys2Proof.Machine.FloatCompareConvert ∧ Sys2Proof.Machine.RoundsToTheFormat ∧ Sys2Proof.Machine.FloatResults ∧ Sys2Proof.Machine.FloatSpecialOperands ∧ Sys2Proof.Machine.MinimumMaximum ∧ Sys2Proof.Machine.Comparisons ∧ Sys2Proof.Machine.Conversions ∧ Sys2Proof.Machine.SpecialValues ∧ Sys2Proof.Machine.SpecialBounds ∧ Sys2Proof.Machine.SpecialReference

/-- R74, R82: what rounding returns. -/
def Obligations.Rounding : Prop :=
  Sys2Proof.Machine.RoundingToAMultiple ∧ Sys2Proof.Machine.PatternsRoundToThemselves

/-- R77 to R79, R171 to R175: the block forms, the elements and the scale of a packed block, and the elements of an unpacked one. -/
def Obligations.Blocks : Prop :=
  Sys2Proof.Machine.BlockForms ∧ Sys2Proof.Machine.PackedBlocks ∧ Sys2Proof.Machine.UnpackedBlocks

/-- R152 to R155: the cross-lane instructions. -/
def Obligations.CrossLane : Prop :=
  Sys2Proof.Machine.Shuffles ∧ Sys2Proof.Machine.Votes ∧ Sys2Proof.Machine.Reductions

/-- R106, R152, R154: the lanes that a cross-lane instruction reads, and the values of reductions. -/
def Obligations.CrossLaneValues : Prop :=
  Sys2Proof.Machine.LanesStayInTheirTile ∧ Sys2Proof.Machine.ReductionValues

/-- R99, R142 to R144: branches, calls and returns. -/
def Obligations.Branches : Prop :=
  Sys2Proof.Machine.BranchesAndCalls ∧ Sys2Proof.Machine.BranchTargets

/-- R145 to R148: the joining of lanes: what arrives, when a record is complete, and what its release does. -/
def Obligations.Joins : Prop :=
  Sys2Proof.Machine.JoinArrives ∧ Sys2Proof.Machine.JoinCompletes ∧ Sys2Proof.Machine.JoinRelease ∧ Sys2Proof.Machine.JoinTimesOut

/-- R22, R31, R36, R42, R148, R149: the end of lanes, and the hint to the scheduler. -/
def Obligations.ExitAndYield : Prop :=
  Sys2Proof.Machine.ExitEnds ∧ Sys2Proof.Machine.YieldRotates

/-- R343, R380, R381, R394, R395: traps that no handler takes, traps of the supervisor lane, and the registers of a lane that hold the error. -/
def Obligations.TrapsWithoutHandler : Prop :=
  Sys2Proof.Machine.TrapStopsTheLane ∧ Sys2Proof.Machine.SupervisorLaneTraps ∧ Sys2Proof.Machine.ErrorRegisters

/-- R119, R120, R375: encodings that trap. -/
def Obligations.IllegalTraps : Prop :=
  Sys2Proof.Machine.IllegalTraps ∧ Sys2Proof.Machine.UnassignedEncodings

/-- R26, R118, R119, R140, R176, R177, R262, R374: operations whose lanes trap on their mode or their operands. -/
def Obligations.TrapsInActiveLanes : Prop :=
  Sys2Proof.Machine.PrivilegeTraps ∧ Sys2Proof.Machine.DivisionsTrap

/-- R110, R111, R184, R185, R188 to R200, R245, R306, R378, R397, R419: the memory instructions lane by lane, windows, hints and fences, and the return of results. -/
def Obligations.MemoryInstructions : Prop :=
  Sys2Proof.Machine.MemoryLanes ∧ Sys2Proof.Machine.WindowFields ∧ Sys2Proof.Machine.WindowInstructions ∧ Sys2Proof.Machine.WindowsGoHome ∧ Sys2Proof.Machine.Releases ∧ Sys2Proof.Machine.Prefetches ∧ Sys2Proof.Machine.ResultsReturn

/-- R105, R179, R183 to R185, R196 to R199, R269: what a load of DRAM reads and a store to it writes, and what DISCARD and DRIFT do there. -/
def Obligations.DramAccess : Prop :=
  Sys2Proof.Machine.LoadFromDram ∧ Sys2Proof.Machine.StoreToDram ∧ Sys2Proof.Machine.HintsOnDram

/-- R183, R188, R193, R194, R276: loads and stores of the stash, and tile loads from it. -/
def Obligations.StashAccess : Prop :=
  Sys2Proof.Machine.StashAccess ∧ Sys2Proof.Machine.TileLoads

/-- R202, R209, R211, R214, R245, R282: the atomic instructions lane by lane, and their values. -/
def Obligations.Atomics : Prop :=
  Sys2Proof.Machine.AtomicLanes ∧ Sys2Proof.Machine.AtomicValues

/-- R78, R79, R90, R180, R202, R203, R245, R374: an atomic of a lane on DRAM, ATOM, and REDQ with the sum that it leaves. -/
def Obligations.AtomicOnDram : Prop :=
  Sys2Proof.Machine.AtomicOnDram ∧ Sys2Proof.Machine.AtomicsComplete ∧ Sys2Proof.Machine.RequantisedSums ∧ Sys2Proof.Machine.RequantisedBlocks

/-- R207 to R214, R349, R350: rings, and waits on memory. -/
def Obligations.RingsAndWaits : Prop :=
  Sys2Proof.Machine.RingOutcomes ∧ Sys2Proof.Machine.WaitOutcomes ∧ Sys2Proof.Machine.RingsAndWaitsComplete

/-- R216 to R221: barriers. -/
def Obligations.Barriers : Prop :=
  Sys2Proof.Machine.BarrierPhases ∧ Sys2Proof.Machine.BarriersOfAGroup ∧ Sys2Proof.Machine.BarriersAlone ∧ Sys2Proof.Machine.BarriersInTheCore

/-- R204, R205, R225, R226, R228 to R230, R239: the requests of the region instructions at the core and at the slice. -/
def Obligations.Regions : Prop :=
  Sys2Proof.Machine.RegionRequests ∧ Sys2Proof.Machine.RegionArmed ∧ Sys2Proof.Machine.TokenAcquire ∧ Sys2Proof.Machine.RegionTokens ∧ Sys2Proof.Machine.SliceRequests

/-- R231, R241 to R244, R411, R413: the readers of a region and the images of its lines. -/
def Obligations.RegionReadersAndImages : Prop :=
  Sys2Proof.Machine.RegionReaders ∧ Sys2Proof.Machine.RegionImages ∧ Sys2Proof.Machine.ReadersComplete ∧ Sys2Proof.Machine.ImagesComplete

/-- R80, R81, R87, R88, R204, R205, R230: what contributions do to a region. -/
def Obligations.RegionContributions : Prop :=
  Sys2Proof.Machine.RegionContributions ∧ Sys2Proof.Machine.ContributionsLand

/-- R222, R224, R233, R234, R246, R247, R338, R375, R384: the instructions that start the engines. -/
def Obligations.Engines : Prop :=
  Sys2Proof.Machine.EngineTakesItsTag ∧ Sys2Proof.Machine.EnginesStart ∧ Sys2Proof.Machine.EngineTagTaken

/-- R86, R220, R222, R235, R238, R239, R246, R247, R391: how runs of the engines go on and end, the bytes that they deliver, and what a matrix step computes and leaves. -/
def Obligations.EngineEvents : Prop :=
  Sys2Proof.Machine.EngineEvents ∧ Sys2Proof.Machine.CopyBytes ∧ Sys2Proof.Machine.McastBytes ∧ Sys2Proof.Machine.MloopStepValues ∧ Sys2Proof.Machine.MloopAdvances ∧ Sys2Proof.Machine.TagCompletes

/-- R249, R250, R325: messages. -/
def Obligations.Messages : Prop :=
  Sys2Proof.Machine.MessagesSent ∧ Sys2Proof.Machine.MessagesReceived ∧ Sys2Proof.Machine.MessagesLand

/-- R49, R252, R315 to R317, R327, R387: launches and their answers, dependences, and the age of queue heads. -/
def Obligations.Launches : Prop :=
  Sys2Proof.Machine.LaunchRequests ∧ Sys2Proof.Machine.LaunchAnswers ∧ Sys2Proof.Machine.Dependences ∧ Sys2Proof.Machine.HeadsAge

/-- R36, R148, R252, R253, R315, R318, R319, R327, R427: launches, dependences and the placement of a task that the Dispatcher considers. -/
def Obligations.TaskPlacement : Prop :=
  Sys2Proof.Machine.Placement ∧ Sys2Proof.Machine.LaunchToPlacement

/-- R46, R48, R68, R70, R254: tasks stopped, saved and resumed. -/
def Obligations.Preemption : Prop :=
  Sys2Proof.Machine.StopAndResume ∧ Sys2Proof.Machine.SavedAndResumed

/-- R255 to R260, R327, R345, R346, R348, R396: calls to the supervisor lane, its replies, and gates. -/
def Obligations.SupervisorQueue : Prop :=
  Sys2Proof.Machine.SupervisorCalls ∧ Sys2Proof.Machine.SupervisorReplies ∧ Sys2Proof.Machine.Gates

/-- R261, R401 to R405: the fault queue. -/
def Obligations.FaultQueue : Prop :=
  Sys2Proof.Machine.FaultEntries

/-- R60 to R66, R263, R264, R357, R418: the special registers. -/
def Obligations.SpecialRegisters : Prop :=
  Sys2Proof.Machine.CsrReads ∧ Sys2Proof.Machine.CsrWrites ∧ Sys2Proof.Machine.WaysChange ∧ Sys2Proof.Machine.RegisterIndex

/-- R265, R266, R419, R420: translations dropped, cache lines written back and dropped, and orphaned parcels. -/
def Obligations.Maintenance : Prop :=
  Sys2Proof.Machine.TranslationsDropped ∧ Sys2Proof.Machine.CacheLines ∧ Sys2Proof.Machine.CacheLinesComplete ∧ Sys2Proof.Machine.Orphans

/-- R214, R215, R281, R308, R341, R344, R345, R350, R351: the tick, the clocks and counters, and the deadlines of entries. -/
def Obligations.TicksAndDeadlines : Prop :=
  Sys2Proof.Machine.Ticks ∧ Sys2Proof.Machine.ClocksAndCounters ∧ Sys2Proof.Machine.EntriesEnd

/-- R288, R290, R291, R414, R415: the activation counters and their slots. -/
def Obligations.CrestSlots : Prop :=
  Sys2Proof.Machine.SlotCopies ∧ Sys2Proof.Machine.RepeatedActivations ∧ Sys2Proof.Machine.SlotCommands

/-- R281, R283, R308, R309, R314, R366, R406, R407, R413, R416, R435, R450: lines, DRAM reads and the memory controller. -/
def Obligations.MemorySystem : Prop :=
  Sys2Proof.Machine.LinesMove ∧ Sys2Proof.Machine.DramReads ∧ Sys2Proof.Machine.MemoryControl

/-- R311, R312, R314, R343, R344, R358, R419 to R422, R426, R427, R436 to R438: parcels, and devices lost and joined. -/
def Obligations.ParcelsAndDevices : Prop :=
  Sys2Proof.Machine.ParcelRequests ∧ Sys2Proof.Machine.DevicesLostAndJoined ∧ Sys2Proof.Machine.DeviceEvents

/-- R325 to R328, R331 to R336, R428 to R432: packets, links and routes. -/
def Obligations.Network : Prop :=
  Sys2Proof.Machine.PacketsMove ∧ Sys2Proof.Machine.LinksAndRoutes

/-- R352 to R357, R360 to R362, R408, R439 to R442: the endpoint, root ports and queue pairs. -/
def Obligations.EndpointsAndPorts : Prop :=
  Sys2Proof.Machine.EndpointRequests ∧ Sys2Proof.Machine.EndpointsReachDram ∧ Sys2Proof.Machine.InterruptsAndRootPorts ∧ Sys2Proof.Machine.QueuePairs

/-- R342, R344, R362, R364, R365, R367 to R369, R438, R444 to R446: boot, claims, and heartbeats. -/
def Obligations.BootAndElection : Prop :=
  Sys2Proof.Machine.BootActions ∧ Sys2Proof.Machine.Claims ∧ Sys2Proof.Machine.DeliveriesAndHeartbeats

/-- R340, R341, R447 to R453: the surveyor, and writes to the registers of the units. -/
def Obligations.SurveyorAndRegisters : Prop :=
  Sys2Proof.Machine.SurveyorEvents ∧ Sys2Proof.Machine.RegisterWrites
end

