-- ==== Sys2Proof/Laws/PerInstr.lean ====
section
/-! SUPPORT. A statement about every instruction as syntax: the low bits of an encoding announce its length. -/

namespace Sys2Proof.Laws

variable {n m : Nat}

theorem getLsbD_low (x : BitVec n) (y : BitVec m) {i : Nat} (h : i < m) : (x ++ y).getLsbD i = y.getLsbD i := by
  simp [BitVec.getLsbD_append, h]

theorem extract_above_one (x : BitVec n) (y : BitVec m) : ((x ++ y) ++ 1#1).extractLsb' 1 m = y := by
  apply BitVec.eq_of_getLsbD_eq
  intro i hi
  simp [BitVec.getLsbD_append, hi]

theorem lengthCode_fields {l : Len} {f : Fields} {e : Encoded} (h : encodeFields l f = some e) :
    lengthCode e.bits = some e.bytes := by
  obtain rfl : _ = e := Option.some.inj h
  have h0 : (f.toBits l).getLsbD 0 = true := (getLsbD_low _ 1#1 (by decide)).trans rfl
  have h1 : (f.toBits l).extractLsb' 1 2 = l.code := extract_above_one _ _
  simp only [lengthCode, h0, h1, Bool.true_eq_false, if_false]
  cases l <;> rfl

theorem lengthCode_compact {op : BitVec 4} {o : C16} {e : Encoded} (h : encodeC16 op o = some e) :
    lengthCode e.bits = some e.bytes := by
  obtain rfl : _ = e := Option.some.inj h
  exact if_pos ((getLsbD_low _ 0#1 (by decide)).trans rfl)

/-- R93: the lowest bits of what the encoder gives for i are those of its length. -/
def EncodedLength.Statement (i : Instr) : Prop := ∀ e, encode i = some e → lengthCode e.bits = some e.bytes

theorem EncodedLength.iadd (o : WForm IMod) : EncodedLength.Statement (.iadd o) := fun _ h => lengthCode_fields h
theorem EncodedLength.isub (o : WForm IMod) : EncodedLength.Statement (.isub o) := fun _ h => lengthCode_fields h
theorem EncodedLength.iadd3 (o : WForm IMod) : EncodedLength.Statement (.iadd3 o) := fun _ h => lengthCode_fields h
theorem EncodedLength.ineg (o : WForm IMod) : EncodedLength.Statement (.ineg o) := fun _ h => lengthCode_fields h
theorem EncodedLength.iabs (o : WForm IMod) : EncodedLength.Statement (.iabs o) := fun _ h => lengthCode_fields h
theorem EncodedLength.imul (o : WForm IMod) : EncodedLength.Statement (.imul o) := fun _ h => lengthCode_fields h
theorem EncodedLength.imulh (o : WForm IMod) : EncodedLength.Statement (.imulh o) := fun _ h => lengthCode_fields h
theorem EncodedLength.imad (o : WForm IMod) : EncodedLength.Statement (.imad o) := fun _ h => lengthCode_fields h
theorem EncodedLength.imadw (o : WForm IMod) : EncodedLength.Statement (.imadw o) := fun _ h => lengthCode_fields h
theorem EncodedLength.imin (o : WForm IMod) : EncodedLength.Statement (.imin o) := fun _ h => lengthCode_fields h
theorem EncodedLength.imax (o : WForm IMod) : EncodedLength.Statement (.imax o) := fun _ h => lengthCode_fields h
theorem EncodedLength.and (o : WForm IMod) : EncodedLength.Statement (.and o) := fun _ h => lengthCode_fields h
theorem EncodedLength.or (o : WForm IMod) : EncodedLength.Statement (.or o) := fun _ h => lengthCode_fields h
theorem EncodedLength.xor (o : WForm IMod) : EncodedLength.Statement (.xor o) := fun _ h => lengthCode_fields h
theorem EncodedLength.not (o : WForm IMod) : EncodedLength.Statement (.not o) := fun _ h => lengthCode_fields h
theorem EncodedLength.andn (o : WForm IMod) : EncodedLength.Statement (.andn o) := fun _ h => lengthCode_fields h
theorem EncodedLength.orn (o : WForm IMod) : EncodedLength.Statement (.orn o) := fun _ h => lengthCode_fields h
theorem EncodedLength.shl (o : WForm IMod) : EncodedLength.Statement (.shl o) := fun _ h => lengthCode_fields h
theorem EncodedLength.shr (o : WForm IMod) : EncodedLength.Statement (.shr o) := fun _ h => lengthCode_fields h
theorem EncodedLength.sar (o : WForm IMod) : EncodedLength.Statement (.sar o) := fun _ h => lengthCode_fields h
theorem EncodedLength.rotl (o : WForm IMod) : EncodedLength.Statement (.rotl o) := fun _ h => lengthCode_fields h
theorem EncodedLength.rotr (o : WForm IMod) : EncodedLength.Statement (.rotr o) := fun _ h => lengthCode_fields h
theorem EncodedLength.fshl (o : WForm IMod) : EncodedLength.Statement (.fshl o) := fun _ h => lengthCode_fields h
theorem EncodedLength.fshr (o : WForm IMod) : EncodedLength.Statement (.fshr o) := fun _ h => lengthCode_fields h
theorem EncodedLength.bfe (o : WForm IMod) : EncodedLength.Statement (.bfe o) := fun _ h => lengthCode_fields h
theorem EncodedLength.bfi (o : WForm IMod) : EncodedLength.Statement (.bfi o) := fun _ h => lengthCode_fields h
theorem EncodedLength.popc (o : WForm IMod) : EncodedLength.Statement (.popc o) := fun _ h => lengthCode_fields h
theorem EncodedLength.clz (o : WForm IMod) : EncodedLength.Statement (.clz o) := fun _ h => lengthCode_fields h
theorem EncodedLength.brev (o : WForm IMod) : EncodedLength.Statement (.brev o) := fun _ h => lengthCode_fields h
theorem EncodedLength.ffs (o : WForm IMod) : EncodedLength.Statement (.ffs o) := fun _ h => lengthCode_fields h
theorem EncodedLength.idiv (o : WForm NoMod) : EncodedLength.Statement (.idiv o) := fun _ h => lengthCode_fields h
theorem EncodedLength.irem (o : WForm NoMod) : EncodedLength.Statement (.irem o) := fun _ h => lengthCode_fields h
theorem EncodedLength.lea (o : WForm IMod) : EncodedLength.Statement (.lea o) := fun _ h => lengthCode_fields h
theorem EncodedLength.leaw (o : WForm IMod) : EncodedLength.Statement (.leaw o) := fun _ h => lengthCode_fields h
theorem EncodedLength.icmp (cc : ICond) (o : WForm IMod) : EncodedLength.Statement (.icmp cc o) := fun _ h => lengthCode_fields h
theorem EncodedLength.sel (o : WForm IMod) : EncodedLength.Statement (.sel o) := fun _ h => lengthCode_fields h
theorem EncodedLength.pand (o : WForm NoMod) : EncodedLength.Statement (.pand o) := fun _ h => lengthCode_fields h
theorem EncodedLength.por (o : WForm NoMod) : EncodedLength.Statement (.por o) := fun _ h => lengthCode_fields h
theorem EncodedLength.pxor (o : WForm NoMod) : EncodedLength.Statement (.pxor o) := fun _ h => lengthCode_fields h
theorem EncodedLength.pnot (o : WForm NoMod) : EncodedLength.Statement (.pnot o) := fun _ h => lengthCode_fields h
theorem EncodedLength.mov (o : WForm NoMod) : EncodedLength.Statement (.mov o) := fun _ h => lengthCode_fields h
theorem EncodedLength.movN32 (o : N32) : EncodedLength.Statement (.movN32 o) := fun _ h => lengthCode_fields h
theorem EncodedLength.movu (o : WForm NoMod) : EncodedLength.Statement (.movu o) := fun _ h => lengthCode_fields h
theorem EncodedLength.movp (o : WForm NoMod) : EncodedLength.Statement (.movp o) := fun _ h => lengthCode_fields h
theorem EncodedLength.xget (o : WForm NoMod) : EncodedLength.Statement (.xget o) := fun _ h => lengthCode_fields h
theorem EncodedLength.xput (o : WForm NoMod) : EncodedLength.Statement (.xput o) := fun _ h => lengthCode_fields h
theorem EncodedLength.tget (o : WForm NoMod) : EncodedLength.Statement (.tget o) := fun _ h => lengthCode_fields h
theorem EncodedLength.tset (o : WForm NoMod) : EncodedLength.Statement (.tset o) := fun _ h => lengthCode_fields h
theorem EncodedLength.aget (o : WForm NoMod) : EncodedLength.Statement (.aget o) := fun _ h => lengthCode_fields h
theorem EncodedLength.aset (o : WForm NoMod) : EncodedLength.Statement (.aset o) := fun _ h => lengthCode_fields h
theorem EncodedLength.fadd (o : WForm FMod) : EncodedLength.Statement (.fadd o) := fun _ h => lengthCode_fields h
theorem EncodedLength.fsub (o : WForm FMod) : EncodedLength.Statement (.fsub o) := fun _ h => lengthCode_fields h
theorem EncodedLength.fmul (o : WForm FMod) : EncodedLength.Statement (.fmul o) := fun _ h => lengthCode_fields h
theorem EncodedLength.ffma (o : WForm FMod) : EncodedLength.Statement (.ffma o) := fun _ h => lengthCode_fields h
theorem EncodedLength.ffms (o : WForm FMod) : EncodedLength.Statement (.ffms o) := fun _ h => lengthCode_fields h
theorem EncodedLength.fnma (o : WForm FMod) : EncodedLength.Statement (.fnma o) := fun _ h => lengthCode_fields h
theorem EncodedLength.fmin (o : WForm FMod) : EncodedLength.Statement (.fmin o) := fun _ h => lengthCode_fields h
theorem EncodedLength.fmax (o : WForm FMod) : EncodedLength.Statement (.fmax o) := fun _ h => lengthCode_fields h
theorem EncodedLength.fcmp (cc : FCond) (o : WForm FMod) : EncodedLength.Statement (.fcmp cc o) := fun _ h => lengthCode_fields h
theorem EncodedLength.rcp (o : WForm FMod) : EncodedLength.Statement (.rcp o) := fun _ h => lengthCode_fields h
theorem EncodedLength.rsq (o : WForm FMod) : EncodedLength.Statement (.rsq o) := fun _ h => lengthCode_fields h
theorem EncodedLength.sqrt (o : WForm FMod) : EncodedLength.Statement (.sqrt o) := fun _ h => lengthCode_fields h
theorem EncodedLength.ex2 (o : WForm FMod) : EncodedLength.Statement (.ex2 o) := fun _ h => lengthCode_fields h
theorem EncodedLength.lg2 (o : WForm FMod) : EncodedLength.Statement (.lg2 o) := fun _ h => lengthCode_fields h
theorem EncodedLength.sin (o : WForm FMod) : EncodedLength.Statement (.sin o) := fun _ h => lengthCode_fields h
theorem EncodedLength.cos (o : WForm FMod) : EncodedLength.Statement (.cos o) := fun _ h => lengthCode_fields h
theorem EncodedLength.tanh (o : WForm FMod) : EncodedLength.Statement (.tanh o) := fun _ h => lengthCode_fields h
theorem EncodedLength.cvt (o : CvtForm) : EncodedLength.Statement (.cvt o) := fun _ h => lengthCode_fields h
theorem EncodedLength.bpack (o : BlkForm) : EncodedLength.Statement (.bpack o) := fun _ h => lengthCode_fields h
theorem EncodedLength.bunpack (o : BlkForm) : EncodedLength.Statement (.bunpack o) := fun _ h => lengthCode_fields h
theorem EncodedLength.fdiv (o : WForm FMod) : EncodedLength.Statement (.fdiv o) := fun _ h => lengthCode_fields h
theorem EncodedLength.bra (o : J96) : EncodedLength.Statement (.bra o) := fun _ h => lengthCode_fields h
theorem EncodedLength.braJ32 (o : J32) : EncodedLength.Statement (.braJ32 o) := fun _ h => lengthCode_fields h
theorem EncodedLength.call (o : WForm NoMod) : EncodedLength.Statement (.call o) := fun _ h => lengthCode_fields h
theorem EncodedLength.callx (o : WForm NoMod) : EncodedLength.Statement (.callx o) := fun _ h => lengthCode_fields h
theorem EncodedLength.jmpx (o : WForm NoMod) : EncodedLength.Statement (.jmpx o) := fun _ h => lengthCode_fields h
theorem EncodedLength.ret (o : WForm NoMod) : EncodedLength.Statement (.ret o) := fun _ h => lengthCode_fields h
theorem EncodedLength.join (o : WForm NoMod) : EncodedLength.Statement (.join o) := fun _ h => lengthCode_fields h
theorem EncodedLength.joinTimeout (w : Who) (addr : DWord) : EncodedLength.Statement (.joinTimeout w addr) := fun _ h => nomatch h
theorem EncodedLength.exit (o : N32) : EncodedLength.Statement (.exit o) := fun _ h => lengthCode_fields h
theorem EncodedLength.yield (o : N32) : EncodedLength.Statement (.yield o) := fun _ h => lengthCode_fields h
theorem EncodedLength.brk (o : N32) : EncodedLength.Statement (.brk o) := fun _ h => lengthCode_fields h
theorem EncodedLength.shfl (m : ShflMode) (o : WForm NoMod) : EncodedLength.Statement (.shfl m o) := fun _ h => lengthCode_fields h
theorem EncodedLength.vote (op : VoteOp) (o : WForm NoMod) : EncodedLength.Statement (.vote op o) := fun _ h => lengthCode_fields h
theorem EncodedLength.rdux (r : Rdux) : EncodedLength.Statement (.rdux r) := by
  cases r <;> exact fun _ h => lengthCode_fields h
theorem EncodedLength.movC16 (o : C16) : EncodedLength.Statement (.movC16 o) := fun _ h => lengthCode_compact h
theorem EncodedLength.iaddC16 (o : C16) : EncodedLength.Statement (.iaddC16 o) := fun _ h => lengthCode_compact h
theorem EncodedLength.isubC16 (o : C16) : EncodedLength.Statement (.isubC16 o) := fun _ h => lengthCode_compact h
theorem EncodedLength.andC16 (o : C16) : EncodedLength.Statement (.andC16 o) := fun _ h => lengthCode_compact h
theorem EncodedLength.orC16 (o : C16) : EncodedLength.Statement (.orC16 o) := fun _ h => lengthCode_compact h
theorem EncodedLength.xorC16 (o : C16) : EncodedLength.Statement (.xorC16 o) := fun _ h => lengthCode_compact h
theorem EncodedLength.shlC16 (o : C16) : EncodedLength.Statement (.shlC16 o) := fun _ h => lengthCode_compact h
theorem EncodedLength.shrC16 (o : C16) : EncodedLength.Statement (.shrC16 o) := fun _ h => lengthCode_compact h
theorem EncodedLength.sarC16 (o : C16) : EncodedLength.Statement (.sarC16 o) := fun _ h => lengthCode_compact h
theorem EncodedLength.imulC16 (o : C16) : EncodedLength.Statement (.imulC16 o) := fun _ h => lengthCode_compact h
theorem EncodedLength.iminC16 (o : C16) : EncodedLength.Statement (.iminC16 o) := fun _ h => lengthCode_compact h
theorem EncodedLength.imaxC16 (o : C16) : EncodedLength.Statement (.imaxC16 o) := fun _ h => lengthCode_compact h
theorem EncodedLength.faddC16 (o : C16) : EncodedLength.Statement (.faddC16 o) := fun _ h => lengthCode_compact h
theorem EncodedLength.fmulC16 (o : C16) : EncodedLength.Statement (.fmulC16 o) := fun _ h => lengthCode_compact h
theorem EncodedLength.fminC16 (o : C16) : EncodedLength.Statement (.fminC16 o) := fun _ h => lengthCode_compact h
theorem EncodedLength.fmaxC16 (o : C16) : EncodedLength.Statement (.fmaxC16 o) := fun _ h => lengthCode_compact h
theorem EncodedLength.ld (f : LdFmt) (o : MForm MMod) : EncodedLength.Statement (.ld f o) := fun _ h => lengthCode_fields h
theorem EncodedLength.loadDataReturn (w : Who) (r : Awaited) : EncodedLength.Statement (.loadDataReturn w r) := fun _ h => nomatch h
theorem EncodedLength.st (f : StFmt) (o : MForm MMod) : EncodedLength.Statement (.st f o) := fun _ h => lengthCode_fields h
theorem EncodedLength.lds (f : LdFmt) (o : MForm MMod) : EncodedLength.Statement (.lds f o) := fun _ h => lengthCode_fields h
theorem EncodedLength.sts (f : StFmt) (o : MForm MMod) : EncodedLength.Statement (.sts f o) := fun _ h => lengthCode_fields h
theorem EncodedLength.ldt (o : LdtForm) : EncodedLength.Statement (.ldt o) := fun _ h => lengthCode_fields h
theorem EncodedLength.stmap (o : WForm NoMod) : EncodedLength.Statement (.stmap o) := fun _ h => lengthCode_fields h
theorem EncodedLength.stunmap (o : WForm NoMod) : EncodedLength.Statement (.stunmap o) := fun _ h => lengthCode_fields h
theorem EncodedLength.pref (l : PrefLevel) (o : MForm NoMod) : EncodedLength.Statement (.pref l o) := by
  cases l <;> exact fun _ h => lengthCode_fields h
theorem EncodedLength.discard (o : MForm MMod) : EncodedLength.Statement (.discard o) := fun _ h => lengthCode_fields h
theorem EncodedLength.driftP (o : MForm NoMod) : EncodedLength.Statement (.driftP o) := fun _ h => lengthCode_fields h
theorem EncodedLength.driftD (o : MForm NoMod) : EncodedLength.Statement (.driftD o) := fun _ h => lengthCode_fields h
theorem EncodedLength.driftQ (o : MForm NoMod) : EncodedLength.Statement (.driftQ o) := fun _ h => lengthCode_fields h
theorem EncodedLength.rowCopyEnd (id : SlotId) (failed : Bool) : EncodedLength.Statement (.rowCopyEnd id failed) := fun _ h => nomatch h
theorem EncodedLength.copybackRetry (id : SlotId) (failed : Bool) : EncodedLength.Statement (.copybackRetry id failed) := fun _ h => nomatch h
theorem EncodedLength.markedSlotCopyback (id : SlotId) : EncodedLength.Statement (.markedSlotCopyback id) := fun _ h => nomatch h
theorem EncodedLength.repeatedActivationPromotion (chunk : Nat) : EncodedLength.Statement (.repeatedActivationPromotion chunk) := fun _ h => nomatch h
theorem EncodedLength.fence (o : FenceForm) : EncodedLength.Statement (.fence o) := fun _ h => lengthCode_fields h
theorem EncodedLength.atom (op : AtomOp) (o : AForm) : EncodedLength.Statement (.atom op o) := fun _ h => lengthCode_fields h
theorem EncodedLength.redf (f : RedfFmt) (o : RegForm) : EncodedLength.Statement (.redf f o) := fun _ h => lengthCode_fields h
theorem EncodedLength.contributionApply (slice : Nat) (k : Nat) : EncodedLength.Statement (.contributionApply slice k) := fun _ h => nomatch h
theorem EncodedLength.enq (o : MForm MMod) : EncodedLength.Statement (.enq o) := fun _ h => lengthCode_fields h
theorem EncodedLength.deq (o : MForm MMod) : EncodedLength.Statement (.deq o) := fun _ h => lengthCode_fields h
theorem EncodedLength.waitv (o : AForm) : EncodedLength.Statement (.waitv o) := fun _ h => lengthCode_fields h
theorem EncodedLength.waitvDeadline (die : Nat) (k : Nat) : EncodedLength.Statement (.waitvDeadline die k) := fun _ h => nomatch h
theorem EncodedLength.wakev (o : MForm MMod) : EncodedLength.Statement (.wakev o) := fun _ h => lengthCode_fields h
theorem EncodedLength.proxyWake (die : Nat) (k : Nat) : EncodedLength.Statement (.proxyWake die k) := fun _ h => nomatch h
theorem EncodedLength.barArrive (o : BarForm) : EncodedLength.Statement (.barArrive o) := fun _ h => lengthCode_fields h
theorem EncodedLength.barWait (o : BarForm) : EncodedLength.Statement (.barWait o) := fun _ h => lengthCode_fields h
theorem EncodedLength.barSync (o : BarForm) : EncodedLength.Statement (.barSync o) := fun _ h => lengthCode_fields h
theorem EncodedLength.barPend (o : BarForm) : EncodedLength.Statement (.barPend o) := fun _ h => lengthCode_fields h
theorem EncodedLength.twaitAny (o : WForm NoMod) : EncodedLength.Statement (.twaitAny o) := fun _ h => lengthCode_fields h
theorem EncodedLength.twaitAll (o : WForm NoMod) : EncodedLength.Statement (.twaitAll o) := fun _ h => lengthCode_fields h
theorem EncodedLength.tffr (o : WForm NoMod) : EncodedLength.Statement (.tffr o) := fun _ h => lengthCode_fields h
theorem EncodedLength.tclr (o : WForm NoMod) : EncodedLength.Statement (.tclr o) := fun _ h => lengthCode_fields h
theorem EncodedLength.mloop (o : MloopForm) : EncodedLength.Statement (.mloop o) := fun _ h => lengthCode_fields h
theorem EncodedLength.mloopComplete (core : Nat) (tag : Nat) : EncodedLength.Statement (.mloopComplete core tag) := fun _ h => nomatch h
theorem EncodedLength.mzero (o : WForm NoMod) : EncodedLength.Statement (.mzero o) := fun _ h => lengthCode_fields h
theorem EncodedLength.macq (o : RegForm) : EncodedLength.Statement (.macq o) := fun _ h => lengthCode_fields h
theorem EncodedLength.macqGrant (slice : Nat) (line : Nat) : EncodedLength.Statement (.macqGrant slice line) := fun _ h => nomatch h
theorem EncodedLength.mrel (o : RegForm) : EncodedLength.Statement (.mrel o) := fun _ h => lengthCode_fields h
theorem EncodedLength.countedRelease (slice : Nat) (k : Nat) : EncodedLength.Statement (.countedRelease slice k) := fun _ h => nomatch h
theorem EncodedLength.mrelFin (o : RegForm) : EncodedLength.Statement (.mrelFin o) := fun _ h => lengthCode_fields h
theorem EncodedLength.mread (m : MreadMode) (o : RegForm) : EncodedLength.Statement (.mread m o) := fun _ h => lengthCode_fields h
theorem EncodedLength.mcvt (df : McvtFmt) (sat : Bool) (o : RegForm) : EncodedLength.Statement (.mcvt df sat o) := fun _ h => lengthCode_fields h
theorem EncodedLength.rowstat (o : RegForm) : EncodedLength.Statement (.rowstat o) := fun _ h => lengthCode_fields h
theorem EncodedLength.redq (f : RedqFmt) (o : MForm NoMod) : EncodedLength.Statement (.redq f o) := fun _ h => lengthCode_fields h
theorem EncodedLength.mspill (o : SpillForm) : EncodedLength.Statement (.mspill o) := fun _ h => lengthCode_fields h
theorem EncodedLength.mfill (o : SpillForm) : EncodedLength.Statement (.mfill o) := fun _ h => lengthCode_fields h
theorem EncodedLength.copy (o : CopyForm) : EncodedLength.Statement (.copy o) := fun _ h => lengthCode_fields h
theorem EncodedLength.copyComplete (core : Nat) (tag : Nat) : EncodedLength.Statement (.copyComplete core tag) := fun _ h => nomatch h
theorem EncodedLength.mcast (o : McastForm) : EncodedLength.Statement (.mcast o) := fun _ h => lengthCode_fields h
theorem EncodedLength.mcastComplete (core : Nat) (tag : Nat) : EncodedLength.Statement (.mcastComplete core tag) := fun _ h => nomatch h
theorem EncodedLength.msend (o : WForm NoMod) : EncodedLength.Statement (.msend o) := fun _ h => lengthCode_fields h
theorem EncodedLength.messageReceive (core : Nat) : EncodedLength.Statement (.messageReceive core) := fun _ h => nomatch h
theorem EncodedLength.launch (o : WForm NoMod) : EncodedLength.Statement (.launch o) := fun _ h => lengthCode_fields h
theorem EncodedLength.launchAccept : EncodedLength.Statement .launchAccept := fun _ h => nomatch h
theorem EncodedLength.dependencePoll (queue : Nat) : EncodedLength.Statement (.dependencePoll queue) := fun _ h => nomatch h
theorem EncodedLength.taskPlacement : EncodedLength.Statement .taskPlacement := fun _ h => nomatch h
theorem EncodedLength.launchQueueAgeing (queue : Nat) : EncodedLength.Statement (.launchQueueAgeing queue) := fun _ h => nomatch h
theorem EncodedLength.taskStart (task : Nat) : EncodedLength.Statement (.taskStart task) := fun _ h => nomatch h
theorem EncodedLength.warpSlotFree (core : Nat) (slot : Nat) : EncodedLength.Statement (.warpSlotFree core slot) := fun _ h => nomatch h
theorem EncodedLength.dstop (o : WForm NoMod) : EncodedLength.Statement (.dstop o) := fun _ h => lengthCode_fields h
theorem EncodedLength.dresume (o : WForm NoMod) : EncodedLength.Statement (.dresume o) := fun _ h => lengthCode_fields h
theorem EncodedLength.warpSave (core : Nat) (slot : Nat) : EncodedLength.Statement (.warpSave core slot) := fun _ h => nomatch h
theorem EncodedLength.taskResume (task : Nat) : EncodedLength.Statement (.taskResume task) := fun _ h => nomatch h
theorem EncodedLength.sysc (o : WForm NoMod) : EncodedLength.Statement (.sysc o) := fun _ h => lengthCode_fields h
theorem EncodedLength.sqPressure (core : Nat) : EncodedLength.Statement (.sqPressure core) := fun _ h => nomatch h
theorem EncodedLength.sqtake (o : WForm NoMod) : EncodedLength.Statement (.sqtake o) := fun _ h => lengthCode_fields h
theorem EncodedLength.sqreply (o : WForm NoMod) : EncodedLength.Statement (.sqreply o) := fun _ h => lengthCode_fields h
theorem EncodedLength.gate (o : WForm NoMod) : EncodedLength.Statement (.gate o) := fun _ h => lengthCode_fields h
theorem EncodedLength.gateTimerFire (die : Nat) (timer : Nat) : EncodedLength.Statement (.gateTimerFire die timer) := fun _ h => nomatch h
theorem EncodedLength.fqtake (o : WForm NoMod) : EncodedLength.Statement (.fqtake o) := fun _ h => lengthCode_fields h
theorem EncodedLength.fqresume (o : WForm NoMod) : EncodedLength.Statement (.fqresume o) := fun _ h => lengthCode_fields h
theorem EncodedLength.tret (o : N32) : EncodedLength.Statement (.tret o) := fun _ h => lengthCode_fields h
theorem EncodedLength.csrr (o : CsrForm) : EncodedLength.Statement (.csrr o) := fun _ h => lengthCode_fields h
theorem EncodedLength.csrw (o : CsrForm) : EncodedLength.Statement (.csrw o) := fun _ h => lengthCode_fields h
theorem EncodedLength.csrs (o : CsrForm) : EncodedLength.Statement (.csrs o) := fun _ h => lengthCode_fields h
theorem EncodedLength.csrc (o : CsrForm) : EncodedLength.Statement (.csrc o) := fun _ h => lengthCode_fields h
theorem EncodedLength.waymaskTakeEffect (core : Nat) : EncodedLength.Statement (.waymaskTakeEffect core) := fun _ h => nomatch h
theorem EncodedLength.vrdi (o : WForm NoMod) : EncodedLength.Statement (.vrdi o) := fun _ h => lengthCode_fields h
theorem EncodedLength.vwri (o : WForm NoMod) : EncodedLength.Statement (.vwri o) := fun _ h => lengthCode_fields h
theorem EncodedLength.tlbi (o : WForm NoMod) : EncodedLength.Statement (.tlbi o) := fun _ h => lengthCode_fields h
theorem EncodedLength.tlbia (o : WForm NoMod) : EncodedLength.Statement (.tlbia o) := fun _ h => lengthCode_fields h
theorem EncodedLength.tlbig (o : WForm NoMod) : EncodedLength.Statement (.tlbig o) := fun _ h => lengthCode_fields h
theorem EncodedLength.cflush (o : WForm NoMod) : EncodedLength.Statement (.cflush o) := fun _ h => lengthCode_fields h
theorem EncodedLength.cinv (o : WForm NoMod) : EncodedLength.Statement (.cinv o) := fun _ h => lengthCode_fields h
theorem EncodedLength.icinv (o : WForm NoMod) : EncodedLength.Statement (.icinv o) := fun _ h => lengthCode_fields h
theorem EncodedLength.osave (o : WForm NoMod) : EncodedLength.Statement (.osave o) := fun _ h => lengthCode_fields h
theorem EncodedLength.odrop (o : WForm NoMod) : EncodedLength.Statement (.odrop o) := fun _ h => lengthCode_fields h
theorem EncodedLength.interruptEntry (core : Nat) : EncodedLength.Statement (.interruptEntry core) := fun _ h => nomatch h
theorem EncodedLength.timecmpMatch (core : Nat) : EncodedLength.Statement (.timecmpMatch core) := fun _ h => nomatch h
theorem EncodedLength.globalTick (adv : Fin 3) : EncodedLength.Statement (.globalTick adv) := fun _ h => nomatch h
theorem EncodedLength.predictorDecay : EncodedLength.Statement .predictorDecay := fun _ h => nomatch h
theorem EncodedLength.migrationStart : EncodedLength.Statement .migrationStart := fun _ h => nomatch h
theorem EncodedLength.migrationEndForward : EncodedLength.Statement .migrationEndForward := fun _ h => nomatch h
theorem EncodedLength.referenceClockLost : EncodedLength.Statement .referenceClockLost := fun _ h => nomatch h
theorem EncodedLength.linkRetire (router : Nat) (port : Nat) : EncodedLength.Statement (.linkRetire router port) := fun _ h => nomatch h
theorem EncodedLength.linkBounce (router : Nat) (port : Nat) : EncodedLength.Statement (.linkBounce router port) := fun _ h => nomatch h
theorem EncodedLength.linkTrain (router : Nat) (port : Nat) (ok : Bool) : EncodedLength.Statement (.linkTrain router port ok) := fun _ h => nomatch h
theorem EncodedLength.routeTableWrite (unit : Nat) (entry : Nat) (v : Word) : EncodedLength.Statement (.routeTableWrite unit entry v) := fun _ h => nomatch h
theorem EncodedLength.slstartGo (core : Nat) : EncodedLength.Statement (.slstartGo core) := fun _ h => nomatch h
theorem EncodedLength.timeset (v : DWord) : EncodedLength.Statement (.timeset v) := fun _ h => nomatch h
theorem EncodedLength.regdis (slice : Nat) (v : Word) : EncodedLength.Statement (.regdis slice v) := fun _ h => nomatch h
theorem EncodedLength.iommuInvAll : EncodedLength.Statement .iommuInvAll := fun _ h => nomatch h
theorem EncodedLength.iommuInvPartition (arg : Word) : EncodedLength.Statement (.iommuInvPartition arg) := fun _ h => nomatch h
theorem EncodedLength.iommuInvRequester (arg : Word) : EncodedLength.Statement (.iommuInvRequester arg) := fun _ h => nomatch h
theorem EncodedLength.iommuInvPasid (arg : Word) : EncodedLength.Statement (.iommuInvPasid arg) := fun _ h => nomatch h
theorem EncodedLength.iommuInvRemap (arg : Word) : EncodedLength.Statement (.iommuInvRemap arg) := fun _ h => nomatch h
theorem EncodedLength.ueDoorbell (port : Nat) (qp : Nat) (count : Word) : EncodedLength.Statement (.ueDoorbell port qp count) := fun _ h => nomatch h
theorem EncodedLength.lostcmd (v : Word) : EncodedLength.Statement (.lostcmd v) := fun _ h => nomatch h
theorem EncodedLength.scrubUnfenceKeep : EncodedLength.Statement .scrubUnfenceKeep := fun _ h => nomatch h
theorem EncodedLength.scrubUnfenceZero : EncodedLength.Statement .scrubUnfenceZero := fun _ h => nomatch h
theorem EncodedLength.joindevGo (dev : BitVec 11) (answer : BitVec 2) : EncodedLength.Statement (.joindevGo dev answer) := fun _ h => nomatch h
theorem EncodedLength.hmcmdGo (v : Word) : EncodedLength.Statement (.hmcmdGo v) := fun _ h => nomatch h
theorem EncodedLength.slotRetire (id : SlotId) : EncodedLength.Statement (.slotRetire id) := fun _ h => nomatch h
theorem EncodedLength.slotReturn (id : SlotId) : EncodedLength.Statement (.slotReturn id) := fun _ h => nomatch h
theorem EncodedLength.mcfgLock (v : Word) : EncodedLength.Statement (.mcfgLock v) := fun _ h => nomatch h
theorem EncodedLength.powerOnReset : EncodedLength.Statement .powerOnReset := fun _ h => nomatch h
theorem EncodedLength.siblingLockTimeout : EncodedLength.Statement .siblingLockTimeout := fun _ h => nomatch h
theorem EncodedLength.measext (die : Nat) (digest : BitVec 256) : EncodedLength.Statement (.measext die digest) := fun _ h => nomatch h
theorem EncodedLength.attgo (die : Nat) : EncodedLength.Statement (.attgo die) := fun _ h => nomatch h
theorem EncodedLength.claimgo (die : Nat) : EncodedLength.Statement (.claimgo die) := fun _ h => nomatch h
theorem EncodedLength.claimSettle (die : Nat) : EncodedLength.Statement (.claimSettle die) := fun _ h => nomatch h
theorem EncodedLength.plango (seq : DWord) : EncodedLength.Statement (.plango seq) := fun _ h => nomatch h
theorem EncodedLength.registerWrite (off : Nat) (n : Nat) (v : DWord) : EncodedLength.Statement (.registerWrite off n v) := fun _ h => nomatch h
theorem EncodedLength.unassignedEncoding (sub : Option (Fin 4)) : EncodedLength.Statement (.unassignedEncoding sub) := fun _ h => nomatch h
theorem EncodedLength.logicalClockAdvance : EncodedLength.Statement .logicalClockAdvance := fun _ h => nomatch h
theorem EncodedLength.engineBytesDelivered (core : Nat) (tag : Nat) : EncodedLength.Statement (.engineBytesDelivered core tag) := fun _ h => nomatch h
theorem EncodedLength.mloopStepEnd (core : Nat) (tag : Nat) : EncodedLength.Statement (.mloopStepEnd core tag) := fun _ h => nomatch h
theorem EncodedLength.migrationCopyDone : EncodedLength.Statement .migrationCopyDone := fun _ h => nomatch h
theorem EncodedLength.homeMoveDone : EncodedLength.Statement .homeMoveDone := fun _ h => nomatch h
theorem EncodedLength.planemapWrite (v : DWord) : EncodedLength.Statement (.planemapWrite v) := fun _ h => nomatch h
theorem EncodedLength.timeSyncExchange (m : TimeMsg) : EncodedLength.Statement (.timeSyncExchange m) := fun _ h => nomatch h
theorem EncodedLength.cadastreRequest (parcel : Nat) (r : ParcelReq) : EncodedLength.Statement (.cadastreRequest parcel r) := fun _ h => nomatch h
theorem EncodedLength.invalidationReceive (parcel : Nat) : EncodedLength.Statement (.invalidationReceive parcel) := fun _ h => nomatch h
theorem EncodedLength.recallReceive (parcel : Nat) : EncodedLength.Statement (.recallReceive parcel) := fun _ h => nomatch h
theorem EncodedLength.dramRefresh (bank : Nat) (rfm : Bool) : EncodedLength.Statement (.dramRefresh bank rfm) := fun _ h => nomatch h
theorem EncodedLength.dramPatrolRead (site : EccSite) (r : EccResult) : EncodedLength.Statement (.dramPatrolRead site r) := fun _ h => nomatch h
theorem EncodedLength.eccCountRead (stack : Nat) (n : Word) : EncodedLength.Statement (.eccCountRead stack n) := fun _ h => nomatch h
theorem EncodedLength.fatalEvent (src : BitVec 4) (cause : BitVec 8) (unit : Word) : EncodedLength.Statement (.fatalEvent src cause unit) := fun _ h => nomatch h
theorem EncodedLength.packetArrival (router : Nat) (port : Nat) (p : Packet) : EncodedLength.Statement (.packetArrival router port p) := fun _ h => nomatch h
theorem EncodedLength.outputArbitration (router : Nat) (port : Nat) : EncodedLength.Statement (.outputArbitration router port) := fun _ h => nomatch h
theorem EncodedLength.promotionCycle (router : Nat) (port : Nat) : EncodedLength.Statement (.promotionCycle router port) := fun _ h => nomatch h
theorem EncodedLength.flitReplay (router : Nat) (port : Nat) (eighth : Bool) : EncodedLength.Statement (.flitReplay router port eighth) := fun _ h => nomatch h
theorem EncodedLength.channelStall (router : Nat) (port : Nat) (vc : Nat) : EncodedLength.Statement (.channelStall router port vc) := fun _ h => nomatch h
theorem EncodedLength.bouncedReinject (unit : Nat) : EncodedLength.Statement (.bouncedReinject unit) := fun _ h => nomatch h
theorem EncodedLength.routerGate (router : Nat) : EncodedLength.Statement (.routerGate router) := fun _ h => nomatch h
theorem EncodedLength.routerWake (router : Nat) : EncodedLength.Statement (.routerWake router) := fun _ h => nomatch h
theorem EncodedLength.endpointRequest (r : IoReq) : EncodedLength.Statement (.endpointRequest r) := fun _ h => nomatch h
theorem EncodedLength.interruptMessageWrite (by_ : IrqBy) (data : Word) : EncodedLength.Statement (.interruptMessageWrite by_ data) := fun _ h => nomatch h
theorem EncodedLength.rootPortCompletionTimeout (port : Nat) : EncodedLength.Statement (.rootPortCompletionTimeout port) := fun _ h => nomatch h
theorem EncodedLength.rootPortLinkDown (port : Nat) : EncodedLength.Statement (.rootPortLinkDown port) := fun _ h => nomatch h
theorem EncodedLength.rootPortAerEvent (port : Nat) (unc : Bool) (bit : BitVec 8) : EncodedLength.Statement (.rootPortAerEvent port unc bit) := fun _ h => nomatch h
theorem EncodedLength.rootPortLinkTrained (port : Nat) (rate : Nat) : EncodedLength.Statement (.rootPortLinkTrained port rate) := fun _ h => nomatch h
theorem EncodedLength.ueDescriptorComplete (port : Nat) (qp : Nat) (status : Word) (readData : List Byte) : EncodedLength.Statement (.ueDescriptorComplete port qp status readData) := fun _ h => nomatch h
theorem EncodedLength.ueRemoteWrite (port : Nat) (qp : Nat) (va : DWord) (bytes : List Byte) : EncodedLength.Statement (.ueRemoteWrite port qp va bytes) := fun _ h => nomatch h
theorem EncodedLength.ualinkPortDown (port : Nat) : EncodedLength.Statement (.ualinkPortDown port) := fun _ h => nomatch h
theorem EncodedLength.ualinkLinkRetry (port : Nat) : EncodedLength.Statement (.ualinkLinkRetry port) := fun _ h => nomatch h
theorem EncodedLength.homeTimeout (dev : Nat) (recalled : Bool) : EncodedLength.Statement (.homeTimeout dev recalled) := fun _ h => nomatch h
theorem EncodedLength.fatalNoticeReceive (dev : Nat) : EncodedLength.Statement (.fatalNoticeReceive dev) := fun _ h => nomatch h
theorem EncodedLength.bootRomLoad (die : Nat) (first : FlashCopy) (second : FlashCopy) (trainFail : Option Nat) : EncodedLength.Statement (.bootRomLoad die first second trainFail) := fun _ h => nomatch h
theorem EncodedLength.claimReceive (die : Nat) (c : Claim) : EncodedLength.Statement (.claimReceive die c) := fun _ h => nomatch h
theorem EncodedLength.stageDelivery (die : Nat) (stage : Nat) (digest : BitVec 256) : EncodedLength.Statement (.stageDelivery die stage digest) := fun _ h => nomatch h
theorem EncodedLength.stageDeliveryAnswer (die : Nat) (follower : Nat) (ok : Bool) : EncodedLength.Statement (.stageDeliveryAnswer die follower ok) := fun _ h => nomatch h
theorem EncodedLength.heartbeatSend (die : Nat) : EncodedLength.Statement (.heartbeatSend die) := fun _ h => nomatch h
theorem EncodedLength.heartbeatLapse (die : Nat) : EncodedLength.Statement (.heartbeatLapse die) := fun _ h => nomatch h
theorem EncodedLength.surveyorTrigMeasure (slacks : List (BitVec 16)) (plan : List Byte) (noFull : Bool) : EncodedLength.Statement (.surveyorTrigMeasure slacks plan noFull) := fun _ h => nomatch h
theorem EncodedLength.surveyorTimingTest (r : TimingTest) (plan : List Byte) (noFull : Bool) : EncodedLength.Statement (.surveyorTimingTest r plan noFull) := fun _ h => nomatch h
theorem EncodedLength.temperatureWarning (sensor : Nat) : EncodedLength.Statement (.temperatureWarning sensor) := fun _ h => nomatch h
theorem EncodedLength.temperatureTrip (sensor : Nat) : EncodedLength.Statement (.temperatureTrip sensor) := fun _ h => nomatch h
theorem EncodedLength.sliceEviction (slice : Nat) (line : Nat) : EncodedLength.Statement (.sliceEviction slice line) := fun _ h => nomatch h
theorem EncodedLength.fillRequest (core : Nat) (line : Nat) : EncodedLength.Statement (.fillRequest core line) := fun _ h => nomatch h
theorem EncodedLength.storeAtHome (core : Nat) (line : Nat) : EncodedLength.Statement (.storeAtHome core line) := fun _ h => nomatch h
theorem EncodedLength.proxyEntryEmptied (die : Nat) (k : Nat) : EncodedLength.Statement (.proxyEntryEmptied die k) := fun _ h => nomatch h
theorem EncodedLength.headReserve (queue : Nat) : EncodedLength.Statement (.headReserve queue) := fun _ h => nomatch h
theorem EncodedLength.slotCopybackTry (id : SlotId) (failed : Bool) : EncodedLength.Statement (.slotCopybackTry id failed) := fun _ h => nomatch h

end Sys2Proof.Laws
end

