-- ==== Sys2Proof/Tests/Slice0.lean ====
section
/-! SUPPORT. Tests: what the checks of WellFormed refuse, words of every family and what they stand for, single steps,
and states that meet the hypotheses of the statements. Expected words and values are those of the spec's tables. -/

namespace Sys2Proof.Tests

open Sys2Proof Sys2Proof.Machine

set_option Elab.async false

/-- The guard p7 without a switch marker. -/
def g7 : Guard := { sw := false, pn := false, pi := 7 }
def plainI : IMod := { w := .w32, z := false, sat := false, ud := false }
def fI (d : BitVec 8) (a b : Src) : WForm IMod :=
  { g := g7, d := d, a := a, b := b, c := .zero, perm := .none, m := plainI, lit := none }
def fN (d : BitVec 8) (a b c : Src) : WForm NoMod :=
  { g := g7, d := d, a := a, b := b, c := c, perm := .none, m := .nil, lit := none }
def fF (d : BitVec 8) (a b : Src) : WForm FMod :=
  { g := g7, d := d, a := a, b := b, c := .zero, perm := .none, m := { rnd := .cap, fmt := .f32 }, lit := none }
def mm : MMod := { scope := .plain, ord := .rlx }
def fM (d : BitVec 8) (a b : Src) : MForm MMod :=
  { g := g7, d := d, a := a, b := b, gsel := 0, m := mm, off := .short 0 }
def fH (d : BitVec 8) (a b : Src) : MForm NoMod :=
  { g := g7, d := d, a := a, b := b, gsel := 0, m := .nil, off := .short 0 }

/-! ### Well-formed instructions -/

theorem test_wf_iadd : (Instr.iadd (fI 1 (.v 2) (.v 3))).wf = true := by decide
/-- An event has no encoding. -/
theorem test_wf_event : (Instr.powerOnReset).wf = false := by decide
/-- TGET has no 96-bit form (R117), and no literal then. -/
theorem test_wf_length : (Instr.tget { fN 4 (.v 0) .zero .zero with lit := some 5 }).wf = false := by decide
/-- A literal without its word has no encoding. -/
theorem test_wf_literal : (Instr.iadd (fI 1 .lit (.v 3))).wf = false := by decide
/-- A reserved source code (R100). -/
theorem test_wf_reserved_source : (Instr.iadd (fI 1 (.resv 0) (.v 3))).wf = false := by decide
/-- A 64-bit pair that starts at an odd register (R52). -/
theorem test_wf_odd_pair : (Instr.iadd { fI 1 (.v 2) (.v 4) with m := { plainI with w := .w64 } }).wf = false := by decide

/-! ### Decoding (R93 to R117) -/

/-- What a word stands for. -/
abbrev reads (w : BitVec 96) : Option Instr := (decode w).toOption

/-- Bits 31 to 0 of a long form with guard p7, and its length code (R96). -/
abbrev head (a : BitVec 9) (d : BitVec 8) (major : BitVec 7) (len : BitVec 2) : BitVec 32 :=
  a ++ d ++ 0#1 ++ 7#3 ++ major ++ 0#1 ++ len ++ 1#1
/-- W64 (R97): PERM, C, B, MOD, MINOR, A, D, MAJOR. -/
abbrev w64 (perm : BitVec 4) (c b : BitVec 9) (mod minor : BitVec 5) (a : BitVec 9) (d : BitVec 8) (major : BitVec 7) : BitVec 96 :=
  (perm ++ c ++ b ++ mod ++ minor ++ head a d major 0b01).setWidth 96
/-- M64 (R97): GSEL, OFF, B, MOD, MINOR, A, D, MAJOR. -/
abbrev m64 (gsel : BitVec 2) (off : BitVec 11) (b : BitVec 9) (mod minor : BitVec 5) (a : BitVec 9) (d : BitVec 8)
    (major : BitVec 7) : BitVec 96 :=
  (gsel ++ off ++ b ++ mod ++ minor ++ head a d major 0b01).setWidth 96

theorem test_decode_iadd : reads (w64 0 320 3 0 0 2 1 0x00) = some (.iadd (fI 1 (.v 2) (.v 3))) := by decide
theorem test_decode_icmp : reads (w64 0 320 511 0b00100 2 256 5 0x10) =
    some (.icmp .lt { fI 5 (.s 0) (.imm 127) with m := { plainI with z := true } }) := by decide
theorem test_decode_sel : reads (w64 0 328 6 0b01000 0 2 4 0x11) =
    some (.sel { fI 4 (.v 2) (.v 6) with c := .p 0, m := { plainI with w := .w64 } }) := by decide
theorem test_decode_compact : reads ((7#5 ++ 3#5 ++ 1#4 ++ 0#1 ++ 0#1).setWidth 96) =
    some (.iaddC16 { sw := false, vd := 3, vs := 7 }) := by decide
theorem test_decode_literal : reads (0xDEADBEEF#32 ++ 0#4 ++ 320#9 ++ 321#9 ++ 0#5 ++ 2#5 ++ head 2 1 0x04 0b10) =
    some (.sar { fI 1 (.v 2) .lit with lit := some 0xDEADBEEF }) := by decide
theorem test_decode_mov_short : reads ((head 5 9 0x12 0b00).setWidth 96) =
    some (.movN32 { g := g7, d := 9, a := .v 5 }) := by decide
theorem test_decode_branch_short :
    reads ((0x1FFFE#17 ++ 1#1 ++ 2#3 ++ 0x30#7 ++ 1#1 ++ 0b00#2 ++ 1#1).setWidth 96) =
    some (.braJ32 { g := { sw := true, pn := true, pi := 2 }, disp := 0x1FFFE }) := by decide
theorem test_decode_branch_long : reads (0x80000000#32 ++ 0#32 ++ 0#17 ++ 0#1 ++ 7#3 ++ 0x30#7 ++ 0#1 ++ 0b10#2 ++ 1#1) =
    some (.bra { g := g7, disp := 0x80000000 }) := by decide
theorem test_decode_fcmp : reads (w64 0 320 3 0b00110 7 2 6 0x24) =
    some (.fcmp .ord { fF 6 (.v 2) (.v 3) with m := { rnd := .rne, fmt := .bf16 } }) := by decide
theorem test_decode_cvt : reads ((0#7 ++ 2#3 ++ 0#3 ++ 0#5 ++ 0#4 ++ 1#3 ++ 0#2 ++ 0#1 ++ 4#4 ++ head 3 1 0x26 0b01).setWidth 96) =
    some (.cvt { g := g7, d := 1, a := .v 3, del := 2, sel := 0, sf := .f32, df := .e4m3, rnd := .rne, sat := false }) := by decide
theorem test_decode_shuffle : reads (w64 0 320 385 0 2 2 1 0x36) = some (.shfl .bfly (fN 1 (.v 2) (.imm 1) .zero)) := by decide
theorem test_decode_load : reads (m64 0 0x7FC 320 0b01101 3 4 9 0x40) =
    some (.ld .s16 { fM 9 (.v 4) .zero with m := { scope := .core, ord := .acq }, off := .short 0x7FC }) := by decide
theorem test_decode_store_long :
    reads (0x100#32 ++ 0#2 ++ 0#11 ++ 8#9 ++ 0#5 ++ 5#5 ++ head 4 0 0x41 0b10) =
    some (.st .b64 { fM 0 (.v 4) (.v 8) with off := .long 0x100 }) := by decide
theorem test_decode_atomic : reads ((0#2 ++ 0b10#2 ++ 8#9 ++ 6#9 ++ 0b10011#5 ++ 7#5 ++ head 4 2 0x50 0b01).setWidth 96) =
    some (.atom .cas { g := g7, d := 2, a := .v 4, b := .v 6, c := .v 8, gsel := 0, ty := .s64,
                       m := { scope := .dev, ord := .ar } }) := by decide
theorem test_decode_csr : reads ((0#1 ++ 0x012#12 ++ 320#9 ++ 0#5 ++ 0#5 ++ head 320 3 0x75 0b01).setWidth 96) =
    some (.csrr { g := g7, d := 3, a := .zero, num := 0x012 }) := by decide
theorem test_decode_mloop :
    reads (0#2 ++ 3#10 ++ 5#6 ++ 2#6 ++ 16#8 ++ 0#4 ++ 0#2 ++ 1#3 ++ 2#4 ++ 256#9 ++ 0#4 ++ 0#1 ++ 0#5 ++ head 320 0 0x60 0b10) =
    some (.mloop { g := g7, d := 0, a := .zero, b := .s 0, shape := 0, typ := 0, bsc := false, ai := 2, ti := 1, abase := 16,
                   astep := 2, tag := 5, km1 := 3 }) := by decide
theorem test_decode_copy :
    reads (64#22 ++ 0#1 ++ 2#2 ++ 1#1 ++ 9#6 ++ 0#4 ++ 260#9 ++ 258#9 ++ 0b10000#5 ++ 0#5 ++ head 256 0 0x68 0b10) =
    some (.copy { g := g7, d := 0, a := .s 0, b := .s 2, c := .s 4, scope := .dev, spitch := 64, bsel := 2, be := true,
                  tag := 9 }) := by decide
theorem test_decode_mcast :
    reads (0x00F1#16 ++ 0#2 ++ 0#1 ++ 0#1 ++ 3#3 ++ 0#2 ++ 0#1 ++ 9#6 ++ 0#4 ++ 260#9 ++ 258#9 ++ 0b01100#5 ++ 0#5 ++
      head 256 0 0x69 0b10) =
    some (.mcast { g := g7, d := 0, a := .s 0, b := .s 2, c := .s 4, scope := .core, cmask := 0x00F1, col := false, bus := false,
                   quad := 3, bsel := 0, be := false, tag := 9 }) := by decide
theorem test_decode_barrier : reads ((0#4 ++ 1#1 ++ 1#2 ++ 1#3 ++ 2#3 ++ 320#9 ++ 0#5 ++ 2#5 ++ head 1 0 0x55 0b01).setWidth 96) =
    some (.barSync { g := g7, d := 0, k := 1, b := .zero, ve := true, vop := 1, vin := 1, vout := 2, perm := .none }) := by decide
theorem test_decode_release : reads ((0#4 ++ 0#5 ++ 2#4 ++ 320#9 ++ 1#5 ++ 1#5 ++ head 320 0 0x62 0b01).setWidth 96) =
    some (.mrelFin { g := g7, d := 0, a := .zero, b := .zero, ai := 2, perm := .none }) := by decide
theorem test_decode_trap_return : reads ((head 320 0 0x74 0b00).setWidth 96) =
    some (.tret { g := g7, d := 0, a := .zero }) := by decide
/-- A length of R93 that the major map does not give the instruction. -/
theorem test_decode_unlisted_length : reads ((0#32 ++ head 320 0 0x74 0b01).setWidth 96) = none := by decide
/-- A reserved source code, and an unassigned major. -/
theorem test_decode_reserved : reads (w64 0 320 336 0 0 2 1 0x00) = some (.iadd (fI 1 (.v 2) (.resv 0))) ∧
    reads (w64 0 320 3 0 0 2 1 0x08) = none := by decide

/-! ### Small states -/

/-- A lane at 0x1000 whose registers hold 5, 7 and, in v4 and v5, an address. -/
def lane (sv : Bool) (l : Nat) : Lane :=
  { Lane.absent with
    st := .runnable, sv := sv, pc := 0x800, p := [(0, ⟨true, []⟩)]
    v := [(2, ⟨5, []⟩), (3, ⟨7, []⟩), (4, ⟨BitVec.ofNat 32 (0x2000 + 16 * l), []⟩), (8, ⟨0xABCD, []⟩)] }

/-- Warp 0 of task 1: four lanes, %grp0 naming group 3, uniform registers for the engines, tile t1 and accumulator a2. -/
def warp (sv : Bool) : Warp :=
  { Warp.empty with
    task := 1, vAlloc := 256, sAlloc := 64
    lanes := [(0, lane sv 0), (1, lane sv 1), (2, lane sv 2), (3, lane sv 3)]
    s := [(0, ⟨0x4000, []⟩), (2, ⟨0x3000, []⟩), (4, ⟨0x10000, []⟩), (6, ⟨0x1000, []⟩)]
    t := [(1, ⟨0x80000403F03F200000, []⟩)]
    a := [(2, ⟨0x10000000000000000000040000000, []⟩)]
    grp := [(0, 0x80000003)] }

def region : Region :=
  { lines := 2, key := 1, fixed := false, q := 0, rows := 8, cols := 8, exp := 0, rel := 0, holder := some ⟨1, 0, none⟩, ovf := false
    nvf := false, owntask := 1, elems := [(0, 0x3F800000)], waiting := [], poison := [], time := 0 }

def task : Task :=
  { num := 1, st := .running, entry := 0x1000, ptroot := 0, asid := 0, nlanes := 4, sv := false, pre := true, place := .any, prio := 0
    vgran := 32, sgran := 8, stash := 8192, memb := [], gtab := 0, bobase := 0, localBits := 8, used := 8, cva := 0, cvaAsid := 0
    cvaRoot := 0, saveBase := 0x100000, arg := 0, depva := 0x6000, capBase := 0, capN := 0, rel := 0, warps := [(0, ⟨0, 0⟩)]
    localGroups := [3], ranks := [0] }

/-- Core 0 with the warp in its slot 0. -/
def core (sv : Bool) : Core :=
  { Core.boot with slots := [(0, warp sv)], stashRuns := [(1, ⟨0, 8192⟩)], bars := [(259, { BarObj.init with nmem := 2 })] }

/-- The warp issues on one front, with its four lanes, an instruction of 8 bytes at 0x1000; the memory is trained. -/
def st (sv : Bool) : State :=
  { State.reset with
    cores := [(0, core sv), (64, Core.boot)], slices := [(0, { Slice.init with regions := [(0, region)] })]
    disp := { Disp.init with tasks := [(1, task)] }, memctl := { MemCtl.init with trained := 0xFFF }
    cur := { who := ⟨0, .slot 0⟩, front := if sv then .sup else .user, cluster := 0xF, pc := 0x800, words := 0, len := 8 } }
/-- In user state, in supervisor state, and on the supervisor lane. -/
abbrev user : State := st false
abbrev sup : State := st true
def slane : State := { user with cur := { user.cur with who := ⟨0, .sl⟩, front := .sup, cluster := 1 } }
/-- With one lane of the warp. -/
def only (s : State) : State := { s with cur := { s.cur with cluster := 1 } }

theorem user_free : user.parcelsFree := fun _ => ⟨rfl, fun _ h => nomatch h⟩
theorem user_plain : user.plainSpace := ⟨rfl, rfl, ⟨nofun, nofun⟩, user_free⟩

/-- The registers that lane l of the issuing warp reads after a step that answers a next state. -/
def regAfter (r : Result) (l i : Nat) : Option Word :=
  match r with | .next s => some (((look zeroV (s.warp.lane l).v i).opens.head?.map (·.2)).getD (look zeroV (s.warp.lane l).v i).val) | _ => none
def after (r : Result) (f : State → α) : Option α := match r with | .next s => some (f s) | _ => none

/-! ### Single steps -/

/-- R132: 5 + 7; SAT of a signed byte sum (R130). -/
theorem test_iadd : regAfter (exec (.iadd (fI 1 (.v 2) (.v 3))) user) 3 1 = some 12 := by decide
/-- R142: BRA by −2 halfwords from 0x1000. -/
theorem test_bra : after (exec (.bra { g := g7, disp := 0xFFFFFFFE }) user) (fun s => (s.warp.lane 0).pc) = some 0x7FE := by decide
/-- R103: a false guard sends every lane past the instruction. -/
theorem test_guard : after (exec (.bra { g := { g7 with pn := true }, disp := 2 }) user) (fun s => (s.warp.lane 0).pc) = some 0x804 := by decide
/-- R161: 1.0 + 1.0 of FP32. -/
theorem test_fadd : regAfter (exec (.fadd { fF 1 .lit .lit with lit := some 0x3F800000 }) user) 0 1 = some 0x40000000 := by decide
/-- R185, R184: what a store leaves, a load reads. -/
theorem test_store_load : (after (exec (.st .b32 (fM 0 (.v 4) (.v 8))) user)
    fun s => regAfter (exec (.ld .z16 (fM 1 (.v 4) .zero)) s) 2 1) = some (some 0xABCD) := by decide
/-- R150, R380: BRK without a handler stops the lane where it stands. -/
theorem test_brk : after (exec (.brk { g := g7, d := 0, a := .zero }) user) (fun s => ((s.warp.lane 1).wait, (s.warp.lane 1).pc)) =
    some (.stopped, 0x800) := by decide

/-! ### States that meet the hypotheses of the statements -/

/-- Operands that every instruction of a family accepts. -/
def o1 : WForm IMod := fI 1 (.v 2) (.v 3)
def oN : WForm NoMod := fN 1 (.v 2) (.v 3) .zero
def oF : WForm FMod := fF 1 (.v 2) (.v 3)
def oC : C16 := { sw := false, vd := 2, vs := 3 }
def oShort : N32 := { g := g7, d := 0, a := .zero }
def oM : MForm MMod := fM 1 (.v 4) (.v 8)
def oH : MForm NoMod := fH 1 (.v 4) .zero
def oA : AForm := { g := g7, d := 1, a := .v 4, b := .v 8, c := .v 6, gsel := 0, ty := .z32, m := mm }
def oR : RegForm := { g := g7, d := 4, a := .zero, b := .v 9, ai := 2, perm := .none }
def oR0 : RegForm := { oR with d := 0, b := .zero }
def oSpill : SpillForm := { g := g7, d := 0, a := .s 0, ai := 2, gsel := 0, off := .short 0 }
def oBar : BarForm := { g := g7, d := 0, k := 0, b := .zero, ve := false, vop := 0, vin := 0, vout := 0, perm := .none }
def oCsr (n : BitVec 12) : CsrForm := { g := g7, d := 2, a := .v 2, num := n }
def oCsrW (n : BitVec 12) : CsrForm := { g := g7, d := 0, a := .v 2, num := n }
def oMloop : MloopForm :=
  { g := g7, d := 0, a := .zero, b := .zero, shape := 0, typ := 0, bsc := false, ai := 2, ti := 1, abase := 16, astep := 2, tag := 5, km1 := 3 }
def oCopy : CopyForm :=
  { g := g7, d := 0, a := .s 0, b := .s 2, c := .s 4, scope := .dev, spitch := 0, bsel := 0, be := true, tag := 9 }
def oMcast : McastForm :=
  { g := g7, d := 0, a := .s 0, b := .s 2, c := .s 4, scope := .core, cmask := 3, col := false, bus := false, quad := 0, bsel := 0
    be := false, tag := 9 }
def oCvt : CvtForm := { g := g7, d := 1, a := .v 3, del := 2, sel := 0, sf := .f32, df := .e4m3, rnd := .rne, sat := false }
def oBlk : BlkForm := { g := g7, d := 1, a := .v 2, blk := 4, perm := .none }
def oLdt : LdtForm := { g := g7, d := 1, ti := 1, b := .zero, trn := false, rc := 0, perm := .none }
def oFence : FenceForm := { g := g7, d := 0, gsel := 0, m := { scope := .dev, ord := .rel } }

/-- The integer, predicate, move and float families, branches and traps complete in user state. -/
theorem witness_executes :
    (∀ c ∈ [Instr.iadd, .isub, .iadd3, .ineg, .iabs, .imul, .imulh, .imad, .imin, .imax, .and, .or, .xor, .not, .andn, .orn, .shl, .shr,
        .sar, .rotl, .rotr, .fshl, .fshr, .bfe, .bfi, .popc, .clz, .brev, .ffs, fun o => .rdux (.int .add o), .icmp .eq],
      Executes (c o1) user) ∧
    Executes (.sel { o1 with c := .p 0 }) user ∧ Executes (.imadw { o1 with d := 2, a := .v 4 }) user ∧
    (∀ c ∈ [Instr.lea, .leaw], Executes (c { o1 with d := 2, a := .v 4, b := .v 6, c := .imm 66, m := { plainI with w := .w64 } }) user) ∧
    (∀ c ∈ [Instr.pand, .por, .pxor, .pnot], Executes (c (fN 1 (.p 0) (.p 1) .zero)) user) ∧
    (∀ c ∈ [Instr.mov, .movu, .movp], Executes (c (fN 1 (.s 2) .zero .zero)) user) ∧ Executes (.movN32 { oShort with d := 1 }) user ∧
    (∀ m ∈ [ShflMode.abs, .rel, .bfly, .ring], Executes (.shfl m (fN 1 (.v 2) (.imm 65) .zero)) user) ∧
    (∀ c ∈ [Instr.fadd, .fsub, .fmul, .ffma, .ffms, .fnma, .fmin, .fmax, .fcmp .lt, .rcp, .rsq, .sqrt, .ex2, .lg2, .sin, .cos, .tanh,
        fun o => .rdux (.flt .fadd o)], Executes (c oF) user) ∧
    (∀ c ∈ [Instr.movC16, .iaddC16, .isubC16, .andC16, .orC16, .xorC16, .shlC16, .shrC16, .sarC16, .imulC16, .iminC16, .imaxC16,
        .faddC16, .fmulC16, .fminC16, .fmaxC16], Executes (c oC) user) ∧
    (∀ op ∈ [VoteOp.and, .or, .same, .mask, .count, .lowest], Executes (.vote op (fN 1 (.p 0) .zero .zero)) user) := by
  unfold Executes; decide +kernel

/-- Memory, regions, engines, tasks in user state; the supervisor's instructions in supervisor state. -/
theorem witness_executes_memory :
    (∀ i ∈ [Instr.ld .b32 oM, .lds .b32 oM, .st .b32 { oM with d := 0 }, .sts .b32 { oM with d := 0 }, .discard { oM with d := 0, b := .zero },
        .ldt oLdt, .driftP oH, .driftD oH, .driftQ oH, .pref .l1 { oH with d := 0 }, .fence oFence, .atom .add oA, .enq { oM with d := 2 },
        .deq { oM with d := 2 }, .wakev oM, .waitv oA, .redq .e4m3 (fH 0 (.v 4) (.v 6)), .redf .f32 oR0, .mrel oR0, .mrelFin oR0, .macq oR0,
        .mzero (fN 2 (.imm 65) .zero .zero), .mread .plain { oR with a := .v 0 }, .mread .raw { oR with a := .v 0 },
        .mread .st { oR with a := .v 0, b := .zero }, .mcvt .f16 false oR, .rowstat oR, .mspill oSpill, .mfill oSpill, .barArrive oBar,
        .barWait oBar, .barSync oBar, .barPend oBar], Executes i user) := by
  unfold Executes; decide +kernel

theorem witness_executes_system :
    (∀ i ∈ [Instr.twaitAny (fN 0 (.s 2) .zero .zero), .twaitAll (fN 0 (.s 2) .zero .zero), .tclr (fN 0 (.s 2) .zero .zero),
        .tffr (fN 1 (.s 2) .zero .zero), .mloop oMloop, .copy oCopy, .mcast oMcast, .msend (fN 1 (.v 2) (.v 3) (.v 8)),
        .launch (fN 2 (.v 4) (.v 2) .zero), .sysc (fN 1 (.v 2) (.v 8) .zero), .gate (fN 2 (.v 2) (.v 3) (.v 4)), .vrdi oN,
        .vwri { oN with d := 0 }, .tget (fN 0 (.v 1) .zero .zero), .tset (fN 0 (.s 0) .zero .zero), .aget (fN 0 (.v 1) .zero .zero),
        .aset (fN 0 (.s 0) .zero .zero), .bra ⟨g7, 2⟩, .braJ32 ⟨g7, 2⟩, .call { fN 2 .zero .zero .zero with lit := some 4 },
        .callx (fN 2 (.v 4) .zero .zero), .jmpx (fN 0 (.v 4) .zero .zero), .ret (fN 0 (.v 4) .zero .zero), .join (fN 1 .zero .zero .zero),
        .exit oShort, .yield oShort, .brk oShort, .stmap (fN 0 (.s 0) (.s 2) (.s 4)), .stunmap (fN 0 .zero (.s 2) .zero), .cvt oCvt,
        .bpack oBlk, .bunpack oBlk, .csrr (oCsr 0x12), .csrw (oCsrW 0x12)], Executes i user) ∧
    (∀ i ∈ [Instr.tret oShort, .sqtake (fN 16 (.v 0) .zero .zero), .sqreply (fN 0 (.v 4) (.v 2) (.v 3)), .fqtake (fN 8 (.v 0) .zero .zero),
        .fqresume (fN 0 (.v 2) (.v 3) .zero), .tlbi (fN 0 (.v 4) (.v 2) .zero), .tlbia (fN 0 .zero (.v 2) .zero),
        .tlbig (fN 0 .zero .zero .zero), .cflush (fN 0 (.v 4) .zero .zero), .cinv (fN 0 (.v 4) .zero .zero),
        .icinv (fN 0 (.v 4) .zero .zero), .dstop (fN 1 (.v 2) .zero .zero), .dresume (fN 1 (.v 2) .zero .zero),
        .osave (fN 2 (.v 4) (.v 8) .zero), .odrop (fN 2 (.v 4) .zero .zero), .xget (fN 1 (.v 2) .zero .zero),
        .xput (fN 1 (.v 2) .zero .zero)], Executes i sup) := by
  unfold Executes; decide +kernel

/-- The registers of each case of CsrWrites. -/
theorem witness_executes_csr :
    (∀ i ∈ [Instr.csrw (oCsrW 0x011), .csrs (oCsrW 0x012), .csrc (oCsrW 0x050), .csrw (oCsrW 0x051), .csrs (oCsrW 0x052), .csrc (oCsrW 0x053),
        .csrw (oCsrW 0x054), .csrs (oCsrW 0x055), .csrc (oCsrW 0x056), .csrw (oCsrW 0x057)], Executes i sup) ∧
    (∀ i ∈ [Instr.csrw (oCsrW 0x030), .csrs (oCsrW 0x031), .csrc (oCsrW 0x032), .csrw (oCsrW 0x033), .csrs (oCsrW 0x040), .csrc (oCsrW 0x041)],
      Executes i slane) := by
  unfold Executes; decide +kernel

/-- The four lanes of the warp are active, and the supervisor lane is. -/
theorem witness_active : user.activeOf g7 = 0xF ∧ sup.activeOf g7 = 0xF ∧ slane.activeOf g7 = 1 ∧ user.warp.flagsDue = [] ∧
    user.cur.who.ctx = .slot 0 ∧ slane.cur.who.ctx = .sl := by decide

/-- A guard that is false leaves no lane active. -/
theorem witness_idle : user.activeOf { g7 with pn := true } = 0 := by decide

/-! #### Fetching and issue -/

def setCore (s : State) (f : Core → Core) : State := s.modCore 0 f
def setWarp (s : State) (f : Warp → Warp) : State := s.modWarp f
def memAt (s : State) (pa n x : Nat) : State := { s with mem := putBytes s.mem pa (toBytes n x) }

/-- What StepRunsDecoded asks, of the supervisor lane that the reset state issues and of a context that the schedule names. -/
theorem witness_step :
    let s := State.reset.withFetchWord 64 (w64 0 320 3 0 0 2 1 0x00).toNat
    let s₀ : State := { s with ticked := false }
    let b := s₀.beginIssue ⟨0, .sl⟩ .sup
    s.fatal = false ∧ s.tape = [] ∧ s.backlog = [] ∧ s.turn = some ⟨0, .sl⟩ ∧ s₀.interruptAdmitted 0 = false ∧
    (s₀.core 0).sl.halt = false ∧ s₀.pickFront ⟨0, .sl⟩ = some .sup ∧
    ((b.fetch (b.fetchCx ⟨0, .sl⟩ .sup) (b.cur.pc ++ 0#1)).1.toOption = some (w64 0 320 3 0 0 2 1 0x00, 8)) ∧
    reads (w64 0 320 3 0 0 2 1 0x00) = some (.iadd (fI 1 (.v 2) (.v 3))) ∧
    let u : State := memAt user 0x1000 8 (w64 0 320 3 0 0 2 1 0x00).toNat
    let c := u.beginIssue ⟨0, .slot 0⟩ .user
    ({ u with tape := [.issue ⟨0, .slot 0⟩] } : State).tape = .issue ⟨0, .slot 0⟩ :: [] ∧ u.fatal = false ∧
    u.pickFront ⟨0, .slot 0⟩ = some .user ∧
    (c.fetch (c.fetchCx ⟨0, .slot 0⟩ .user) (c.cur.pc ++ 0#1)).1.toOption = some (w64 0 320 3 0 0 2 1 0x00, 8) := by decide +kernel

/-- The boot ROM and DRAM, and two words that agree in the 32 bits of their length. -/
theorem witness_fetch :
    (∀ i < 12, State.reset.place (0x180010200000 + i) = .rom) ∧ State.reset.poison = [] ∧
    user.dramAt 0x1000 12 ∧ user.linked 0 0x1000 12 ∧ (user.core 0).icache = [] ∧ user.still ∧
    lengthCode ((head 5 9 0x12 0b00).setWidth 96) = some 4 ∧
    ∀ i < 8 * 4, ((head 5 9 0x12 0b00).setWidth 96 : BitVec 96).getLsbD i = (0xFF#64 ++ head 5 9 0x12 0b00).getLsbD i := by
  unfold State.dramAt State.linked; decide +kernel

/-- EncodeDecode and the family EncodedLength. -/
theorem witness_encode : (Instr.mloop oMloop).wf = true ∧ (encode (.mloop oMloop)).isSome = true ∧
    ((encode (.mloop oMloop)).map fun e => lengthCode e.bits) = some (some 12) := by decide

/-! #### Numbers -/

/-- SettledWrites: one open write, and none; IntegerElements and ResultRegisters hold of every operand. -/
theorem witness_settled : (look zeroV [(0, (⟨1, [(.user, 2)]⟩ : VReg))] 0).opens = [(.user, 2)] ∧
    (look zeroV ([] : Table VReg) 0).opens = [] := by decide

/-- FltDoes: no lane's exceptions are enabled, and all four are. -/
theorem witness_float_traps :
    let i := { fF 1 .lit .lit with lit := some 0x7F800001 }
    let s := setCore user fun c => { c with arithen := 0x1F }
    let fl := (fElem .add Sys2Proof.Machine.fp32 (FCap.ofFmode s.warp.fmode) .rne 0x7F800001 0x7F800001 0).2
    (user.core 0).arithen = 0 ∧ (s.core 0).arithen = 0x1F ∧ fl &&& 0x1F ≠ 0 ∧ s.activeOf i.g = 0 ||| 0xF := by decide +kernel

/-- PatternsRoundToThemselves: 1.0, and the least positive number, of FP32. -/
theorem witness_patterns :
    Sys2Proof.Machine.fp32.value 0x3F800000 = .fin false 0x800000 (-23) ∧
    Sys2Proof.Machine.fp32.value 1 = .fin false 1 (-149) ∧ 32 ≤ user.warp.tile := by decide +kernel

/-! #### Traps -/

def handler : State := setCore user fun c => { c with tvec := 0x8001 }

/-- TrapEntry, with and without a result on its way; TrapStopsTheLane; SupervisorLaneTraps. -/
theorem witness_traps :
    handler.cur.who.ctx = .slot 0 ∧ handler.cur.front = .user ∧ (handler.core 0).tvec.getLsbD 0 = true ∧
    (setWarp handler fun w => { w with user := { w.user with loads := [1] } }).warp.user.loads ≠ [] ∧
    (user.core 0).tvec.getLsbD 0 = false ∧ sup.cur.front = .sup ∧ (slane.core 0).sl.ih = false ∧
    ((setCore slane fun c => { c with sl := { c.sl with ih := true } }).core 0).sl.ih = true := by decide

/-- IllegalTraps: a reserved source in each group of forms; a tile of 16 lanes; .raw in arrival-rounded mode; a BINC of 5; a
message past the registers. -/
theorem witness_illegal :
    let lc (s : State) : LegalCx := { v := s.warp.vAlloc, s := s.warp.sAlloc, sl := inSl s }
    let narrow := setWarp user fun w => { w with tilepart := 4 }
    let few := setWarp user fun w => { w with vAlloc := 32 }
    let o := fN 1 (.v 2) (.v 3) (.v 31)
    (∀ i ∈ [Instr.iadd { o1 with a := .resv 0 }, .jmpx (fN 0 (.resv 0) .zero .zero), .fadd { oF with a := .resv 47 }],
      illegalSub (lc user) i = some 4 ∧ (shapeOf i).isSome = true) ∧
    narrow.warp.tile = 16 ∧ illegalSub (lc narrow) (.bpack oBlk) = none ∧ illegalSub (lc narrow) (.bunpack oBlk) = none ∧
    illegalSub (lc user) (.mread .raw { oR with a := .v 0 }) = none ∧ (accD ((user.rdCx 0 oR.perm).rA oR.ai.toNat)).fixed = false ∧
    illegalSub (lc user) (.mloop { oMloop with b := .imm 69 }) = none ∧
    user.notNow (.mloop { oMloop with b := .imm 69 }) g7 5 true = false ∧
    (user.rdCx 0 .none).srcB (lowLane user.cur.cluster) (.imm 69) .i32 % 16 ≠ 0 ∧
    illegalSub (lc few) (.msend o) = none ∧ 0 ∈ lanesOf (few.activeOf g7) ∧
    few.warp.vAlloc < (31 : BitVec 8).toNat + (8 * ((few.rdCx 0 .none).srcB 0 (.v 3) .i32 / 2 ^ 8 % 8 + 1) + 3) / 4 := by decide +kernel

/-- DivisionsTrap and PrivilegeTraps. -/
theorem witness_lane_traps :
    let lc : LegalCx := { v := user.warp.vAlloc, s := user.warp.sAlloc, sl := inSl user }
    illegalSub lc (.idiv (fN 1 (.v 2) (.v 3) (.v 0))) = none ∧ illegalSub lc (.irem (fN 1 (.v 2) (.v 3) (.v 0))) = none ∧
    illegalSub lc (.fdiv oF) = none ∧ user.cur.front = .user ∧
    ∀ i ∈ [Instr.tret oShort, .sqtake (fN 16 (.v 0) .zero .zero), .xget (fN 1 (.v 2) .zero .zero), .xput (fN 1 (.v 2) .zero .zero)],
      illegalSub lc i = none := by decide +kernel

/-- TrapReturn on the supervisor lane. -/
theorem witness_trap_return : Executes (.tret oShort) slane ∧ slane.activeOf g7 ≠ 0 ∧ (slane.activeOf g7).getLsbD 0 = true := by
  unfold Executes; decide +kernel

def pending (mask : Word) (halt exitHalt : Bool) : State :=
  setCore slane fun c => { c with imask := mask, ipendEdge := mask, sl := { c.sl with halt := halt, exitHalt := exitHalt } }

/-- InterruptEntry, of the least and the greatest cause but the timer's, running and halted by EXIT. -/
theorem witness_interrupt :
    (∀ x ∈ [((pending 0x10 false false), 4), (pending 0x80000010 true true, 4), (pending 0x80000000 true true, 31)],
      (x.1.core 0).sl.ih = false ∧ (x.1.core 0).sl.started = true ∧ x.1.ipend 0 &&& (x.1.core 0).imask ≠ 0 ∧
      ((x.1.core 0).sl.halt = true → (x.1.core 0).sl.exitHalt = true) ∧ ((x.1.core 0).sl.warp.lane 0).st = .runnable ∧ (x.1.core 0).sl.warp.sup.hold = .none ∧
      (x.1.core 0).sl.warp.outstanding .sup = false ∧ x.2 < 32 ∧
      (x.1.ipend 0 &&& (x.1.core 0).imask).getLsbD x.2 = true ∧ ∀ i < x.2, (x.1.ipend 0 &&& (x.1.core 0).imask).getLsbD i = false) ∧
    user.ipend 0 &&& (user.core 0).imask = 0 := by decide +kernel

/-- ErrorRegisters: nothing held, a less severe error held, the most severe held. -/
theorem witness_errors :
    (Core.init.estat.getLsbD 63 = false) ∧
    ({ Core.init with estat := 0x8000000000000000 } : Core).estat.getLsbD 63 = true ∧
    (({ Core.init with estat := 0x8000000000000000 } : Core).estat.extractLsb' 60 2).toNat < Sev.contained.code ∧
    Sev.contained.code ≤ (({ Core.init with estat := 0xB000000000000000 } : Core).estat.extractLsb' 60 2).toNat := by decide

/-! #### Lanes and control -/

/-- LanesStayInTheirTile and ReductionValues hold of every lane; JoinRelease: a lane that waits at a record, and one that does not. -/
theorem witness_join :
    let w := (warp false).onLanes 1 fun _ y => { y with st := .waiting, wait := .join 1 }
    let w : Warp := { w with joins := [(0x800, { mask := 3, len := 8, deadline := some 5 })] }
    let s := setWarp user fun _ => w
    w.waitsAt 0x800 0 = true ∧ (w.lane 0).wait = .join 1 ∧ w.waitsAt 0x800 1 = false ∧
    find (s.warpOf ⟨0, .slot 0⟩).joins ((0x1000 : DWord).toNat / 2) = some { mask := 3, len := 8, deadline := some 5 } ∧
    s.time < 5 ∧ (5 : DWord) ≤ ({ s with time := 5 } : State).time := by decide +kernel

/-- ExitEnds: no lane active, a warp, the supervisor lane. -/
theorem witness_exit : Executes (.exit { oShort with g := { g7 with pn := true } }) user ∧ user.activeOf { g7 with pn := true } = 0 ∧
    Executes (.exit oShort) slane := by unfold Executes; decide +kernel

/-! #### Memory -/

/-- The plain load, store and stash access of the four lanes: aligned, in DRAM, within the task's bytes, at both ends of them. -/
theorem witness_dram_stash :
    let cx := user.rdCx 0 .none
    (∀ l ∈ lanesOf (user.activeOf g7), cx.va (.v 4) 0 l % 4 = 0 ∧ cx.va (.v 4) 0 l % 16 = 0 ∧ user.dramAt (cx.va (.v 4) 0 l) 16 ∧
      user.linked 0 (cx.va (.v 4) 0 l) 16 ∧ user.there (cx.va (.v 4) 0 l) 1 ∧ user.there (cx.va (.v 4) 0 l) 4) ∧
    user.dramAt 0 16 ∧ user.dramAt (0x00B400000000 - 16) 16 ∧
    user.poison = [] ∧ (user.core 0).l1 = [] ∧ (user.core 0).windows = [] ∧ (user.core 0).stashPoison = [] ∧
    (∀ l ∈ lanesOf (user.activeOf g7), cx.va .zero 0 l % 2 ^ 32 % 16 = 0 ∧ cx.va .zero 0 l % 2 ^ 32 + 16 ≤ ((user.core 0).run 1).size) ∧
    ∀ l ∈ lanesOf (user.activeOf g7), cx.va .zero 8176 l % 2 ^ 32 + 16 ≤ ((user.core 0).run 1).size := by
  unfold State.there State.dramAt State.linked; decide +kernel

/-- MemoryLanes, AtomicLanes, TileLoads: no lane stops. -/
theorem witness_lanes :
    let cx := user.rdCx 0 .none
    let ax := user.ax true
    let all (ls : List Nat) (f : Nat → State → Option Stop × State) : Bool := (lanesRun f ls user).isSome
    let ok := all [0, 1, 2, 3]
    ok (loadLane false .b32 oM cx ax) = true ∧ ok (loadLane true .b32 { oM with a := .zero } cx ax) = true ∧
    ok (storeLane false .b32 oM cx ax) = true ∧ ok (storeLane true .b32 { oM with a := .zero } cx ax) = true ∧
    ok (discardLane oM cx ax) = true ∧ ok (driftLane 0 oH cx ax) = true ∧ ok (driftLane 1 oH cx ax) = true ∧
    ok (driftLane 2 oH cx ax) = true ∧ all [0] (atomLane .add oA cx ax) = true ∧ ok (waitvLane oA cx ax) = true ∧
    user.ldtBad (tileD (cx.rT 1)) = none ∧ ok (ldtLane oLdt (tileD (cx.rT 1)) cx ax) = true := by decide +kernel

/-- The same for a lane of the instructions on aligned records, at 0x2000 and 0x3000; RequantisedSums. -/
theorem witness_records :
    let s := setWarp user fun w => w.onLanes 0xF fun l y => y.wV .user 4 (BitVec.ofNat 32 (0x2000 + 64 * l)) |>.wV .user 6 0x3000
    let s := setWarp s fun w => w.settle .user 0
    let cx := s.rdCx 0 .none
    let ax := s.ax true
    let ok (f : Nat → State → Option Stop × State) : Bool := (lanesRun f [0] s).isSome
    ok (ringLane oM true cx ax) = true ∧ ok (ringLane oM false cx ax) = true ∧ ok (wakevLane oM cx ax) = true ∧
    ok (redqLane .e4m3 (fH 0 (.v 4) (.v 6)) cx ax) = true ∧
    cx.va (.v 4) 0 0 = 0x2000 ∧ cx.srcB 0 (.v 6) .i64 = 0x3000 ∧
    s.dramAt 0x2000 48 ∧ s.linked 0 0x2000 48 ∧ s.dramAt 0x3000 48 ∧ s.linked 0 0x3000 48 := by
  unfold State.dramAt State.linked; decide +kernel

/-- WindowsHintsFences: operands that describe a window, and no window that it overlaps. -/
theorem witness_window :
    ((user.core 0).windowFor user.warp 0x4000 0 0x1000).toOption.isSome = true ∧
    ((user.core 0).windowFor user.warp ((user.rdCx 0 .none).srcA 0 (.s 0) .i64) ((user.rdCx 0 .none).srcB 0 .zero .i32)
      ((user.rdCx 0 .none).srcC 0 (.s 6) .i32)).toOption.isSome = true ∧
    Executes (.stmap (fN 0 (.s 0) .zero (.s 6))) user ∧ (user.core 0).windows.length < 16 := by unfold Executes; decide +kernel

/-- ResultsReturn: the result is not outstanding, it alone is, and another one beside it, the front parked. -/
theorem witness_results :
    let s (ms : List Mask) : State := setWarp user fun w => { w with user := { w.user with loads := ms, parked := true } }
    (1 : Mask) ∉ ((user.warpOf ⟨0, .slot 0⟩).front .user).loads ∧ (1 : Mask) ∈ (((s [1]).warpOf ⟨0, .slot 0⟩).front .user).loads ∧
    (1 : Mask) ∈ (((s [1, 2]).warpOf ⟨0, .slot 0⟩).front .user).loads ∧ (((s [1]).warpOf ⟨0, .slot 0⟩).front .user).parked = true := by decide

/-! #### Atomics, queues, waits -/

/-- AtomicOnDram, AtomicValues and WaitOutcomes: aligned and misaligned words of DRAM; a word that differs, one that does not,
with no deadline, one that has passed and one to come. -/
theorem witness_atomics :
    0x2002 % (4 * Ty.regs .z32) ≠ 0 ∧ 0x2004 % (4 * Ty.regs .s64) ≠ 0 ∧ 0x2004 % (4 * Ty.regs .z32) = 0 ∧ user.dramAt 0x2004 4 ∧
    user.dramAt 0x2000 8 ∧ user.linked 0 0x2000 8 ∧
    ofBytes ((List.range (4 * Ty.regs .z32)).map fun i => user.held (0x2000 + i)) = 0 ∧ (0 : Nat) ≠ 5 ∧
    (3 : DWord) ≤ ({ user with time := 3 } : State).time ∧ user.time < 1 := by unfold State.dramAt State.linked; decide +kernel

/-- A ring control block at 0x2000 whose items lie at base. -/
def ring (base head tail log : Nat) : State :=
  memAt user 0x2000 32 (base + head * 2 ^ 64 + tail * 2 ^ 96 + log * 2 ^ 128)

/-- RingOutcomes and RingsAndWaitsComplete: malformed; empty; full; room for one more item; an item to take; one active lane. -/
theorem witness_rings :
    let r (s : State) := rcbOf ((List.range 32).map fun i => s.held (0x2000 + i))
    let full := ring 0x5000 0 1 0
    let some := ring 0x5000 0xFFFFFFFF 0 1
    user.dramAt 0x2000 32 ∧ user.linked 0 0x2000 32 ∧ (r (ring 1 0 0 0)).ok = false ∧
    (r (ring 0x5000 7 7 3)).ok = true ∧ (r (ring 0x5000 7 7 3)).used = 0 ∧
    (r full).ok = true ∧ (r full).used = 2 ^ (r full).log ∧
    (r some).ok = true ∧ (r some).used < 2 ^ (r some).log ∧ 0 < (r some).used ∧ some.gaz = [] ∧
    some.there ((r some).slot (r some).tail) 8 ∧ some.there ((r some).slot (r some).head) 8 ∧
    0x2000 + 32 ≤ (r some).slot (r some).tail ∧
    lanesOf ((only some).activeOf g7) = [0] ∧ (some.warp.lane 0).st = .runnable ∧ (some.rdCx 0 .none).va (.v 4) 0 0 = 0x2000 := by
  unfold State.there State.dramAt State.linked; decide +kernel

/-! #### Barriers and tags -/

/-- BarrierPhases, BarriersOfAGroup, BarriersAlone, BarriersInTheCore: the last arrival; a group that is the warp's, as member for the first time in
a phase and for the second; a warp without the group. -/
theorem witness_barriers :
    ({ BarObj.init with nmem := 1, arr := 1 } : BarObj).arr = ({ BarObj.init with nmem := 1, arr := 1 } : BarObj).nmem ∧
    (BarObj.init.pend = 0) ∧ ({ BarObj.init with nmem := 2, arr := 1 } : BarObj).arr ≠ 2 ∧
    let again := setWarp user fun w => { w with phases := [(0, ⟨0, true⟩)] }
    let r := user.barRef 0 user.warp true 3
    user.warp.groupOk 0 = true ∧ (user.warp.groupId 0).toNat = 3 ∧ user.warp.groupOk 1 = false ∧
    (user.barGet 0 r).1.toOption.isSome = true ∧ (find user.warp.phases 0).map (·.phase) ≠ some 0 ∧
    ((again.barGet 0 r).1.toOption.map fun x => x.1.phase) = some 0 ∧ (find again.warp.phases 0).map (·.phase) = some 0 ∧
    (user.barChange 0 1 3 r fun b => { b with arr := b.arr + 1 }).1 = none ∧
    find user.disp.tasks user.warp.task.toNat = some task ∧ task.localGroups.contains 3 = true ∧ (user.core 0).windows = [] := by decide +kernel

/-- Tags: the bits of the mask set, none, a mask of no bits; the tags of the warp completed and not. -/
theorem witness_tags :
    let mask : DWord := BitVec.ofNat 64 ((user.rdCx 0 .none).srcA 0 (.s 2) .i64)
    let s (bits : DWord) : State := setCore (setWarp user fun w => { w with town := 0x3000 }) fun c => { c with tagbits := bits }
    mask = 0x3000 ∧ ((s 0x1000).core 0).tagbits &&& mask ≠ 0 ∧ ((s 0x1000).core 0).tagbits &&& mask ≠ mask ∧
    ((s 0x3000).core 0).tagbits &&& mask = mask ∧ ((s 0).core 0).tagbits &&& mask = 0 ∧
    mask.getLsbD 12 = true ∧ (s 0x1000).warp.town.getLsbD 12 = true ∧ ((s 0x1000).core 0).tagbits.getLsbD 12 = true ∧
    ((s 0x1000).core 0).tagbits.getLsbD 13 = false ∧ mask.getLsbD 63 = false := by decide +kernel

/-! #### Regions -/

/-- The accumulator descriptor of the warp's a2. -/
def acc : AccD := accD ((user.rdCx 0 .none).rA 2)

def modReg (f : Region → Region) : State := user.modRegion 0 0 f
def waiting : MacqReq :=
  { src := ⟨1, 0, none⟩, who := ⟨0, .slot 0⟩, front := .user, lanes := 0xF, addr := 0x800, words := 0, len := 8, key := 1, upTo := 0 }

/-- RegionRequests, TokenAcquire, RegionReaders, RegionImages, ReadersComplete, ImagesComplete: a handle that matches and one that does not; a region that the warp
holds; one that is free with a warp that waits, and one that is held; elements inside and outside it. -/
theorem witness_regions :
    (user.slice acc.hcore).matchShape acc = some region ∧ (user.slice 1).matchShape acc = none ∧
    (user.heldRegion acc).toOption = some region ∧ region.size ≤ 64 ∧ 63 < region.size ∧
    ((modReg fun r => { r with holder := none, waiting := [waiting] }).slice 0).grantable 0
      { region with holder := none, waiting := [waiting] } = some waiting ∧
    (user.slice 0).grantable 0 region = none ∧
    (let s := setWarp user fun w => { w with a := [(2, ⟨0x10000000000000000000040100000, []⟩)] }
     rawDyn .raw 2 (s.rdCx 0 .none) s = []) ∧
    (user.rdCx 0 .none).va (.s 0) 0 0 % 128 = 0 ∧
    (user.imageSpots (user.ax false) .write 0x4000 (128 * region.lines + 16)).1.toOption.isSome = true ∧
    (user.imageSpots (user.ax false) .read 0x4000 (128 * region.lines + 16)).1.toOption.isSome = true ∧
    find (user.slice acc.hcore).regions acc.line = some region ∧ acc.v = true ∧ region.key = acc.key ∧ region.rows = acc.rows ∧
    region.cols = acc.cols ∧ region.holder = some user.source ∧ region.poison = [] ∧ (user.slice acc.hcore).inq = [] ∧
    (user.rdCx 0 .none).srcB 3 (.v 9) .i32 = 0 ∧ region.size * elemBytes region.fixed = 128 * region.lines ∧
    (let s := setWarp user fun w => { w with a := [(2, ⟨0x10000000000000000000040100000, []⟩)] }
     (accD ((s.rdCx 0 .none).rA 2)).fixed = true) ∧
    user.dramAt 0x4000 272 ∧ user.linked 0 0x4000 272 := by unfold State.dramAt State.linked; decide +kernel

/-- RegionContributions: both modes; NaN, infinity and a number. -/
theorem witness_contributions :
    region.bad 0 = false ∧ region.fixed = false ∧ ({ region with fixed := true } : Region).fixed = true ∧
    Sys2Proof.Machine.fp32.value 0x7FC00000 = .nan false ∧ Sys2Proof.Machine.fp32.value 0xFF800000 = .inf true ∧
    Sys2Proof.Machine.fp32.value 0x3F800000 = .fin false 0x800000 (-23) := by decide +kernel

def contribution : SliceReq :=
  { src := ⟨1, 0, none⟩, core := 0, op := .contribute 0x10000000000000000000040000000 none false false [(0, 0, 0x3F800000), (1, 5, 0)] }
def release : SliceReq := { src := ⟨1, 1, none⟩, core := 0, op := .release 0x10000000000000000000040000000 0 false 0 }

/-- SliceRequests and ContributionsLand: a contribution and a release at the front; none; a region to disarm and none. -/
theorem witness_slice :
    let s := user.modSlice 0 fun x => { x with inq := [contribution, release] }
    ((firsts (s.slice 0).inq []).filter isContribution)[0]? = some contribution ∧
    ((firsts (s.slice 0).inq []).filter isRelease)[0]? = some release ∧
    ((firsts (user.slice 0).inq []).filter isContribution)[0]? = none ∧
    find (user.slice 0).regions ((0 : Word).toNat % 16384) = some region ∧ find (user.slice 0).regions ((5 : Word).toNat % 16384) = none ∧
    (accD 0x10000000000000000000040000000).v = true ∧ region.key = (accD 0x10000000000000000000040000000).key := by
  decide +kernel

/-! #### Engines -/

/-- EnginesStart and EngineTagTaken: a tag that is free, the warp's own, another warp's. -/
theorem witness_engines :
    user.notNow (.copy oCopy) g7 9 false = false ∧ user.notNow (.mcast oMcast) g7 9 false = false ∧
    user.notNow (.mloop oMloop) g7 5 true = false ∧ user.warp.town.getLsbD 9 = false ∧ user.warp.town.getLsbD 5 = false ∧
    bincDyn oMloop (user.rdCx 0 .none) user = [] ∧
    mloopTileBad (tileD ((user.rdCx 0 .none).rT 1)) 8192 (mloopWidth 0) (mloopK 0) (mloopN 0) 4 0 = none ∧
    mloopScaleBad { tileD ((user.rdCx 0 .none).rT 1) with esz := 2 } 8192 4 32 = none ∧
    (setWarp user fun w => { w with town := 0x200 }).warp.town.getLsbD 9 = true ∧
    ((setCore user fun c => { c with tagUsed := 0x200 }).core 0).tagUsed.getLsbD 9 = true := by decide +kernel

/-- EngineEvents, MloopStepValues: no run; a COPY with bytes left and with none, an MCAST, an MLOOP with steps left and with none. -/
theorem witness_runs :
    let r (k : RunKind) (c : Nat) : Run := { user.newRun k 0x4000 0x3000 c with next := List.replicate 16 0 }
    let s (r : Run) : State := setCore user fun c => { c with runs := [(9, r)] }
    find (user.core 0).runs 9 = none ∧ find ((s (r (.copy oCopy) 0x10000)).core 0).runs 9 = some (r (.copy oCopy) 0x10000) ∧
    (copyPlan oCopy (r (.copy oCopy) 0)).total ≤ 0 ∧ 0 < (copyPlan oCopy (r (.copy oCopy) 0x10000)).total ∧
    (r (.copy oCopy) 0).owed = 0 ∧ (r (.copy oCopy) 0).held = false ∧ (r (.mloop oMloop) 0).prog ≤ oMloop.km1.toNat ∧
    oMloop.km1.toNat < ({ r (.mloop oMloop) 0 with prog := 4 } : Run).prog ∧
    (user.slice 0).awaits (r (.mloop oMloop) 0) 5 = false ∧
    ((user.modSlice 0 fun x => { x with inq := [{ contribution with op := .mloop 5 0x10000000000000000000040000000 }] }).slice 0).awaits (r (.mloop oMloop) 0) 5 = true ∧
    (r (.mcast oMcast) 64).owed = 0 ∧ oMcast.bus = false ∧ ((0 : DWord).toNat ≤ (r (.mcast oMcast) 0).next.getD 0 0) ∧
    ({ oMcast with bus := true } : McastForm).bus = true ∧ 31 < mloopM 0 ∧ 31 < mloopN 0 := by decide +kernel

/-! #### Messages, launches, placement -/

def msg (route : Word) : Msg :=
  { id := 0, who := ⟨0, .slot 0⟩, front := .user, lane := 0, d := 1, task := 1, wid := 0, route := route, ring := 0
    data := [] }
/-- A message to core 0, where the stash of task 1 holds a ring: data at 128, one slot, head and tail. -/
def received (head tail : Nat) : State :=
  { setCore user fun c => { c with stash := putBytes [] 0 (toBytes 32 (128 + 2 ^ 40 + head * 2 ^ 64 + tail * 2 ^ 96)) } with
    msgs := [msg 0] }

/-- MessagesSent: registers that the message fits. MessagesReceived, MessagesLand: no message; one at core 0 and at a slice; a ring that is
none, full, and with room. -/
theorem witness_messages :
    msendDyn (fN 1 (.v 2) (.v 3) (.v 8)) (user.rdCx 0 .none) user = [] ∧ (user.msgs.find? fun m => decide (user.msgEnd m = .unit 0) && !user.msgHeld m) = none ∧
    ((received 0 0).msgs.find? fun m => decide ((received 0 0).msgEnd m = .unit 0) && !(received 0 0).msgHeld m) = some (msg 0) ∧ user.msgEnd (msg 0x02000000) = .unit 128 ∧
    (find user.disp.tasks 1).isSome = true ∧ find user.disp.tasks 2 = none ∧ ((user.core 0).slots.any fun e => e.2.task == 1) = true ∧
    let a : Ax := { x := { core := 0, ptroot := 0, asid := 0, user := false }, w := { Warp.empty with task := 1 }, acq := false, agent := true }
    let r (s : State) : Ring := ringOf (getBytes (s.core 0).stash 0 32) 8192
    (resolve (fun s p => s.spotOff a .read p) (granulesOf 0 32) (received 0 0)).1.toOption.isSome = true ∧
    (((received 5 5).ifaceStore a ((r (received 5 5)).doff + 128 * ((r (received 5 5)).tail % 2 ^ (r (received 5 5)).log)) (msg 0).slot).1) = none ∧
    (r user).ok = false ∧ (r (received 0 1)).ok = true ∧ (r (received 0 1)).used = 2 ^ (r (received 0 1)).log ∧
    (r (received 5 5)).ok = true ∧ (r (received 5 5)).used ≠ 2 ^ (r (received 5 5)).log ∧ (r (received 5 5)).we = false ∧
    (r (received 5 5)).used < 2 ^ (r (received 5 5)).log ∧ ((received 5 5).core 0).windows = [] ∧ ((received 5 5).core 0).stashPoison = [] ∧
    (msg 0).data.length ≤ 64 ∧ 32 * (msg 0).ring + 32 ≤ (((received 5 5).core 0).run 1).size ∧ 32 * (msg 0).ring + 32 ≤ (r (received 5 5)).doff := by
  decide +kernel

def launch : LaunchReq :=
  { first := true, who := ⟨0, .slot 0⟩, front := .user, lane := 0, d := 2, addr := 0x7000, queue := 3, user := true, asid := 0, ptroot := 0
    task := 1, wid := 0, rel := 0, gate := none }
def entry (task : Word) : QEntry :=
  { task := task, level := 0, dep := .unread, since := none, fail := none, rise := 0, reserve := false, polled := 0 }
def queued (e : QEntry) : State := { user with disp := { user.disp with queues := [(3, [e])] } }

/-- A task descriptor at 0x7000: entry 0x1000, four lanes, VGRAN 4, SGRAN 1. -/
def described : State := memAt user 0x7000 192 (0x1000 + 4 * 2 ^ 160 + 0x104 * 2 ^ 224)

/-- LaunchAnswers, LaunchToPlacement: a queue that is none, a full one, a descriptor that is misaligned, and one that is taken. -/
theorem witness_launch :
    user.fatal = false ∧ firstLaunch [launch] = ([launch], []) ∧ 64 ≤ ({ launch with queue := 64 } : LaunchReq).queue.toNat ∧
    launch.queue.toNat < 64 ∧ (look [] user.disp.queues 3).length < 256 ∧ (0x7001 : DWord).toNat % 64 ≠ 0 ∧ launch.addr.toNat % 64 = 0 ∧
    256 ≤ (look [] [(3, List.replicate 256 (entry 1))] 3).length ∧
    (let x : XCx := { core := 0, ptroot := 0, asid := 0, user := true }
     let bs := ((described.dispRead x 0x7000 192).1.toOption.getD [])
     bs.length = 192 ∧ dField (ofBytes bs) 0x20 8 = 0 ∧
     (described.parseTask launch (ofBytes bs)).map (fun t =>
       let u : Task := { t with memb := [0xFFFFFFFF], localGroups := [] }
       (u.groupsOk, described.placeable u, (described.firstUnwritable u.cx u.writes).1, u.used, u.gtab)) = some (true, true, none, 0, 0)) ∧
    described.dramAt 0x7000 192 ∧ described.dramAt 0x6000 4 ∧ (memAt described 0x6000 4 7).held 0x6000 ≠ 0 := by
  unfold State.dramAt; decide +kernel

/-- Dependences and HeadsAge: an empty queue; a head that is met, unread, at a word that is 0, that is not, that cannot be read;
the tick before a rise or reservation and the tick of it. -/
theorem witness_heads :
    let e := entry 1
    look [] user.disp.queues 3 = [] ∧ look [] (queued e).disp.queues 3 = [e] ∧ e.dep ≠ .met ∧
    (((queued e).depWord 3 task).1.map fun x => x.1) = some 0 ∧
    (((memAt (queued e) 0x6000 4 7).depWord 3 task).1.map fun x => x.1) = some 7 ∧
    ((queued e).depWord 3 { task with depva := 0x100000000000000 }).1 = none ∧
    ({ e with since := some 0, rise := 0, level := 6 } : QEntry).level < 7 ∧
    1048576 ≤ (({ queued e with time := 1048576 } : State).time - e.rise).toNat ∧
    (({ queued e with time := 1048575 } : State).time - e.rise).toNat < 1048576 ∧
    65536 ≤ (({ queued e with time := 65536 } : State).time - (0 : DWord)).toNat := by decide +kernel

/-- Placement and LaunchToPlacement: a head that is placed, and one that is not; a task that runs; slots of a warp that lives, and of one that does not. -/
theorem witness_placement :
    let q := queued { entry 2 with dep := .met }
    let small : Task := { task with num := 2, st := .queued, warps := [], nlanes := 1, memb := [0xFFFFFFFF], used := 0, localBits := 0
                                    depva := 0, stash := 0, localGroups := [] }
    let s : State := { q with disp := { q.disp with tasks := [(1, task), (2, small)] } }
    let gone := setWarp user fun w => w.onLanes 0xF fun _ y => { y with st := .exited }
    user.candidates = [] ∧ s.candidates = [] ++ Sum.inr ⟨3, 0⟩ :: [] ∧ (s.placeHead ⟨3, 0⟩).isSome = true ∧ s.fatal = false ∧
    s.disp.resume = [] ∧ s.disp.queues = [(3, [{ entry 2 with dep := .met }])] ∧ find s.disp.tasks 2 = some small ∧ small.place = .any ∧
    (let u : State := { s with disp := { s.disp with ptr := 1 } }
     (u.core 1).slots = [] ∧ (u.core 1).stashRuns = [] ∧ (u.core 1).retired = false ∧ small.stash ≤ (u.core 1).stashSize) ∧
    find user.disp.tasks 1 = some task ∧ task.st = .running ∧ find task.warps 0 = some ⟨0, 0⟩ ∧
    user.warpOf ⟨5, .slot 7⟩ = Warp.empty ∧ (user.warpOf ⟨0, .slot 0⟩).dead = false ∧ (gone.warpOf ⟨0, .slot 0⟩).dead = true ∧
    gone.warpOf ⟨0, .slot 0⟩ ≠ Warp.empty ∧ (gone.warpOf ⟨0, .slot 0⟩).drained = true := by decide +kernel

/-! #### Stopping, the supervisor's queues -/

def stopped (st : TaskSt) : State := { user with disp := { user.disp with tasks := [(1, { task with st := st })] } }

/-- StopAndResume and SavedAndResumed: no task, one without the right, one in another state, one that stops, one that resumes. -/
theorem witness_preemption :
    find user.disp.tasks 9 = none ∧ find user.disp.tasks 1 = some task ∧ task.pre = true ∧ ({ task with pre := false } : Task).pre = false ∧
    (find (stopped .saved).disp.tasks 1).map (·.st) = some .saved ∧
    (let s := setWarp (stopped .stopping) fun w => { w with stopping := true }
     s.saveReady ⟨0, .slot 0⟩ = true ∧ (s.warpOf ⟨0, .slot 0⟩).dead = false ∧ s.warpOf ⟨0, .slot 0⟩ ≠ Warp.empty ∧
     (s.warpOf ⟨0, .slot 0⟩).user.hold = .none ∧ (s.warpOf ⟨0, .slot 0⟩).sup.hold = .none ∧
     (find s.disp.tasks (s.warpOf ⟨0, .slot 0⟩).task.toNat).map (·.st) = some .stopping) ∧
    (let s := setWarp (setWarp (stopped .stopping) fun w => { w with stopping := true }) fun w => w.onLanes 0xF fun _ y => { y with st := .exited }
     s.saveReady ⟨0, .slot 0⟩ = true ∧ (s.warpOf ⟨0, .slot 0⟩).dead = true) ∧
    user.saveReady ⟨0, .slot 0⟩ = false ∧ (stopped .resuming).disp.resume.contains 1 = false ∧ task.warps ≠ [] := by decide +kernel

/-- SupervisorCalls and SupervisorReplies: the queue with room and full; a lane parked with the ticket and with another. -/
theorem witness_supervisor :
    let s := setWarp sup fun w => w.onLanes 2 fun _ y => { y with st := .waiting, wait := .sysc 7 1 }
    (user.core 0).sq.length < 512 ∧ 512 ≤ ((setCore user fun c => { c with sq := List.replicate 512 ⟨[]⟩ }).core 0).sq.length ∧
    (user.core 0).sqFull = none ∧ ((setCore user fun c => { c with sqFull := some 0 }).core 0).sqFull = some 0 ∧
    ((16383 : DWord) - 0).toNat < 16384 ∧ 16384 ≤ ((16384 : DWord) - 0).toNat ∧
    s.seatOf ⟨(1 : Word).toNat / 2 ^ 21 % 128, .sl⟩ 1 0 = some ⟨0, .slot 0⟩ ∧ ((s.warpOf ⟨0, .slot 0⟩).lane 1).parkedAt 7 = some 1 ∧
    ((s.warpOf ⟨0, .slot 0⟩).lane 1).parkedAt 8 = none := by decide +kernel

/-- A capability table at 0x8000 with one entry of service svc, for the lanes of task 1. -/
def gated (svc : Nat) : State :=
  memAt { user with disp := { user.disp with tasks := [(1, { task with capBase := 0x8000, capN := 1 })] } } 0x8000 32 (2 ^ 31 + svc * 2 ^ 24)
def timer (live : Bool) : GateTimer := { gen := 2, arm := ⟨100, 0, 0, 0⟩, live := live }

/-- Gates: no capability; each service; a timer that is live and not due, one that is due, one that is not live. -/
theorem witness_gates :
    (user.readCap 0 0).1 = none ∧ ((gated 0).readCap 0 0).1.map (·.svc) = some 0 ∧ ((gated 1).readCap 1 0).1.map (·.svc) = some 1 ∧
    ((gated 4).readCap 4 0).1.map (·.svc) = some 4 ∧ (timer true).live = true ∧ (timer true).due 100 = false ∧ (timer true).due 101 = true ∧
    (timer false).live = false ∧ (timer true).gen = (2 * 8192) % 2 ^ 32 / 8192 % 2 ^ 19 := by decide +kernel

theorem witness_timers : user.freeTimers 0 ≠ [] := fun h =>
  List.not_mem_nil (h ▸ List.mem_filter.2 ⟨List.mem_range.2 (by decide), rfl⟩ : 0 ∈ ([] : List Nat))

def faulted : FqEntry :=
  { seq := 0, kinds := 1, waits := [], taken := false
    first := { who := .lane 0 1 0 0 0, sub := 1, kinds := 1, va := 0x9000, asid := 0, words := 0, tops := (0, 0, 0) } }

/-- FaultEntries: the word of an entry and of none. -/
theorem witness_faults :
    let s := setCore sup fun c => { c with fq := [(0, faulted)], fqOrder := [0] }
    (s.core 0).fq.find? (fun x => fqWord0 x.1 x.2 == fqWord0 0 faulted) = some (0, faulted) ∧
    ((user.core 0).fq = []) ∧ (1 : Nat) < 2 := by decide +kernel

theorem look_all (d v : α) : ∀ (n k t : Nat), k ≤ t → t < k + n → look d ((List.range' k n).map fun j => (j, v)) t = v
  | 0, k, t, _, h => absurd h (by omega)
  | n + 1, k, t, h₁, h₂ => by
    by_cases h : k = t
    · simp [List.range', look, h]
    · simpa [List.range', look, h] using look_all d v n (k + 1) t (by omega) (by omega)

/-- Gates: every timer of a die armed. -/
theorem witness_timers_full :
    ({ user with timers := (List.range' 0 4096).map fun j => (j, timer true) } : State).freeTimers 0 = [] := by
  simp only [State.freeTimers, List.filter_eq_nil_iff, timerKey]
  intro t h
  rw [look_all _ _ 4096 0 _ (by omega) (by have := List.mem_range.1 h; omega)]
  decide

/-! #### Special registers and maintenance -/

/-- WaysChange and CsrWrites: a mask that is no mask, one that would take bytes in use, one that is taken; a write that waits for
a run and one that does not. -/
theorem witness_ways :
    let s := setCore slane fun c => { c with wayPend := some 0xFFF }
    (slane.core 0).wayPend = none ∧ (slane.core 0).waysRefused 0x002 = true ∧ (slane.core 0).waysRefused 0 = true ∧
    (slane.core 0).waysRefused 0xFFF = false ∧ (s.core 0).wayPend = some 0xFFF ∧ s.waysBusy 0 0xFFF = false ∧
    (setCore s fun c => { c with runs := [(5, { user.newRun (.mloop oMloop) 0 0 0 with ti := 0x80000403F03F200000, base := 0x100000 })] }).waysBusy
      0 0x800 = true ∧ (1 : Nat) < 32 := by decide +kernel

/-- CacheLines, CacheLinesComplete, TranslationsDropped, Orphans: no lane stops; a line that no window holds; a parcel that is orphaned, and one that is not. -/
theorem witness_lines :
    let cx := sup.rdCx 0 .none
    let o := fN 0 (.v 4) .zero .zero
    (lanesRun (cacheLane .read State.flushLine o cx (sup.ax false)) [0, 1, 2, 3] sup).isSome = true ∧
    (lanesRun (cacheLane .write (fun t => t.dropLine 0) o cx (sup.ax false)) [0, 1, 2, 3] sup).isSome = true ∧
    (lanesRun (cacheLane .icache State.dropCopies o cx (sup.ax false)) [0, 1, 2, 3] sup).isSome = true ∧
    (∀ l ∈ lanesOf (sup.activeOf g7), cx.srcA l (.v 4) .i64 < 2 ^ 56 ∧ sup.place (cx.srcA l (.v 4) .i64) = .dram) ∧
    sup.holders 0x40 = [] ∧ look .none sup.fabric.held 4 ≠ .orphaned ∧
    look Holding.none ({ sup with fabric := { sup.fabric with held := [(4, .orphaned)] } } : State).fabric.held 4 = .orphaned := by
  decide +kernel

/-! #### Ticks, slots, lines -/

def ahead : State := { user with time := 5000, fabric := { user.fabric with slew := 7 } }
def entryOf (owner : GazOwner) (deadline : DWord) : GazEntry :=
  { die := 0, asid := 0, va := 0x2000, pa := 0x2000, owner := owner, lanes := [⟨0, 1, deadline⟩, ⟨1, 1, 0⟩] }

/-- Ticks, ClocksAndCounters, EntriesEnd: a tick that slews and one that does not; entries of a warp, of a proxy, and on a peer's
word. -/
theorem witness_ticks :
    ahead.maySlew 2 = true ∧ user.maySlew 2 = false ∧ rising user.slices = true ∧ (user.core 1).timecmp ≤ ({ user with time := BitVec.allOnes 64 } : State).time ∧
    (∀ o ∈ [GazOwner.warp ⟨0, .slot 0⟩ 1 0 0, .proxy 2 3 1],
      (({ user with gaz := [entryOf o 4] } : State).gaz.filter fun e => e.die == 0)[0]? = some (entryOf o 4)) ∧
    (user.gaz.filter fun e => e.die == 0)[0]? = none ∧ canon GateTimer.init user.timers = true ∧
    (let far : GazEntry := { entryOf (.warp ⟨0, .slot 0⟩ 1 0 0) 4 with pa := 2 ^ 45, id := 3 }
     (({ user with gaz := [far] } : State).gaz.find? fun e => e.die == 0 && e.id == 3 && devOf e.pa != user.devnum) = some far) := by
  decide +kernel

theorem witness_counters : ∀ h, canon 0 (user.slice h).pred = true := by
  intro h
  show canon 0 (look Slice.init [(0, { Slice.init with regions := [(0, region)] })] h).pred = true
  simp only [look]
  split <;> rfl

def crest (busy : RowCopy) (dirty marked : Bool) (fails : Nat) (next : Option (Nat × SlotBy)) : CrestSlot :=
  { row := 2000, dirty := dirty, by_ := .policy, marked := marked, busy := busy, fails := fails, retryAt := 0, next := next, act := 0 }
def slotted (x : CrestSlot) : State := { user with memctl := { user.memctl with slots := [(1024 * 3 + 5, x)] } }

/-- SlotCopies and SlotCommands: each copy under way, a slot to try again, a marked dirty one, one that is held, none. -/
theorem witness_slots :
    (∀ x ∈ [crest .promote false false 0 none, crest .copyBack true false 0 none, crest .evict true false 0 none,
        crest .evict true false 0 (some (9, .drift)), crest .none true false 1 none, crest .none true true 0 none, crest .none true false 2 none],
      find (slotted x).memctl.slots (3 * 1024 + 5) = some x ∧ x.waits = [] ∧ rising (slotted x).memctl.slots = true ∧ 64 * (slotted x).pinned ≤ 5) ∧
    (0 : DWord) ≤ user.time ∧ find user.memctl.slots (3 * 1024 + 5) = none ∧ 0 < 64 * ({ user with pinned := 1 } : State).pinned := by decide

/-- RepeatedActivations: four activations of a row within 1,024 ticks, and not; no row tracked; a free slot and none. -/
theorem witness_activations :
    let b := bankRow (1024 * 60000)
    let s (t : DWord) : State := { user with memctl := { user.memctl with acts := [(b.bankNo, [⟨b.row, [t, 3, 2, 1]⟩])] } }
    (look [] user.memctl.acts b.bankNo).find? (fun a => a.row == b.row) = none ∧
    (look [] (s 9).memctl.acts b.bankNo).find? (fun a => a.row == b.row) = some ⟨b.row, [9, 3, 2, 1]⟩ ∧
    (9 : DWord).toNat - (1 : DWord).toNat < 1024 ∧ 1024 ≤ (1025 : DWord).toNat - (1 : DWord).toNat ∧
    (s 9).memctl.slotFor b.bankNo b.row = none ∧ ((s 9).freeSlot b.bankNo).isSome = true := by decide +kernel

/-- LinesMove: a line that a core may keep, one that it may not; one that its slice holds, clean and dirty; one that a window holds. -/
theorem witness_cached :
    let x (d : Bool) : L2Line := { data := [(0, 5)], dirty := d, wts := 1, rts := 2 }
    let h := user.homeSlice 0x40
    let s (d : Bool) : State := user.modSlice h fun y => { y with lines := [(0x40, x d)] }
    user.cacheable 0x40 = true ∧ (user.core 0).waymask ≠ 0xFFF ∧ user.cacheable (0x180010000000 / 128) = false ∧
    find ((s true).slice h).lines 0x40 = some (x true) ∧ (s true).homeSlice 0x40 = h ∧
    find (user.slice (user.homeSlice 0x40)).lines 0x40 = none ∧ user.holders 0x40 = [] := by decide +kernel

/-- DramReads, MemoryControl: a sector of DRAM and one that is none; counts under the threshold and at it; the states of a
migration; a core to retire and one that has warps. -/
theorem witness_dram :
    user.place (user.devnum * 2 ^ 45 + 32 * 256) = .dram ∧ user.place (user.devnum * 2 ^ 45 + 32 * 0x8000000000) ≠ .dram ∧
    (5 : Nat) + 1 < user.memctl.ecthr.toNat ∧ user.memctl.ecthr.toNat ≤ 1023 + 1 ∧ user.memctl.lock = false ∧ user.memctl.migSt = .idle ∧
    user.place user.memctl.migOld.toNat = .dram ∧ user.memctl.hmst ≠ 2 ∧ (user.core 0).slots ≠ [] ∧
    (let s := user.modCore 5 fun c => { c with retired := true }
     (s.core 5).retired = true ∧ (s.core 5).slots = [] ∧ (s.slice 5).regions = [] ∧ (s.slice 6).retired = false) := by decide +kernel

/-! #### Other devices, the network, endpoints -/

/-- ParcelRequests, DevicesLostAndJoined, DeviceEvents: a parcel of this home in each state, fenced, and one of another home. -/
theorem witness_parcels :
    let s (x : Parcel) : State := { user with fabric := { user.fabric with cad := [(4, x)] } }
    devOf (4 * 2048) = user.devnum ∧ user.place (4 * 2048) = .dram ∧ devOf (2 ^ 45) ≠ user.devnum ∧ user.fabric.lost.contains 2 = false ∧
    ({ user.fabric with lost := [2] } : Fabric).lost.contains 2 = true ∧
    (∀ st ∈ [ParcelSt.uncached, .shared [3], .owned 3], (look Parcel.init (s ⟨st, none⟩).fabric.cad 4).st = st) ∧
    (look Parcel.init (s ⟨.uncached, some 3⟩).fabric.cad 4).fenced.isSome = true ∧ user.fabric.peerUsed = false ∧
    ({ user.fabric with peerUsed := true } : Fabric).peerUsed = true ∧ user.fenceCount 3 = 0 ∧ (s ⟨.uncached, some 3⟩).fenceCount 3 ≠ 0 ∧
    user.fwd (4 * 2048) = 4 * 2048 ∧ poisonedAt user.poison (4 * 2048) 8 = false ∧ poisonedAt [(256, (0 : BitVec 2))] (4 * 2048) 8 = true ∧
    reqDev (.peerRead 3 8 16) = some 3 ∧
    ((look [] [(3, [(9, 8192, PeerMsg.refused 7)])] 3).find? fun e => e.1 == 9) = some (9, 8192, .refused 7) ∧
    (let m (dst : DWord) : State := { user with memctl := { user.memctl with migSt := .forwarding, migOld := 0x2000, migNew := dst } }
     (m 0x4000).fwd (4 * 2048) = 8 * 2048 ∧ (m 0x4000).fwd (8 * 2048) = 8 * 2048 ∧ devOf ((m (2 ^ 45)).fwd (4 * 2048)) ≠ user.devnum) ∧
    ({ user with fatal := true, tape := [.issue ⟨0, .sl⟩] } : State).fatal = true ∧
    user.fatal = false ∧ (look 0 [(2, 4095)] 2 + 1) % 4096 = 0 ∧ (look 0 user.fabric.retries 2 + 1) % 4096 ≠ 0 ∧ user.fabric.timeMaster = false := by
  decide +kernel

def packet (turns : BitVec 24) : Packet :=
  { id := 0, kind := .load, src := 0, dst := 5, unit := .own, turns := turns, port := 1, hops := 0, age := 0, seq := 0 }
def net (f : Router → Router) : State := user.modRouter 0 f

/-- PacketsMove and LinksAndRoutes: a packet at its last router, on its way, and misrouted; a port whose link is up, retired and down;
a packet that waits at an input; a router asleep; a route with two global hops and one with three; a packet that came back. -/
theorem witness_network :
    stepPort 0 ((packet 0).turns.toNat % 16) 1 = some 1 ∧ stepPort 0 3 1 = some 6 ∧ stepPort 0 8 1 = none ∧
    (user.router 0).awake = true ∧ (user.router 0).link 6 = 0 ∧ ((net fun x => x.setLink 6 3).router 0).link 6 = 3 ∧
    2 ≤ ((net fun x => x.setLink 6 2).router 0).link 6 ∧ user.unitRetired (portUnit 0 1) = false ∧
    (let s := net fun x => { x with inq := [(3, [packet 0])], outs := [(1, { OutPort.init with promo := true })] }
     s.cands 0 1 = [⟨3, packet 0⟩] ∧
     (look [] ((net fun x => { x with wire := [(6, [⟨3, packet 0, packet 0⟩])] }).router 0).wire 6).head?.map (·.p) = some (packet 0) ∧
     leavesAt .load 0 = true ∧ leavesAt .dispatcherCommand 0 = false ∧ (look Iface.init user.ifaces 0).holds (packet 0) = false ∧
     ({ Iface.init with waiting := [packet 0] } : Iface).holds (packet 0) = true ∧ (look OutPort.init (s.router 0).outs 1).promo = true ∧ look [] (s.router 0).inq (0 * 12 + 3) ≠ []) ∧
    (user.router 0).inq = [] ∧ ((net fun x => { x with pgen := true }).router 0).pgen = true ∧ (user.router 0).pgen = false ∧
    ((net fun x => { x with awake := false }).router 0).awake = false ∧
    globalHops ((0x000098 : Word).toNat % 2 ^ 24) ≤ 2 ∧ 2 < globalHops ((0x000998 : Word).toNat % 2 ^ 24) ∧
    ([packet 0].find? fun p => ([0] : List Nat).contains p.id) = some (packet 0) := by decide +kernel

def request (k : IoKind) : IoReq := { port := 0, rid := 0x100, pasid := none, addr := 0x2000, kind := k, ecrcBad := false, poisoned := false }

/-- EndpointRequests, EndpointsReachDram, InterruptsAndRootPorts: a port that is up and one that is not; the device table off; an interrupt within the
remap table and beyond it; a requester refused lately. -/
theorem witness_endpoints :
    let up : State := { user with io := { user.io with portUp := [(0, true)] } }
    user.portUp 0 = false ∧ up.portUp 0 = true ∧ isMsi (request (.read 4)) = none ∧ (request (.read 4)).kind ≠ .ats ∧
    user.io.en = false ∧ (up.ioDev 0x100).1.toOption.isSome = false ∧
    up.ecrcCheck 0 = false ∧
    (let on : State := memAt { up with io := { up.io with en := true, iodtb := 0 } } (32 * 0x100) 32 (1 + 2 ^ 32)
     ((on.ioDev 0x100).1.toOption.map fun d => (d.s1, d.s2)) = some (false, false) ∧
     ((on.ioDev 0x100).1.toOption.map fun d => (on.ioPlaces (request (.read 4)) d (ioAcc (.read 4)) (ioParts 0x2000 (ioLen (.read 4)))).1.toOption.isSome) =
      some true ∧
     let d := ofBytes ((List.range 32).map fun i => on.held (0x2000 + i))
     (dField d 0 4).testBit 0 = true ∧ (dField d 0 4).testBit 1 = false ∧ (dField d 0 4).testBit 2 = false ∧
     bitsN (dField d 0 4) 31 12 < dField d 4 4 % 2 ^ 21 ∧ on.localAddr (bitsN on.io.iodtb.toNat 55 21 * 2 ^ 21 + 32 * 0x100) = 0x2000 ∧
     on.dramAt 0x2000 32 ∧ on.linked (rootUnit 0) 0x2000 32 ∧ on.parked = [] ∧ on.io.kept = []) ∧
    user.fabric.uirtn.toNat ≤ (5 : Word).toNat % 65536 ∧ (5 : Word).toNat % 65536 < ({ user.fabric with uirtn := 6 } : Fabric).uirtn.toNat ∧
    (7 % 4 = 3) ∧ look false up.io.portUp 0 = true ∧ user.io.hasPort 0 = true ∧ user.io.hasPort 63 = false := by
  unfold State.dramAt State.linked; decide +kernel

/-- QueuePairs: a count that announces nothing and one that announces a descriptor, which begins; a valid ordered context. -/
theorem witness_queue_pairs :
    let s := memAt (memAt { user with ue := { user.ue with qctxb := [(0, 0xA000)] } } 0xA000 64
      (0xB000 + 0xC000 * 2 ^ 64 + (2 ^ 31 + 2 ^ 16) * 2 ^ 192 + 2 ^ 24 * 2 ^ 224)) 0xB000 64 1
    (s.ueQp 0 0).err = false ∧ (s.ueCtx 0 0).1.valid = true ∧ (s.ueCtx 0 0).1.ordered = true ∧
    (1 : Word) = BitVec.ofNat 32 ((s.ueQp 0 0).done + 1) ∧ (s.ueQp 0 0).pending = [] ∧ (s.ueStart 0 0 0).1.st = 0 ∧
    (s.ueStart 0 0 0).2.ueQp 0 0 = s.ueQp 0 0 ∧
    (let t := s.modQp 0 0 fun x => { x with pending := [⟨0, 0, none⟩], done := 1, count := 1 }
     ((t.ueCtx 0 0).2.ueQp 0 0).pending = ⟨0, 0, none⟩ :: [] ∧ (1 : Word) ≠ 0) := by decide +kernel

/-! #### Boot, election, Surveyor, registers -/

def stage : FlashStage := { load := 0, entryOff := 0, ldr := true, digest := 0, image := [] }
def claim : Claim := { identity := 6, epoch := 5, heartbeat := false, time := 0, meas := 0, key := [], sig := [] }
def die (f : BootDie → BootDie) : State := user.modBoot 0 f

/-- BootActions, Claims, DeliveriesAndHeartbeats: lanes that are halted and not; the lock late; a die with
a leader, with none, with a claim of its own that has stood long enough and not; stages to deliver; a heartbeat due and lapsed. -/
theorem witness_boot :
    (user.core 1).sl.halt = true ∧ (user.core 1).sl.exitHalt = false ∧ (user.core 0).sl.halt = false ∧ user.timesetOpen = true ∧
    user.time < 1 ∧ 2 ^ 30 ≤ ({ user with time := 0x40000000 } : State).time.toNat ∧ user.memctl.lock = false ∧
    (user.bootDie 0).halted = false ∧ (user.bootDie 0).bootst.toNat % 256 = 0 ∧
    user.fabric.lost.contains 1 = false ∧ ({ user.fabric with lost := [1] } : Fabric).lost.contains 1 = true ∧
    leaderV (user.bootDie 0).leader = false ∧ leaderV (leaderWord 5 3) = true ∧ leaderEpoch (leaderWord 5 3) = 5 ∧ leaderId (leaderWord 5 3) = 3 ∧
    settled? (leaderWord 5 3) = false ∧ leaderId (leaderWord 5 3) / 2 ≠ user.devnum ∧ leaderId (leaderWord 5 0) = user.devnum * 2 + 0 ∧
    2 ^ 20 ≤ (({ user with time := 0x100000 } : State).time - (0 : DWord)).toNat ∧
    ((die fun b => { b with stages := [stage] }).bootDie 0).stages[0]? = some stage ∧
    (user.bootDie 0).prog ≤ 0 ∧ (0 : Nat) < ({ user.bootDie 0 with prog := 1 } : BootDie).prog ∧ (user.bootDie 0).knows claim = false ∧
    ((die fun b => { b with domain := [⟨3, sha3 [], 0⟩] }).bootDie 0).knows claim = true ∧ claim.identity.toNat ≠ user.devnum * 2 + 0 ∧ (user.bootDie 0).stages[0]? = none ∧
    (let s := die fun b => { b with leads := true, sent := [(2, 1)], hbPeriod := 10, tries := [(2, 2)] }
     (s.bootDie 0).leads = true ∧ (s.bootDie 0).givenUp.contains 2 = false ∧ find (s.bootDie 0).sent 2 = some 1 ∧
     3 ≤ look 0 (s.bootDie 0).tries 2 + 1 ∧ look 0 (s.bootDie 0).tries 4 + 1 < 3 ∧ ({ s with time := 10 } : State).heartbeatDue 0 = true ∧
     s.heartbeatDue 0 = false) ∧
    (let s := die fun b => { b with leader := leaderWord 5 3, hbPeriod := 10 }
     ({ s with time := 40 } : State).heartbeatLapsed 0 = true ∧ s.heartbeatLapsed 0 = false) := by decide +kernel

/-- SurveyorEvents, RegisterWrites: a plan within the bounds of the rules, warnings, offsets of registers. -/
theorem witness_surveyor :
    user.survey.en = true ∧ planOk ((List.replicate 64 0) ++ (List.replicate 96 100)) = true ∧ planOk [] = false ∧
    (user.freeSlot 3).isSome = true ∧ ((0 : DWord) - 0).toNat < 2 ^ 30 ∧ 2 ^ 30 ≤ ((0x40000000 : DWord) - 0).toNat ∧
    0x10020128 % 4 = 0 ∧ 0x10020128 / 8 ≠ 0x101A0040 / 8 ∧ ((3 ≠ 4 ∧ 3 ≠ 8) ∨ 0 % 3 ≠ 0) := by decide +kernel

/-! #### Values, runs and units -/

/-- FloatResults to SpecialReference: finite operands, zeros, infinities, NaNs; a magnitude beyond the greatest value; an exact
case and none of the special functions, near 1 and far. -/
theorem witness_float_values :
    let rd (b : Nat) := Sys2Proof.Machine.fp32.rd false b
    rd 0x3FC00000 = .fin false 0xC00000 (-23) ∧ rd 0xC0800000 = .fin true 0x800000 (-21) ∧ rd 0 = .fin false 0 (-149) ∧ rd 0x7F800000 = .inf false ∧
    rd 0xFF800000 = .inf true ∧ rd 0x7FC00000 = .nan false ∧ rd 0x7F800001 = .nan true ∧ Sys2Proof.Machine.fp32.rd true 1 = .fin false 0 0 ∧
    (let k := quantize .rne false 1 200 false (200 - 23)
     cmpFin (Sys2Proof.Machine.fp32.value Sys2Proof.Machine.fp32.maxBits) (.fin false k.1 (200 - 23)) < 0) ∧
    cvtFloat .f32 = some Sys2Proof.Machine.fp32 ∧ cvtFloat .e4m3 = some Sys2Proof.Machine.e4m3 ∧ cvtInt .s8 = some (8, true) ∧
    rd 0x40000000 = .fin false (2 ^ 23) (-22) ∧
    cmpFin (.fin false (2 ^ 23) (-22 + -1)) (.fin false 1 0) ≤ 0 ∧ cmpFin (.fin false 1 0) (.fin false (2 ^ 23) (-22 + -1 + 1)) < 0 ∧
    Sys2Proof.Machine.fp32.value (sfuElem .rcp Sys2Proof.Machine.fp32 ⟨.rne, false, false⟩ 0x40000000).1 = .fin false (2 ^ 23) (-24) ∧
    sfuExactCase .sin false 0xC00000 (-23) = none ∧ sfuExactCase .lg2 false 0xC00000 (-23) = none ∧
    ((256 * piFix : Nat) < fixAt 100 false 0xC00000 (min 10 30)) ∧ cmpFin (.fin false 1 0) (.fin false 1 (-12)) > 0 ∧
    (cmpFin (.fin false 3 0) (.fin (decide ((3 : Int) < 0)) (3 : Int).natAbs 0) = 0) ∧ cmpFin (.fin false 1 (-20)) (.fin false 1 (-12)) ≤ 0 := by
  decide +kernel

/-- JoinCompletes and JoinTimesOut: one record, complete and not; its deadline passed and to come. -/
theorem witness_join_done :
    let r : JoinRec := { mask := 3, len := 8, deadline := some 5 }
    let w (act : Mask) : Warp :=
      { (warp false).onLanes act fun _ y => { y with st := .waiting, wait := .join 1, pc := 0x800 } with joins := [(0x800, r)] }
    ((w 1).joins.map (·.1)).Nodup ∧ find (w 1).joins 0x800 = some r ∧ (w 1).joinDone 0x800 r = false ∧ (w 3).joinDone 0x800 r = true ∧
    (w 3).waitsAt 0x800 1 = true ∧ (5 : DWord) < ({ user with time := 6 } : State).time := by decide +kernel

/-- BlockForms, PackedBlocks, UnpackedBlocks: a block with a NaN among E2M1 elements, and one of finite numbers; a NaN scale and a number. -/
theorem witness_blocks :
    let cx (x : Word) : RdCx := (setWarp user fun w => w.onLanes 0xF fun _ y => { y with v := [(2, ⟨x, []⟩)] }).rdCx 0 .none
    let o (b : BitVec 9) : BlkForm := { oBlk with blk := b }
    (cx 0).perm = .none ∧ (blkFmt (o 2)).width = 4 ∧ Sys2Proof.Machine.fp32.rd false ((cx 0x7FC00000).srcA 0 (.v 2) .f32) = .nan false ∧
    Sys2Proof.Machine.fp32.rd false ((cx 0x3F800000).srcA 0 (.v 2) .f32) = .fin false 0x800000 (-23) ∧ (o 0x12).blk.getLsbD 4 = true ∧
    (cx 0x200).fetchN 0 (0 + 32 * 4) 0 (.v 2) .i32 1 % 2 ^ 10 = 0x200 ∧ (cx 5).fetchN 0 (0 + 32 * 4) 0 (.v 2) .i32 1 % 2 ^ 10 = 5 ∧
    (blkFmt (o 2)).value 5 = .fin false 3 0 ∧ (blkFmt (o 4)).value 0x7F = .nan false ∧ (blkFmt (o 3)).value 0x7C = .inf false := by decide +kernel

def win (soff wva : Nat) (es : Table WinEntry) : Window :=
  { task := 1, asid := 0, ptroot := 0, soff := soff, wva := wva, len := 4096, ctl := 0, sws := 0, sww := 0, grp := none, entries := es }
/-- A window of task 1 whose entry 2 keeps line 0x82 with its byte 5 written. -/
def dirtyWin : Window := win 0 0x4000 [(2, { line := 0x82, dirty := [(5, true)], cwts := 0, crts := 9, lcl := 0, full := [] })]
def windowed (xs : List Window) : State := setCore user fun c => { c with windows := xs }
def fenced : State := { windowed [dirtyWin] with fabric := { user.fabric with cad := [(8, ⟨.uncached, some 3⟩)] } }

/-- WindowInstructions, WindowsGoHome, Releases: operands of a window and of none; a window overlapped, sixteen and one window of
the task; dirty bytes of a parcel that is fenced; the line of a window in DRAM. -/
theorem witness_windows :
    let r (a b c : Nat) := (user.core 0).windowFor user.warp a b c
    (match r 0x4001 0 0x1000 with | .error k => decide (k = 1) | .ok _ => false) = true ∧
    (match r 0x4000 0 0x1000 with | .ok x => decide (x = win 0 0x4000 []) | .error _ => false) = true ∧
    dirtyWin.overlaps (win 0 0x4000 []) = true ∧ (windowed [dirtyWin]).backCut 0 [dirtyWin] = false ∧
    16 ≤ ((List.replicate 16 (win 0x1000 0x9000 [])).filter fun y => y.task == 1).length -
      ((List.replicate 16 (win 0x1000 0x9000 [])).filter fun y => y.overlaps (win 0 0x4000 [])).length ∧
    (user.core 0).window 1 0 = none ∧ ((windowed [dirtyWin]).core 0).window 1 0 = some dirtyWin ∧
    user.cur.who.ctx ≠ .sl ∧ user.cur.front = .user ∧ (handler.core 0).tvec.getLsbD 0 = true ∧
    dirtyWin.serves user.warp = true ∧ (windowed [dirtyWin]).dirtyLines [dirtyWin] = [0x82] ∧
    (windowed [dirtyWin]).barred (0x82 * 128) 128 = none ∧ fenced.barred (0x82 * 128) 128 = some 7 ∧
    ((windowed [dirtyWin]).release false .dev true 0xF).1 = none ∧ (user.release true .group true 0xF).1 = none ∧
    ((windowed [dirtyWin]).core 0).windows = [dirtyWin] ∧ (dirtyWin.entries.map (·.1)).Pairwise (· < ·) ∧
    (dirtyWin.entries.map fun e => e.2.line).Nodup ∧ user.dramAt (0x82 * 128) 128 ∧ user.linked 0 (0x82 * 128) 128 ∧
    Executes (.pref .l1 { oH with d := 0 }) user ∧ user.dramAt 0x2000 1 ∧ user.linked 0 0x2000 1 ∧ (user.core 0).waymask ≠ 0xFFF := by
  unfold Executes State.dramAt State.linked; decide +kernel

/-- WaitOutcomes: a key on which the warp has an entry, one on which it has none, and a die whose entries are all taken. -/
theorem witness_waits :
    let e (asid : Word) : GazEntry :=
      { die := 0, asid := asid, va := 0x2000, pa := 0x2000, owner := .warp ⟨0, .slot 0⟩ 1 0 0, lanes := [⟨0, 1, 4⟩] }
    let mine := user.gazMine user.warp.asid 0x2000
    [e 0].any mine = true ∧ [e 7].any mine = false ∧ ([e 7].filter fun x => x.die == 0).length < 32768 ∧
    (List.replicate 32768 (e 7)).any mine = false ∧ 32768 ≤ ((List.replicate 32768 (e 7)).filter fun x => x.die == 0).length := by
  refine ⟨by decide, by decide, by decide, ?_, ?_⟩
  · rw [List.any_eq_false]; intro x h; rw [List.eq_of_mem_replicate h]; decide
  · rw [List.filter_replicate, if_pos (by decide)]; exact Nat.le_of_eq List.length_replicate.symm

/-- RegionArmed, TokenAcquire, RegionTokens: a descriptor past the last line; a region that another source holds, one of its own,
and sixty-four; a release by the holder, by another, with FIN, and the return of tokens; requests sent before a MACQ and after it. -/
theorem witness_tokens :
    let many : Slice := { Slice.init with regions := (List.range 64).map fun i => (64 + 2 * i, { region with holder := none }) }
    let q (src : Source) (op : SliceOp) : State := user.modSlice 0 fun x => { x with inq := [{ src := src, core := 0, op := op, no := 3 }] }
    let hd : Desc128 := 0x10000000000000000000040000000
    let free : State := modReg fun r => { r with holder := none, waiting := [{ waiting with upTo := 4 }] }
    16384 < ({ acc with line := 16384 } : AccD).line + acc.lines ∧ ¬ 16384 < acc.line + acc.lines ∧ region.holder ≠ some ⟨2, 0, none⟩ ∧
    region.holder = some ⟨1, 0, none⟩ ∧ 64 ≤ (many.regions.filter fun e => !(decide (e.1 < 2) && decide (0 < e.1 + e.2.lines))).length ∧
    ¬ (65535 < (0 : Nat)) ∧ rising (user.slice 0).regions = true ∧
    (∀ fin ∈ [false, true], ∀ src ∈ [(⟨1, 0, none⟩ : Source), ⟨1, 1, none⟩],
      ((firsts ((q src (.release hd 2 fin 0)).slice 0).inq []).filter isRelease)[0]? =
        some { src := src, core := 0, op := .release hd 2 fin 0, no := 3 }) ∧
    ((firsts ((q ⟨1, 0, none⟩ (.giveUp 0)).slice 0).inq []).filter isRelease)[0]? = some { src := ⟨1, 0, none⟩, core := 0, op := .giveUp 0, no := 3 } ∧
    find (user.slice 0).regions (accD hd).line = some region ∧ region.key = (accD hd).key ∧
    (free.slice 0).grantable 0 { region with holder := none, waiting := [{ waiting with upTo := 4 }] } = some { waiting with upTo := 4 } ∧
    ((q ⟨1, 0, none⟩ (.release hd 0 false 0)).slice 0).grantable 0 { region with holder := none, waiting := [{ waiting with upTo := 4 }] } = none := by
  decide +kernel

/-- CopyBytes: a COPY whose source does not overlap its destination. -/
theorem witness_copy :
    let r : Run := { user.newRun (.copy oCopy) 0x4000 0x3000 0x40000 with ptroot := 0 }
    let p := copyPlan oCopy r
    p.total = 64 ∧ p.overlaps = false ∧ r.bar = none ∧ user.dramAt 0x4000 64 ∧ user.linked 0 0x4000 64 ∧
    (∀ i < 64, user.dramAt (p.src (0 + i)) 1 ∧ user.linked 0 (p.src (0 + i)) 1) ∧ find ((setCore user fun c => { c with runs := [(9, r)] }).core 0).runs 9 = some r := by
  unfold State.dramAt State.linked; decide +kernel

/-- McastBytes: a receiver on another core behind its window. -/
theorem witness_mcast :
    let m : Run := { user.newRun (.mcast oMcast) 0x4000 0x3000 64 with next := List.replicate 16 0, recv := [some 1] }
    let s : State := (setCore user fun c => { c with runs := [(9, m)] }).modCore 1 fun c => { c with windows := [win 0 0x4000 []] }
    find (s.core 0).runs 9 = some m ∧ m.recv.getD 0 none = some 1 ∧ (1 : Nat) ≠ 0 ∧ m.copies = false ∧ (s.core 1).windows = [win 0 0x4000 []] ∧
    (win 0 0x4000 []).wva % 128 = 0 ∧ (∀ i < 64, (win 0 0x4000 []).hasVa (0x4000 + i) = true) ∧ user.linked 1 0x4000 64 := by
  unfold State.linked; decide +kernel

/-- McastBytes: one receiver still to serve, which its task does not have; none. -/
theorem witness_mcast_pick :
    let m (k : Nat) : Run := { user.newRun (.mcast oMcast) 0x4000 0x3000 64 with next := List.replicate 16 k, recv := [] }
    user.mcastPick { oMcast with cmask := 1 } (m 0) 64 = [0] ∧ (user.mcastLine 0 9 (m 0) { oMcast with cmask := 1 } 0).isSome = true ∧
    user.mcastPick { oMcast with cmask := 1 } (m 64) 64 = [] := by
  refine ⟨?_, by decide +kernel, ?_⟩ <;> unfold State.mcastPick
  · rw [show (List.range 16).filter _ = [0] from by decide +kernel]; simp [Nat.mod_one]
  · rw [show (List.range 16).filter _ = [] from by decide +kernel]; simp

/-- MloopAdvances and TagCompletes: an MLOOP on its first step; a tag that was given up. -/
theorem witness_mloop :
    (let t : State := (after (exec (.mloop oMloop) user) id).getD user
     (find (t.core 0).runs 5).any fun r =>
       !r.held && decide (r.prog ≤ oMloop.km1.toNat) && (t.core 0).runs.all (fun e => e.1 == 5) &&
       (t.slice (accD r.ai).hcore).inq.any (fun q => q.src == r.source && q.op.isMloop 5) &&
       match t.underWins 0 r.task r.wins (fun s => s.stepB 0 r oMloop) with
       | (.ok (some _), u) => decide (find (u.core 0).runs 5 = some r)
       | _ => false) ∧
    (user.core 0).tagDrop.getLsbD 5 = false ∧ ({ Core.init with tagDrop := 32 } : Core).tagDrop.getLsbD 5 = true := by
  decide +kernel

/-- Every link between routers is down. -/
def cutOff (s : State) : State := { s with routers := (List.range 64).map fun r => (r, { Router.init with linkst := 0xAAAAAA }) }

/-- LaunchRequests, LaunchAnswers, Dependences, Gates: a way to the Dispatcher and none; a descriptor that lies nowhere, one that
is out of range, one that is cut off; a dependence word that is cut off, that lies nowhere, that is read. -/
theorem witness_dispatcher :
    let cut : State := cutOff { described with mem := described.mem }
    let x : XCx := { core := 0, ptroot := 0, asid := 0, user := true }
    let at_ (s : State) : State := { s with agent := some 128, cut := false }
    let word (s : State) (t : Task) := s.attempt 128 fun s => s.depWord 3 t
    user.reaches 0 128 = true ∧ (user.release true .dev true 0xF).1 = none ∧ cut.reaches 5 128 = false ∧
    (at_ described).cut = false ∧ ((at_ cut).dispRead x 0x7F80 192).2.cut = true ∧
    (match ((at_ described).dispRead x 0x100000000000000 192).1 with | .error _ => true | .ok _ => false) = true ∧
    (described.parseTask launch 0).isNone = true ∧
    (word (cutOff (queued (entry 1))) { task with depva := 0x7F80 }).isNone = true ∧
    ((word (queued (entry 1)) { task with depva := 0x100000000000000 }).map fun x => x.1.isNone) = some true ∧
    ((word (queued (entry 1)) task).map fun x => x.1.map fun y => y.1) = some (some 0) ∧ (entry 1).dep ≠ .met := by decide +kernel

/-- SavedAndResumed: a stopping warp whose bus transfer goes on regardless. -/
theorem witness_save :
    let s := setCore (setWarp (stopped .stopping) fun w => { w with stopping := true }) fun c =>
      { c with runs := [(9, user.newRun (.mcast { oMcast with bus := true }) 0 0x3000 64)] }
    (s.warpOf ⟨0, .slot 0⟩).drained = true ∧ (s.warpOf ⟨0, .slot 0⟩).stopping = true ∧ s.saveReady ⟨0, .slot 0⟩ = false := by decide +kernel

/-- Gates: a lane alone with a capability that is read, for each service; a way to the timers and none; no capability. -/
theorem witness_gate :
    let cap (s : State) (k : Nat) := s.attempt 0 fun s => s.readCap k 0
    (only user).activeOf g7 = laneBit 0 ∧ Executes (.gate (fN 2 (.v 2) (.v 3) (.v 4))) (only (gated 0)) ∧
    ((cap user 0).map fun x => x.1.isNone) = some true ∧ cap (cutOff (gated 0)) 0 = none ∧
    (∀ k ∈ [0, 1, 2, 4], (cap (gated k) k).any fun x => (x.1.any fun c => c.svc == k) &&
      match x.1 with | some c => (x.2.gateService 0 c 5).1.toOption.isSome | none => false) ∧
    (gated 0).reaches 0 128 = true ∧ (cutOff user).reaches 5 128 = false ∧ (user.releaseBy 0 user.warp).1 = none := by
  unfold Executes; decide +kernel

/-- FaultEntries: a lane that waits for a fault in its slot; a run. -/
theorem witness_fault_lanes :
    let s := setWarp user fun w => w.onLanes 1 fun _ y => { y with st := .waiting, wait := .faultq 0 }
    let r : Run := { user.newRun (.copy oCopy) 0x4000 0x3000 0x40000 with held := true }
    s.seatOf ⟨0, .slot 0⟩ 1 0 = some ⟨0, .slot 0⟩ ∧ ((s.warpOf ⟨0, .slot 0⟩).lane 0).wait.isFault = true ∧ (handler.core 0).tvec.getLsbD 0 = true ∧
    (s.core 0).tvec.getLsbD 0 = false ∧ find ((setCore user fun c => { c with runs := [(9, r)] }).core 0).runs 9 = some r := by decide +kernel

/-- CacheLines, Orphans: a dirty line that its slice holds, and a window; a parcel of a peer with one modified line, a rescue area
that is reached and one that is fenced. -/
theorem witness_cache_effects :
    let x : L2Line := { data := [(0, 5)], dirty := true, wts := 1, rts := 2 }
    let s : State := user.modSlice (user.homeSlice 0x40) fun y => { y with lines := [(0x40, x)] }
    let pl := 2 ^ 38
    let o : State := { (user.modSlice (user.homeSlice pl) fun y => { y with lines := [(pl, x)] }) with
      fabric := { user.fabric with held := [(pl / 16, .orphaned)] } }
    let f : State := { o with fabric := { o.fabric with cad := [(4, ⟨.uncached, some 3⟩)] } }
    s.holders 0x40 = [] ∧ devOf (0x40 * 128) = s.devnum ∧ s.trainedAt (0x40 * 128) = true ∧ s.fwd 0x2000 / 128 = 0x40 ∧
    find (s.slice (s.homeSlice 0x40)).lines 0x40 = some x ∧ x.dirty = true ∧
    (windowed [dirtyWin]).holders 0x82 = [(0, dirtyWin, 2)] ∧
    look .none o.fabric.held (pl * 128 / 2048) = .orphaned ∧ devOf (pl * 128) ≠ o.devnum ∧ o.modified (pl * 128 / 2048) = [pl * 128 / 2048 * 16 + 0] ∧
    o.barred 0x2000 2048 = none ∧ f.barred 0x2000 2048 = some 7 ∧ o.dramAt 0x2000 2048 ∧ user.modified 4 = [] := by
  unfold State.dramAt; decide +kernel

theorem die_lt (p q : Prop) [Decidable p] [Decidable q] (n : Nat) : (if p then (if q then 1 else 0) else n % 2) < 2 := by
  split
  · split <;> decide
  · exact Nat.mod_lt _ (by decide)

theorem slice_lt (d x : Nat) (h : d < 2) (g : x < 2 ^ 6) : 64 * d + x < 128 := by omega
theorem low_lt (n : Nat) : n % 64 < 2 ^ 6 := Nat.mod_lt n (by decide)

/-- The home slice of a line where HOMEMAP names none. -/
theorem homeSlice_lt (s : State) (hm : s.homemap = []) (a : Nat) : s.homeSlice a < 128 := by
  unfold State.homeSlice
  simp only [hm, look]
  exact slice_lt _ _ (die_lt _ _ _) (Nat.xor_lt_two_pow (Nat.xor_lt_two_pow (low_lt _) (low_lt _)) (low_lt _))

/-- Ticks: every UALink port up and every way from the units open; a device with a fatal record. -/
theorem witness_open :
    let s : State := { user with fabric := { user.fabric with portUp := (List.range 16).map fun p => (p, true) } }
    (∀ p < 16, s.linkUp p = true) ∧ (∀ a, s.reaches 128 (128 + s.homeSlice a) = true ∧ s.reaches 192 (128 + s.homeSlice a) = true) ∧
    s.fatal = false ∧ ({ s with fatal := true } : State).fatal = true := by
  intro s
  have h : ∀ h < 128, s.reaches 128 (128 + h) = true ∧ s.reaches 192 (128 + h) = true := by decide +kernel
  exact ⟨by decide +kernel, fun a => h _ (homeSlice_lt s rfl a), rfl, rfl⟩

/-- RepeatedActivations: the fourth activation of a row within 1,024 ticks; a promotion that is due, and none. -/
theorem witness_fourth :
    let pa := 1024 * 60000
    let b := bankRow (localOf pa)
    let s : State := { user with time := 9, memctl := { user.memctl with due := [60000], acts := [(b.bankNo, [⟨b.row, [3, 2, 1]⟩])] } }
    localOf pa < 0x00B400000000 ∧ s.memctl.slotFor b.bankNo b.row = none ∧ look 0 s.memctl.openRow b.bankNo ≠ b.row + 1 ∧
    (look [] s.memctl.acts b.bankNo).find? (fun a => a.row == b.row) = some ⟨b.row, [3, 2, 1]⟩ ∧ s.time.toNat - (1 : DWord).toNat < 1024 ∧
    60000 ∈ s.memctl.due ∧ 60000 ∉ user.memctl.due ∧ (s.freeSlot b.bankNo).isSome = true ∧
    ((crest .none false false 0 none).dirty = false ∧ (crest .none true true 0 none).locked = false ∧ (crest .copyBack true false 0 none).locked = true) := by
  decide +kernel

/-- MemoryControl: pages of this device's DRAM, a copy under way, slices that hold no line, a slice to move. -/
theorem witness_pages :
    let s : State := { user with memctl := { user.memctl with migSt := .copying, migOld := 0x2000, migNew := 0x4000, hmst := 2 } }
    s.memctl.migSt = .copying ∧ s.place s.memctl.migOld.toNat = .dram ∧ s.place s.memctl.migNew.toNat = .dram ∧
    s.fabric.lost.contains (devOf s.memctl.migNew.toNat) = false ∧ user.memctl.trained = 0xFFF ∧ (∀ h, (user.slice h).lines = []) ∧
    rising user.mem = true ∧ rising user.poison = true ∧ 4096 = 128 * 32 ∧ localOf 0x4000 + 4096 ≤ 2 ^ 45 ∧ 0x2000 + 4096 ≤ 0x4000 ∧
    user.fabric.cad = [] ∧ 5 / 64 = 6 / 64 := by
  refine ⟨rfl, by decide +kernel, by decide +kernel, by decide +kernel, rfl, fun h => ?_, rfl, rfl, rfl, by decide, by decide, rfl, rfl⟩
  show (look Slice.init [(0, { Slice.init with regions := [(0, region)] })] h).lines = []
  simp only [look]
  split <;> rfl

/-- DevicesLostAndJoined, DeviceEvents: what waits for a port for longer than CADTMO, accesses that do, and neither; the time master. -/
theorem witness_late :
    let w : Waiting := { dev := 3, pa := 3 * 2 ^ 45, tag := some 1, msg := .read 8, since := 0, told := false }
    let s (f : Fabric → Fabric) : State := { user with time := 0x1000001, fabric := f user.fabric }
    user.fabric.cadtmo.toNat < ((s id).time - w.since).toNat ∧ w.told = false ∧ w.msg.isRequest = true ∧ PeerMsg.isRecall (.recall true) = true ∧
    (s fun f => { f with stuck := [w] }).fabric.stuck = [w] ∧ find (s fun f => { f with stuck := [w] }).fabric.asked 3 = none ∧
    find (s fun f => { f with asked := [(3, ⟨0, false⟩)] }).fabric.asked 3 = some ⟨0, false⟩ ∧ user.fabric.stuck = [] ∧
    (s fun f => { f with timeMaster := true }).fabric.timeMaster = true ∧ user.fabric.timeMaster = false ∧ user.ifaces = [] := by decide +kernel

/-- PacketsMove, LinksAndRoutes: two candidates of one output, the older and the one whose port's turn it is; a full channel and one
with room; a head that waits for go. -/
theorem witness_grants :
    let p (id age : Nat) : Packet := { packet 0 with id := id, age := age }
    let s (o : OutPort) : State := net fun x => { x with inq := [(3, [p 1 2]), (12, [p 2 5])], outs := [(1, o)] }
    let q := packet 0x000001
    (s OutPort.init).cands 0 1 = [⟨3, p 1 2⟩, ⟨12, p 2 5⟩] ∧ (p 1 2).age < (p 2 5).age ∧ (3 / 12 ≠ 12 / 12) ∧
    OutPort.init.left = 0 ∧ 3 / 12 = (OutPort.init.ptr + 1 + 0) % 12 ∧ ({ OutPort.init with promo := true } : OutPort).promo = true ∧
    ({ OutPort.init with ptr := 1, left := 2 } : OutPort).ptr = 12 / 12 ∧
    stepPort 0 (q.turns.toNat % 16) q.port.toNat = some 4 ∧ user.linkGo 0 4 q = true ∧
    (user.modRouter (neighbour 0 4).1 fun x =>
      { x with inq := [((neighbour 0 4).2 * 12 + clsRank q.cls * 3, List.replicate 4 q)] }).linkGo 0 4 q = false := by decide +kernel

/-- QueuePairs: an Ethernet port that is up and one that is down. -/
theorem witness_ue_ports :
    look false user.ue.portUp 0 = false ∧ look false ({ user.ue with portUp := [(0, true)] } : Ue).portUp 0 = true := by decide

/-- StepKeepsMemory holds of states that reset does not reach. -/
theorem witness_memory : canon (0 : Byte) (memAt user 0x1000 8 0x1234).mem = true := by decide

end Sys2Proof.Tests
end

section
/-! PROOFS. The registers of a warp: what a result leaves in a register file, when its write settles, predicates and
moves, and descriptors (R50 to R57, R103, R107, R112, R113, R130, R131, R139 to R141). -/

namespace Sys2Proof.Machine

/-! ### A run of consecutive registers -/

theorem ite_eq_of_iff {α : Type} {p q : Prop} [Decidable p] [Decidable q] (x y : α) (h : p ↔ q) :
    (if p then x else y) = if q then x else y :=
  ite_congr (propext h) (fun _ => rfl) fun _ => rfl

/-- n consecutive registers of a register file from i upward receive the words of x, the lowest first. -/
def writeWords (f : Front) (i n x : Nat) (t : Table VReg) : Table VReg :=
  (List.range n).foldl (fun t j => upd zeroV t (i + j) (Cell.write f (BitVec.ofNat 32 (x / 2 ^ (32 * j))))) t

/-- Each of the n registers receives its word once; no other register changes. -/
theorem look_writeWords (f : Front) (i n x : Nat) (t : Table VReg) (r : Nat) :
    look zeroV (writeWords f i n x t) r = if i ≤ r ∧ r < i + n
      then Cell.write f (BitVec.ofNat 32 (x / 2 ^ (32 * (r - i)))) (look zeroV t r) else look zeroV t r := by
  unfold writeWords
  induction n generalizing r with
  | zero => exact (if_neg (by omega)).symm
  | succ n ih =>
    rw [List.range_succ, List.foldl_append, List.foldl_cons, List.foldl_nil, look_upd, ih, ih]
    by_cases hr : r = i + n
    · subst hr
      rw [if_pos rfl, if_neg (by omega), if_pos (by omega), Nat.add_sub_cancel_left]
    · rw [if_neg hr]
      exact ite_eq_of_iff _ _ (by omega)

/-- A result of n registers changes the vector registers of a lane and nothing else of it. -/
theorem Lane.wVs_eq (f : Front) (i n x : Nat) (y : Lane) : y.wVs f i n x = { y with v := writeWords f i n x y.v } := by
  unfold Lane.wVs writeWords
  generalize List.range n = js
  induction js generalizing y with
  | nil => rfl
  | cons j js ih => exact ih _

/-- A result in the uniform file changes the uniform registers and nothing else of the warp. -/
theorem Warp.wSs_eq (f : Front) (i n x : Nat) (w : Warp) : w.wSs f i n x = { w with s := writeWords f i n x w.s } := by
  unfold Warp.wSs writeWords
  generalize List.range n = js
  induction js generalizing w with
  | nil => rfl
  | cons j js ih => exact ih _

/-! ### Where a result stands (R103, R107, R130, R131) -/

theorem iWrite_lanes_lane (d : BitVec 8) (n : Nat) (v : RdCx → Nat → Nat) (x : Issue) (w : Warp) (l : Nat) :
    (iWrite false d n v x w).lane l =
      if x.act.getLsbD l then (w.lane l).wVs x.cx.front d.toNat n (v x.cx l) else w.lane l :=
  Warp.lane_onLanes w x.act (fun l y => y.wVs x.cx.front d.toNat n (v x.cx l)) l

theorem resultRegisters : ResultRegisters := by
  intro d n v x w l r y
  have hy : y = _ := iWrite_lanes_lane d n v x w l
  refine ⟨?_, ?_, Warp.onLanes_rest w x.act _⟩
  · rw [hy]
    by_cases hl : x.act.getLsbD l = true
    · rw [if_pos hl, Lane.wVs_eq, look_writeWords]
      exact ite_eq_of_iff _ _ (by simp [mem_lanesOf, hl])
    · rw [if_neg hl, if_neg fun h => hl (mem_lanesOf.mp h.1)]
  · rw [hy]
    split
    · rw [Lane.wVs_eq]
    · rfl

theorem uniformResult : UniformResult := by
  intro d n v x w r t
  have ht : t = if x.act = 0 then w else w.wSs x.cx.front d.toNat n (v x.cx (lowLane x.act)) := rfl
  by_cases ha : x.act = 0
  · rw [if_pos ha] at ht
    rw [ht, if_neg fun h => h.1 ha]
    exact ⟨rfl, rfl⟩
  · rw [if_neg ha] at ht
    rw [ht, Warp.wSs_eq, look_writeWords]
    exact ⟨rfl, ite_eq_of_iff _ _ (iff_and_self.mpr fun _ => ha)⟩

/-! ### Settling (R112, R113) -/

/-- A register with no open write keeps its value. -/
theorem Cell.settle_of_closed {α : Type} {c : Cell α} (f : Front) (draw k : Nat) (h : c.opens = []) : c.settle f draw k = c := by
  simp only [Cell.settle, h, List.filter_nil, List.map_nil]

/-- A register whose one open write is the front's holds what was written. -/
theorem Cell.settle_of_single {α : Type} {c : Cell α} {f : Front} {x : α} (draw k : Nat) (h : c.opens = [(f, x)]) :
    c.settle f draw k = ⟨x, []⟩ := by
  simp [Cell.settle, h, pickFrom, Nat.mod_one]

/-- The writes of the other front stay open. -/
theorem Cell.settle_opens {α : Type} (c : Cell α) (f : Front) (draw k : Nat) :
    (c.settle f draw k).opens = c.opens.filter fun e => e.1 ≠ f := by
  unfold Cell.settle
  split
  · rename_i h
    have hno := List.filter_eq_nil_iff.mp (List.map_eq_nil_iff.mp h)
    exact (List.filter_eq_self.mpr fun e he => by simpa using hno e he).symm
  · rfl

theorem Cell.read_of_closed {α : Type} {c : Cell α} (draw k : Nat) (h : c.opens = []) : c.read draw k = c.val := by
  simp only [Cell.read, h]

theorem look_settleTab (f : Front) (draw base : Nat) (t : Table VReg) (i : Nat) :
    look zeroV (settleTab zeroV f draw base t) i = (look zeroV t i).settle f draw (base + i) :=
  look_updAll zeroV (fun k c => c.settle f draw (base + k)) (fun k => Cell.settle_of_closed f draw (base + k) rfl) t i

theorem settledWrites : SettledWrites := by
  intro f draw base k t i c hc c'
  have hc' : c' = c.settle f draw (base + i) := hc ▸ look_settleTab f draw base t i
  refine ⟨fun h => hc'.trans (Cell.settle_of_closed f draw _ h), fun x h draw' => ?_, hc' ▸ Cell.settle_opens c f draw _⟩
  rw [hc', Cell.settle_of_single draw _ h]
  exact ⟨rfl, rfl⟩

/-! ### Predicates (R53) -/

theorem Lane.wP_seven (f : Front) (x : Bool) (y : Lane) : y.wP f 7 x = y := rfl

theorem Lane.wP_of_ne {i : Nat} (f : Front) (x : Bool) (y : Lane) (h : i ≠ 7) :
    y.wP f i x = { y with p := upd zeroP y.p i (Cell.write f x) } := if_neg h

theorem predicateSeven : PredicateSeven := by
  intro f i x y cx pos l
  refine ⟨rfl, Lane.wP_seven f x y, fun h => ?_⟩
  rw [Lane.wP_of_ne f x y h]
  exact ⟨look_put_self .., fun j hj => look_put_of_ne zeroP y.p _ hj⟩

/-- Settles O10: a result is the fold of single writes over consecutive registers, and settling acts on each register of
a file by itself. -/
theorem resultsLand : Obligations.ResultsLand := ⟨resultRegisters, uniformResult, settledWrites, predicateSeven⟩

/-! ### Instructions whose effect is on the registers of the warp alone -/

/-- An instruction that changes only the issuing warp, by what does not look at its sources' kinds. -/
theorem leaves_of_onWarp {i : Instr} {g : Guard} {lit : Option Word} {perm : Perm} {f : Issue → Warp → Warp} (kinds : SrcKinds)
    (he : ∀ s, exec i s = runInstr i g lit perm kinds noDyn (onWarp f) s) (hf : ∀ x : Issue, f { x with kinds := {} } = f x) :
    Leaves i g lit perm f := fun s h =>
  endsWith_of_body h (he s) (congrArg (fun u => (⟨s.modWarp u, s.activeOf g⟩ : Done)) (hf _).symm)

/-- An instruction that makes one write for the issue, where some lane is active. -/
theorem leavesOnce_of_onceIf {i : Instr} {g : Guard} {lit : Option Word} {perm : Perm} {f : Issue → Warp → Warp} (kinds : SrcKinds)
    (he : ∀ s, exec i s = runInstr i g lit perm kinds noDyn (onceIf f) s) (hf : ∀ x : Issue, f { x with kinds := {} } = f x) :
    LeavesOnce i g lit perm f := by
  intro s h
  refine endsWith_of_body h (he s) ?_
  by_cases ha : s.activeOf g = 0
  · rw [if_pos ha, ha]
    exact if_pos ha
  · rw [if_neg ha]
    exact (if_neg ha).trans (congrArg (fun u => (⟨s.modWarp u, s.activeOf g⟩ : Done)) (hf _).symm)

/-! ### Predicate combinations, moves and descriptors (R139 to R141) -/

/-- R139: a combination of two predicates is that function of the two sources, lane by lane. -/
theorem predDoes_two {i : Instr} {o : WForm NoMod} (f : Bool → Bool → Bool) (he : ∀ s, exec i s = predInstr i o true f s) :
    PredDoes i o fun cx l => f (cx.srcA l o.a .i32 != 0) (cx.srcB l o.b .i32 != 0) :=
  leaves_of_onWarp (wSrcs o (some .i32) (some .i32) none) he fun _ => rfl

theorem predicateCombinations : PredicateCombinations := by
  intro o
  refine ⟨predDoes_two (· && ·) fun _ => rfl, predDoes_two (· || ·) fun _ => rfl, predDoes_two (· != ·) fun _ => rfl, ?_⟩
  refine leaves_of_onWarp (wSrcs o (some .i32) none none) (fun s => ?_) fun _ => rfl
  show predInstr (.pnot o) o false (fun x _ => !x) s = _
  simp only [predInstr, bne, Bool.not_not]
  rfl

theorem moves : Moves :=
  ⟨fun o => ⟨leaves_of_onWarp (wSrcs o (some .i32) none none) (fun _ => rfl) fun _ => rfl,
    leaves_of_onWarp (wSrcs o (some .i32) none none) (fun _ => rfl) fun _ => rfl,
    leaves_of_onWarp (wSrcs o (some .i32) none none) (fun _ => rfl) fun _ => rfl,
    leaves_of_onWarp {} (fun _ => rfl) fun _ => rfl,
    leaves_of_onWarp (wSrcs o (some .i32) none none) (fun _ => rfl) fun _ => rfl⟩,
  fun o => leaves_of_onWarp { a := some (o.a, .i32) } (fun _ => rfl) fun _ => rfl⟩

theorem descriptorMoves : DescriptorMoves := fun o =>
  ⟨leavesOnce_of_onceIf {} (fun _ => rfl) fun _ => rfl, leavesOnce_of_onceIf {} (fun _ => rfl) fun _ => rfl,
    leavesOnce_of_onceIf (wSrcs o (some .i32) none none) (fun _ => rfl) fun _ => rfl,
    leavesOnce_of_onceIf (wSrcs o (some .i32) none none) (fun _ => rfl) fun _ => rfl⟩

/-- Settles O12: each of these instructions runs in the frame of `runInstr` with an effect on the registers of its warp
alone, lane by lane or once for the issue. -/
theorem predicatesAndMoves : Obligations.PredicatesAndMoves := ⟨predicateCombinations, moves, descriptorMoves⟩

end Sys2Proof.Machine
end

section
/-! PROOFS. The entry of the supervisor lane into an interrupt, and the state that reset leaves (R64, R342 to R344, R362,
R376). -/

namespace Sys2Proof.Machine

/-! ### The end of an instruction's writes, lane by lane -/

theorem Lane.settle_absent (f : Front) (draw l : Nat) : Lane.absent.settle f draw l = Lane.absent := rfl

theorem Warp.lane_settle (f : Front) (draw : Nat) (w : Warp) (l : Nat) :
    (w.settle f draw).lane l = (w.lane l).settle f draw l :=
  look_updAll Lane.absent (fun l y => y.settle f draw l) (fun k => Lane.settle_absent f draw k) w.lanes l

/-! ### Interrupt entry (R343) -/

/-- The lowest bit of a word is the one that it has and below which it has none. -/
theorem lowBit_eq {x : Word} {j : Nat} (hj : j < 32) (hb : x.getLsbD j = true) (hlow : ∀ i < j, x.getLsbD i = false) :
    lowBit x = j := by
  have hfind : (List.range 32).find? (fun i => x.getLsbD i) = some j :=
    List.find?_range_eq_some.mpr ⟨hb, List.mem_range.mpr hj, fun i hi => by rw [hlow i hi]; rfl⟩
  rw [lowBit, List.headD_eq_head?_getD, List.head?_filter, hfind]
  rfl

theorem interruptDue_iff {s : State} {n : Nat} :
    s.interruptDue n = true ↔ (s.core n).sl.ih = false ∧ (s.core n).sl.started = true ∧
      s.ipend n &&& (s.core n).imask ≠ 0 ∧ ((s.core n).sl.halt = true → (s.core n).sl.exitHalt = true) ∧
      ((s.core n).sl.warp.lane 0).st = .runnable ∧ (s.core n).sl.warp.sup.hold = .none ∧
      (s.core n).sl.warp.outstanding .sup = false := by
  simp [State.interruptDue, State.interruptAdmitted, and_assoc, Decidable.imp_iff_not_or]

/-- A lane at its entry into interrupt j, with the vector slvec. -/
def Lane.interrupted (slvec : DWord) (j : Nat) (y : Lane) : Lane :=
  { y with
    tpc := settled y.addr, tcause := settled (BitVec.ofNat 32 (j * 256 + 0x40))
    pc := slvec.extractLsb' 1 63, st := .runnable, wait := .none }

/-- The supervisor lane at its entry into interrupt j: its results written, IH set and its halt over. -/
def SupLane.entered (sl : SupLane) (draw j : Nat) : SupLane :=
  let w := sl.warp.settle .sup draw
  let w := (w.setLane 0 ((w.lane 0).interrupted sl.slvec j)).setFront .sup { w.sup with parked := false }
  { sl with warp := w, ih := true, halt := false, exitHalt := false }

theorem interrupt_of_due {s : State} {n : Nat} (h : s.interruptDue n = true) :
    s.interrupt n = s.setCore n { s.core n with
      sl := (s.core n).sl.entered s.draw (lowBit (s.ipend n &&& (s.core n).imask)) } := by
  simp only [State.interrupt, h]
  rfl

theorem interrupt_of_not_due {s : State} {n : Nat} (h : s.interruptDue n = false) : s.interrupt n = s := by
  simp only [State.interrupt, h]
  rfl

theorem SupLane.entered_lane (sl : SupLane) (draw j : Nat) :
    (sl.entered draw j).warp.lane 0 = ((sl.warp.lane 0).settle .sup draw 0).interrupted sl.slvec j := by
  show ((sl.warp.settle .sup draw).setLane 0 (((sl.warp.settle .sup draw).lane 0).interrupted sl.slvec j)).lane 0 = _
  rw [Warp.lane_setLane, if_pos rfl, Warp.lane_settle]

theorem exec_interruptEntry (n : Nat) (s : State) : exec (.interruptEntry n) s = .next (s.interrupt n).drawn := rfl

/-- Settles O28: the entry is one new value of the supervisor lane, made where every condition of R343 holds. -/
theorem interruptEntry : Obligations.InterruptEntry := by
  intro s n j sl adm
  constructor
  · intro hih hst hadm hhalt hrun hhold hout hj hbit hlow
    have hdue : s.interruptDue n = true := interruptDue_iff.mpr ⟨hih, hst, hadm, hhalt, hrun, hhold, hout⟩
    have hlowBit : lowBit (s.ipend n &&& (s.core n).imask) = j := lowBit_eq hj hbit hlow
    rw [exec_interruptEntry, interrupt_of_due hdue, hlowBit]
    refine ⟨_, rfl, ?_⟩
    have hcore := State.core_setCore_self s n { s.core n with sl := sl.entered s.draw j }
    intro z
    have hz : z = sl.entered s.draw j := congrArg Core.sl hcore
    have hlane := SupLane.entered_lane sl s.draw j
    rw [hz, hlane]
    exact ⟨rfl, rfl, rfl, rfl, fun _ _ => ⟨rfl, rfl⟩, (congrArg Core.ipendEdge hcore :),
      fun m hm => (State.core_setCore s n m _).trans (if_neg hm), rfl⟩
  · intro h
    have hdue : s.interruptDue n = false := by
      refine Bool.eq_false_iff.mpr fun hd => ?_
      obtain ⟨hih, hst, hadm, -, -, -, hout⟩ := interruptDue_iff.mp hd
      rcases h with h | h | h | h
      · exact Bool.noConfusion (h.symm.trans hih)
      · exact hadm h
      · exact Bool.noConfusion (h.symm.trans hst)
      · exact Bool.noConfusion (h.symm.trans hout)
    rw [exec_interruptEntry, interrupt_of_not_due hdue]
    rfl

/-! ### Reset -/

/-- Cores 0 and 64 boot; every other core stands as it does before its start (R342, R362). -/
theorem core_reset (n : Nat) : State.reset.core n = if n = 0 ∨ n = 64 then Core.boot else Core.init := by
  show (if 0 = n then Core.boot else if 64 = n then Core.boot else Core.init) = _
  by_cases h0 : n = 0
  · rw [if_pos h0.symm, if_pos (.inl h0)]
  · rw [if_neg (Ne.symm h0)]
    exact ite_eq_of_iff _ _ (by omega)

/-- Settles O58: what a core holds depends on nothing but whether it boots. -/
theorem resetState : Obligations.ResetState := by
  unfold Obligations.ResetState
  intro s
  refine ⟨memOk_reset, rfl, rfl, rfl, rfl, rfl, rfl, rfl, rfl, fun n _ => ?_⟩
  intro c boots
  by_cases hb : n = 0 ∨ n = 64
  · have hc : c = Core.boot := (core_reset n).trans (if_pos hb)
    rw [hc, show boots = true from decide_eq_true hb]
    decide
  · have hc : c = Core.init := (core_reset n).trans (if_neg hb)
    rw [hc, show boots = false from decide_eq_false hb]
    decide

end Sys2Proof.Machine
end

section
/-! PROOFS. The special registers: what a read gives, what a write leaves, the ways of a stash, and registers named by an
index (R60 to R66, R263, R264, R357, R418). -/

namespace Sys2Proof.Machine

/-! ### Reads (R60 to R66, R263, R357) -/

/-- The registers of 64 bits. -/
theorem csrWide_eq (n : BitVec 12) :
    csrWide n = decide (n.toNat ∈ [0x010, 0x013, 0x020, 0x021, 0x031, 0x040, 0x042, 0x050]) := by
  have he : csrWide n = (csrInfo n).elim false CsrInfo.wide := by
    unfold csrWide
    cases csrInfo n <;> rfl
  rw [he]
  unfold csrInfo
  split <;> simp_all

theorem toNat_word_zeroExtended (x : Word) : (x.setWidth 64).toNat = x.toNat := BitVec.toNat_setWidth_of_le (by decide)

/-- With no flags due, %fmode reads as it stands. -/
theorem Warp.readFmode_of_none_due {w : Warp} (draw k : Nat) (h : w.flagsDue = []) : w.readFmode draw k = w.fmode := by
  simp [Warp.readFmode, h]

theorem csr_lpc_toNat (s : State) (l : Nat) :
    (s.csr (s.rdCx 0 .none) l 0x010).toNat = 2 * s.cur.pc.toNat + (if s.cur.front = .sup then 1 else 0) := by
  have hr : s.csr (s.rdCx 0 .none) l 0x010 = s.cur.pc ++ BitVec.ofBool (s.cur.front == .sup) := rfl
  rw [hr, BitVec.toNat_append, ← Nat.shiftLeft_add_eq_or_of_lt (BitVec.isLt _), Nat.shiftLeft_eq, Nat.mul_comm]
  cases s.cur.front <;> rfl

theorem csr_fmode_of_none_due {s : State} (l : Nat) (h : s.warp.flagsDue = []) :
    s.csr (s.rdCx 0 .none) l 0x012 = s.warp.fmode.setWidth 64 :=
  congrArg (BitVec.setWidth 64) (Warp.readFmode_of_none_due s.draw _ h)

theorem csrReads : CsrReads := by
  refine ⟨fun o s h => ?_, fun s l hl => ?_⟩
  · intro wide n t
    refine endsWith_of_body h (Eq.refl (execCsrr o s)) ?_
    have ht : t = s.modWarp fun w => w.onLanes (s.activeOf o.g) fun l y => y.wVs s.cur.front o.d.toNat
        (if csrWide o.num then 2 else 1) (s.csr (s.rdCx 0 .none) l o.num.toNat).toNat := by rw [csrWide_eq]
    by_cases hc : o.num = 0x033 ∧ s.activeOf o.g ≠ 0 ∧ s.ipend n &&& 0xFFFF0000 ≠ 0
    · rw [if_pos hc, ht]
      exact if_pos hc
    · rw [if_neg hc, ht]
      exact if_neg hc
  · intro c w y r
    have hw : ∀ x : Word, (x.setWidth 64).toNat = x.toNat := toNat_word_zeroExtended
    refine ⟨Nat.mod_eq_of_lt (by omega), hw w.wid, hw w.task, ?_, csr_lpc_toNat s l, hw w.tilepart, fun h => ?_, rfl, rfl, rfl,
      BitVec.toNat_setWidth_of_le (by decide), rfl, hw c.imask, hw _, rfl, hw w.asid, rfl, fun h => ?_, fun h => ?_, ?_⟩
    · intro k hk
      obtain rfl | rfl | rfl | rfl : k = 0 ∨ k = 1 ∨ k = 2 ∨ k = 3 := by omega
      all_goals exact hw _
    · exact (congrArg BitVec.toNat (csr_fmode_of_none_due l h)).trans (hw _)
    · exact congrArg BitVec.toNat (Cell.read_of_closed _ _ h)
    · exact (hw _).trans (congrArg BitVec.toNat (Cell.read_of_closed _ _ h))
    · intro k hk
      obtain rfl | rfl | rfl : k = 0 ∨ k = 1 ∨ k = 2 := by omega
      all_goals
        exact ⟨fun h => (hw _).trans (congrArg BitVec.toNat (Cell.read_of_closed _ _ h)),
          fun h => (hw _).trans (congrArg BitVec.toNat (Cell.read_of_closed _ _ h))⟩

/-! ### Writes (R61 to R66, R263) -/

theorem lo32_eq (x : DWord) : lo32 x = x.setWidth 32 := by
  apply BitVec.eq_of_getLsbD_eq
  intro i hi
  simp [lo32, hi]

/-- The low half of what a write leaves depends on the low half of the value alone. -/
theorem lo32_on (op : CsrOp) (x y : DWord) : lo32 (op.on x ((lo32 y).setWidth 64)) = lo32 (op.on x y) := by
  apply BitVec.eq_of_getLsbD_eq
  intro i hi
  have h64 : i < 64 := by omega
  cases op <;> simp [lo32, CsrOp.on, hi, h64]

/-- The kind of the value is that of the register's width, for every register that some state writes. -/
theorem csrKind_of_written {n : BitVec 12} (h : n.toNat ∉ [0x010, 0x013, 0x020, 0x021, 0x042]) :
    csrKind n = if n.toNat ∈ [0x031, 0x040, 0x050] then .i64 else .i32 := by
  have hw : csrWide n = decide (n.toNat ∈ [0x031, 0x040, 0x050]) := by
    rw [csrWide_eq]
    exact decide_eq_decide.mpr (by simp_all)
  simp [csrKind, hw]

theorem exec_csrInstr (op : CsrOp) (o : CsrForm) (s : State) :
    exec (csrInstr op o) s = runInstr (csrInstr op o) o.g none .none (csrSrcs o) noDyn (csrWriteBody op o) s := by
  cases op <;> rfl

/-- A change of the issuing warp is what it makes of the warp as it stands. -/
theorem State.modWarp_congr {s : State} {f g : Warp → Warp} (h : f s.warp = g s.warp) : s.modWarp f = s.modWarp g :=
  congrArg (s.setWarpOf s.cur.who) h

/-- With no flags due, a write of %fmode replaces what stands there. -/
theorem Warp.wFmode_of_none_due {w : Warp} (draw : Nat) (op : CsrOp) (v : Word) (h : w.flagsDue = []) :
    w.wFmode draw op v = { w with fmode := lo32 (op.on (w.fmode.setWidth 64) (v.setWidth 64)) &&& 0x1F0F } := by
  simp [Warp.wFmode, h]

section
variable (s : State) (op : CsrOp) (old v : DWord)

theorem State.wCsr_tilepart : s.wCsr op 0x011 old v = s.modWarp fun w => { w with
    tilepart := if 1 ≤ (op.on old v).toNat % 8 ∧ (op.on old v).toNat % 8 ≤ 5 then BitVec.ofNat 32 ((op.on old v).toNat % 8) else 5 } := rfl

theorem State.wCsr_fmode (h : s.warp.flagsDue = []) (ho : old = s.warp.fmode.setWidth 64) :
    s.wCsr op 0x012 old v = s.modWarp fun w => { w with fmode := (op.on old v).setWidth 32 &&& 0x1F0F } := by
  refine State.modWarp_congr ?_
  rw [Warp.wFmode_of_none_due _ _ _ h, lo32_on, lo32_eq, ho]

theorem State.wCsr_timecmp :
    s.wCsr op 0x031 old v = s.modCore s.cur.who.core fun c => { c with timecmp := op.on old v } := rfl

theorem State.wCsr_imask : s.wCsr op 0x032 old v =
    s.modCore s.cur.who.core fun c => { c with imask := (op.on old v).setWidth 32 &&& 0xFFFF001F } := rfl

theorem State.wCsr_ipend (h : op ≠ .clear) : s.wCsr op 0x033 old v =
    s.modCore s.cur.who.core fun c => { c with ipendEdge := c.ipendEdge &&& ~~~(v.setWidth 32 &&& 0xFFFF0018) } := if_neg h

theorem State.wCsr_ptroot :
    s.wCsr op 0x040 old v = s.modWarp fun w => { w with ptroot := op.on old v &&& 0x00FFFFFFFFFF0001 } := rfl

theorem State.wCsr_asid :
    s.wCsr op 0x041 old v = s.modWarp fun w => { w with asid := (op.on old v).setWidth 32 &&& 0xFFFF } := rfl

end

section
variable (f : Front) (v : DWord) (y : Lane)

theorem Lane.wTrap_tpc : y.wTrap f 0x050 v = { y with tpc := Cell.write f v y.tpc } := rfl

theorem Lane.wTrap_tcause : y.wTrap f 0x051 v = { y with tcause := Cell.write f (v.setWidth 32 &&& 0xFFFF) y.tcause } := rfl

theorem Lane.wTrap_tword {n : Nat} (hn : 0x052 ≤ n ∧ n ≤ 0x054) :
    y.wTrap f n v = { y with tword := upd zeroV y.tword (n - 0x052) (Cell.write f (v.setWidth 32)) } := by
  obtain rfl | rfl | rfl : n = 0x052 ∨ n = 0x053 ∨ n = 0x054 := by omega
  all_goals rfl

theorem Lane.wTrap_top {n : Nat} (hn : 0x055 ≤ n ∧ n ≤ 0x057) :
    y.wTrap f n v = { y with top := upd zeroV y.top (n - 0x055) (Cell.write f (v.setWidth 32)) } := by
  obtain rfl | rfl | rfl : n = 0x055 ∨ n = 0x056 ∨ n = 0x057 := by omega
  all_goals rfl

end

/-- A write of %waymask that is no valid mask or takes bytes in use is ignored (R63). -/
theorem State.wWaymask_of_refused {s : State} {v : DWord} (act : Mask) (hp : (s.core s.cur.who.core).wayPend = none)
    (hr : (s.core s.cur.who.core).waysRefused (v.setWidth 12) = true) : s.wWaymask act v = ⟨s, act⟩ := by
  simp only [State.wWaymask, hp, hr, if_true]
  rfl

/-- Else it is pending and holds its front (R63). -/
theorem State.wWaymask_of_taken {s : State} {v : DWord} (act : Mask) (hp : (s.core s.cur.who.core).wayPend = none)
    (hr : (s.core s.cur.who.core).waysRefused (v.setWidth 12) = false) :
    s.wWaymask act v =
      ⟨((s.setCore s.cur.who.core { s.core s.cur.who.core with wayPend := some (v.setWidth 12) }).modWarp fun w =>
        w.setFront s.cur.front { w.front s.cur.front with hold := .waymask }).push (.waymaskTakeEffect s.cur.who.core), act⟩ := by
  simp only [State.wWaymask, hp, hr]
  rfl

/-- The write of a register of the lanes: each active lane writes its own value (R263). -/
theorem csrWriteBody_lanes {o : CsrForm} (op : CsrOp) (x : Issue) (s : State) (h : 0x050 ≤ o.num.toNat) :
    csrWriteBody op o x s = ⟨s.modWarp fun w => w.onLanes x.act fun l y => y.wTrap x.cx.front o.num.toNat
      (op.on (s.csr x.cx l o.num.toNat) (BitVec.ofNat 64 (x.cx.srcA l o.a (csrKind o.num)))), x.act⟩ := if_pos h

/-- The write of %waymask, from the lowest active lane (R63). -/
theorem csrWriteBody_waymask {o : CsrForm} (op : CsrOp) (x : Issue) (s : State) (h : o.num.toNat = 0x030) (ha : x.act ≠ 0) :
    csrWriteBody op o x s = s.wWaymask x.act (op.on (s.csr x.cx (lowLane x.act) o.num.toNat)
      (BitVec.ofNat 64 (x.cx.srcA (lowLane x.act) o.a (csrKind o.num)))) := by
  rw [csrWriteBody, if_neg (by omega), if_neg ha]
  exact if_pos h

/-- The write of any other register, once from the lowest active lane (R263). -/
theorem csrWriteBody_once {o : CsrForm} {k : Nat} (op : CsrOp) (x : Issue) (s : State) (hk : o.num.toNat = k) (h : k < 0x050)
    (hw : k ≠ 0x030) (ha : x.act ≠ 0) :
    csrWriteBody op o x s = ⟨s.wCsr op k (s.csr x.cx (lowLane x.act) o.num.toNat)
      (BitVec.ofNat 64 (x.cx.srcA (lowLane x.act) o.a (csrKind o.num))), x.act⟩ := by
  subst hk
  rw [csrWriteBody, if_neg (by omega), if_neg ha]
  exact if_neg hw

/-- A write of a special register ends as its body does. -/
theorem csrInstr_endsWith {op : CsrOp} {o : CsrForm} {s s' : State} {adv : Mask} (h : Executes (csrInstr op o) s)
    (hb : csrWriteBody op o (s.issueOf o.g none .none (csrSrcs o)) s = ⟨s', adv⟩) : EndsWith (csrInstr op o) o.g s s' adv :=
  endsWith_of_body h (exec_csrInstr op o s) hb

/-- R61 to R66, R263: the cases follow the registers' numbers; `once` and `lanes` say what a write of any register outside
and inside the trap registers does. -/
theorem csrWrites : CsrWrites := by
  intro op o s h hact act cx n c wide arg new v v32 core warp lane
  have hon : ∀ l, op.on (s.csr cx l o.num.toNat) (arg l) = new l := fun l => by cases op <;> rfl
  have harg : o.num.toNat ∉ [0x010, 0x013, 0x020, 0x021, 0x042] →
      ∀ l, BitVec.ofNat 64 (cx.srcA l o.a (csrKind o.num)) = arg l := fun hn l => by
    rw [csrKind_of_written hn]
    simp only [arg, wide, decide_eq_true_eq]
  have once {k : Nat} {s' : State} (hk : o.num.toNat = k) (hn : k < 0x050 ∧ k ≠ 0x030 ∧ k ∉ [0x010, 0x013, 0x020, 0x021, 0x042])
      (he : s.wCsr op k (s.csr cx (lowLane act) o.num.toNat) (arg (lowLane act)) = s') : EndsWith (csrInstr op o) o.g s s' act := by
    obtain ⟨h50, h30, hn⟩ := hn
    refine csrInstr_endsWith h ?_
    rw [csrWriteBody_once op _ s hk h50 h30 hact, ← he, ← harg (hk ▸ hn)]
    rfl
  have lanes {f : Nat → Lane → Lane} (h50 : 0x050 ≤ o.num.toNat)
      (hf : ∀ l y, Lane.wTrap s.cur.front o.num.toNat (new l) y = f l y) : lane f := by
    refine csrInstr_endsWith h ?_
    have hfun : (fun l y => Lane.wTrap s.cur.front o.num.toNat (new l) y) = f := funext fun l => funext (hf l)
    rw [csrWriteBody_lanes op _ s h50, ← hfun]
    simp only [← hon, ← harg (by simp; omega)]
    rfl
  have hx : op.on (s.csr cx (lowLane act) o.num.toNat) (arg (lowLane act)) = v := hon _
  split <;> rename_i hk
  · exact once hk (by decide) (by rw [State.wCsr_tilepart, hx])
  · intro hd
    have hold := (congrArg (s.csr cx (lowLane act)) hk).trans (csr_fmode_of_none_due _ hd)
    exact once hk (by decide) (by rw [State.wCsr_fmode _ _ _ _ hd hold, hx])
  · have hw : csrWriteBody op o (s.issueOf o.g none .none (csrSrcs o)) s = s.wWaymask act v := by
      rw [csrWriteBody_waymask op _ s hk hact, ← hx, ← harg (by simp [hk])]
      rfl
    exact ⟨fun hp hr => csrInstr_endsWith h (hw.trans (State.wWaymask_of_refused act hp hr)),
      fun hp hr => csrInstr_endsWith h (hw.trans (State.wWaymask_of_taken act hp hr))⟩
  · exact once hk (by decide) (by rw [State.wCsr_timecmp, hx])
  · exact once hk (by decide) (by rw [State.wCsr_imask, hx])
  · exact fun hop => once hk (by decide) (State.wCsr_ipend _ _ _ _ hop)
  · exact once hk (by decide) (by rw [State.wCsr_ptroot, hx])
  · exact once hk (by decide) (by rw [State.wCsr_asid, hx])
  · exact lanes (by omega) fun l y => by rw [hk, Lane.wTrap_tpc]
  · exact lanes (by omega) fun l y => by rw [hk, Lane.wTrap_tcause]
  · exact lanes (by omega) fun l y => Lane.wTrap_tword _ _ y (by omega)
  · exact lanes (by omega) fun l y => Lane.wTrap_tword _ _ y (by omega)
  · exact lanes (by omega) fun l y => Lane.wTrap_tword _ _ y (by omega)
  · exact lanes (by omega) fun l y => Lane.wTrap_top _ _ y (by omega)
  · exact lanes (by omega) fun l y => Lane.wTrap_top _ _ y (by omega)
  · exact lanes (by omega) fun l y => Lane.wTrap_top _ _ y (by omega)
  · trivial

/-! ### The ways of a stash (R63, R418) -/

/-- What a table holds after a change of every entry that leaves the default alone. -/
theorem look_map {α : Type} {d : α} {g : α → α} (hg : g d = d) (t : Table α) (k : Nat) :
    look d (t.map fun e => (e.1, g e.2)) k = g (look d t k) := by
  induction t with
  | nil => exact hg.symm
  | cons e t ih =>
    simp only [List.map_cons, look]
    split
    · rfl
    · exact ih

theorem Warp.marker_hold (f g : Front) (draw : Nat) (w : Warp) : ((w.marker f draw).front g).hold = (w.front g).hold := by
  unfold Warp.marker
  split
  · cases f <;> cases g <;> rfl
  · rfl

/-- A front that a write of %waymask held goes on as at a switch marker. -/
def Warp.freeFront (f : Front) (draw : Nat) (w : Warp) : Warp :=
  if (w.front f).hold = .waymask then (w.setFront f { w.front f with hold := .none }).marker f draw else w

theorem Warp.freeWays_eq (draw : Nat) (w : Warp) : w.freeWays draw = (w.freeFront .user draw).freeFront .sup draw := rfl

theorem Warp.freeFront_hold (f g : Front) (draw : Nat) (w : Warp) : ((w.freeFront f draw).front g).hold =
    if g = f ∧ (w.front f).hold = .waymask then .none else (w.front g).hold := by
  unfold Warp.freeFront
  by_cases h : (w.front f).hold = .waymask
  · rw [if_pos h, Warp.marker_hold]
    cases f <;> cases g <;> simp_all [Warp.front, Warp.setFront]
  · rw [if_neg h, if_neg fun hc => h hc.2]

/-- No front of the warp is held any more by the write that took effect. -/
theorem Warp.freeWays_hold (draw : Nat) (w : Warp) (f : Front) : ((w.freeWays draw).front f).hold ≠ .waymask := by
  rw [Warp.freeWays_eq, Warp.freeFront_hold, Warp.freeFront_hold, Warp.freeFront_hold]
  by_cases h : (w.front f).hold = .waymask
  · cases f <;> simp [h]
  · cases f <;> simp [h]

/-- The core with mask m in effect, its fronts free. -/
def Core.withWays (m : BitVec 12) (draw : Nat) (c : Core) : Core :=
  { c with
    waymask := m, wayPend := none
    slots := c.slots.map fun e => (e.1, e.2.freeWays draw), sl := { c.sl with warp := c.sl.warp.freeWays draw } }

theorem Core.warp_withWays (m : BitVec 12) (draw : Nat) (c : Core) (x : Ctx) :
    (c.withWays m draw).warp x = (c.warp x).freeWays draw := by
  cases x with
  | slot k => exact look_map rfl c.slots k
  | sl => rfl

/-- The state once the windows that lie in the ways removed, and with all ways the copies of L1, are gone. -/
def State.withoutWays (s : State) (n : Nat) (m : BitVec 12) : State :=
  let c := s.core n
  let gone := c.windows.filter fun x => decide (wayBytes m < (c.run x.task).base + x.soff + x.len)
  let u := gone.foldl (fun u x => u.unmap n x) s
  if m = 0xFFF then (u.core n).l1.foldl (fun u e => u.dropL1 n e.1) u else u

section
variable {s : State} {n : Nat} {m : BitVec 12}

theorem exec_waymaskTakeEffect_of_none (h : (s.core n).wayPend = none) : exec (.waymaskTakeEffect n) s = .next s := by
  show execWaymaskTakeEffect n s = _
  simp only [execWaymaskTakeEffect, h]

theorem exec_waymaskTakeEffect_of_busy (h : (s.core n).wayPend = some m) (hb : s.waysBusy n m = true) :
    exec (.waymaskTakeEffect n) s = .next s := by
  show execWaymaskTakeEffect n s = _
  simp only [execWaymaskTakeEffect, h, hb, if_true]

theorem exec_waymaskTakeEffect_of_free (h : (s.core n).wayPend = some m) (hb : s.waysBusy n m = false) :
    exec (.waymaskTakeEffect n) s = .next
      { (((s.withoutWays n m).setCore n (((s.withoutWays n m).core n).withWays m (s.withoutWays n m).draw)).push .taskPlacement) with
        draw := (s.withoutWays n m).draw + 1 } := by
  show execWaymaskTakeEffect n s = _
  simp only [execWaymaskTakeEffect, h, hb]
  rfl

end

theorem waysChange : WaysChange := by
  intro n s c
  refine ⟨exec_waymaskTakeEffect_of_none, fun m hm => ⟨exec_waymaskTakeEffect_of_busy hm, fun hb => ?_⟩⟩
  intro gone _ u
  have hu : s.withoutWays n m = u := rfl
  refine ⟨_, exec_waymaskTakeEffect_of_free hm hb, ?_⟩
  rw [hu]
  clear_value u
  have hcore := State.core_setCore_self u n ((u.core n).withWays m u.draw)
  refine ⟨(congrArg Core.waymask hcore :), (congrArg Core.wayPend hcore :), (congrArg Core.l1 hcore :),
    (congrArg Core.windows hcore :), ?_, rfl, fun k hk => (State.core_setCore u n k _).trans (if_neg hk), rfl, rfl, rfl⟩
  rintro ⟨_, x⟩ rfl f
  have hw := (congrArg (fun c => c.warp x) hcore).trans (Core.warp_withWays m u.draw (u.core _) x)
  exact fun hh => Warp.freeWays_hold u.draw ((u.core _).warp x) f ((congrArg (fun w => (Warp.front w f).hold) hw).symm.trans hh)

/-! ### Registers by index (R264) -/

theorem registerIndex : RegisterIndex := by
  intro o s cx i act
  exact ⟨fun h => endsWith_of_body h (Eq.refl (execVrdi o s)) rfl, fun h => endsWith_of_body h (Eq.refl (execVwri o s)) rfl⟩

/-- Settles O48: each register's write is one equation of `wCsr` or `wTrap`, of the value that `CsrOp.on` makes of the old
one; %waymask takes effect by the two cases of `waysBusy`. -/
theorem specialRegisters : Obligations.SpecialRegisters := ⟨csrReads, csrWrites, waysChange, registerIndex⟩

end Sys2Proof.Machine
end
